-- ==== Sys2Proof/Word.lean ====
section
/-!
DEFINITION. The word types of the Naotte Clovik and their plainest arithmetic (00 R2 to R4).
-/

namespace Sys2Proof

/-- One byte, the smallest addressable unit (R4). -/
abbrev Byte := BitVec 8

/-- One 32-bit word: a lane of a vector register, a mask, an fp32 pattern (R18, R51). -/
abbrev Word32 := BitVec 32

/-- One 64-bit word: a scalar register, an address, an instruction word (R18, R78). -/
abbrev Word64 := BitVec 64

/-- One 64-byte coherence line (R335). -/
abbrev Line := BitVec 512

end Sys2Proof
end

