-- ==== Sys2Proof/Config.lean ====
section
/-!
DEFINITION. What one implementation fixes and the free values: uninterpreted constants that no proof can evaluate.
-/

namespace Sys2Proof.Config

/-- A free value, fresh for each count of `State.freeCtr`: which of several allowed outcomes the part takes, where
the manual allows any (R305: the private index; R415: the entry of an inconsistent run).  Log entry 11. -/
opaque freeValue : Nat → BitVec 64

/-- How many undo copies a log region of a size holds (R456): the layout of the region is not given.  Log entry 15. -/
opaque undoRoom : Nat → Nat

/-- Where in a log region the persistence unit puts a seal record or an undo copy (R456, R457), as a number of 64-byte
places: the layout of the region is not given.  The first argument is 0 for a seal record and a line's number plus 1 for
its undo copy; the second tells the domain and the checkpoint.  Log entry 15. -/
opaque logPlace : Nat → Nat → Nat

/-- The memory controller that a line belongs to, modulo 24 (R399): how lines spread is not given.  Log entry 39. -/
opaque regulatorOf : Nat → Nat

/-- Whether an address of an index or primitive array that is a legal scratchpad address names the scratchpad (R308,
R310): the descriptor holds no space bit for it.  Log entry 19. -/
opaque arrayInScratch : Nat → Bool

/-- KIND and PAYLOAD of the journal entries that the manual asks for and gives neither of (R467, R482): what is reported
(0 a leave, 1 a join, 2 a failed self-test) and of which cluster.  Log entry 51. -/
opaque entryKind : Nat → BitVec 8

/-- The PAYLOAD of such an entry. -/
opaque entryPayload : Nat → Nat → BitVec 896

/-- The byte that a peer behind the PCIe link returns to an outbound read (R425): the peer's behaviour is not given.
Log entry 12. -/
opaque outboundByte : Nat → BitVec 8

/-- ML-DSA-87 verification of a signature over a digest under a public key (R467): the scheme is named, its
algorithm is not in the manual.  Log entry 9. -/
opaque mldsaVerify : List Byte → List Byte → List Byte → Bool

/-- ML-DSA-87 signature of a digest under the identity key of the device (R469): 4,627 bytes.  Log entry 9. -/
opaque mldsaSign : List Byte → List Byte

/-- The SHA3-512 digest of the Galwell root key that the boot ROM holds (R467).  Log entry 9. -/
opaque rootKeyDigest : List Byte

/-- The identity public key of the device (R469).  Log entry 9. -/
opaque identityKey : List Byte

end Sys2Proof.Config
end

