-- ==== Sys2Proof/Syntax.lean ====
section
/-!
DEFINITION. The syntax of the Clovik: the five instruction formats with their fields (R80 to R85), and the one
inductive of all steps of spec/opcode_table.json, one constructor per row.  The rows without a word of their own are
the steps of the other agents; their arguments say where the step happens.
-/

namespace Sys2Proof

/-- The fields of a format R or E word below MAJ and MIN (R80); `lit` is the extension word when L = 1 (R85). -/
structure RWord where
  dt   : BitVec 3
  u    : Bool
  lit  : Option (BitVec 64)
  pk   : BitVec 4
  d    : BitVec 8
  a    : BitVec 8
  actl : BitVec 2
  b    : BitVec 8
  bctl : BitVec 2
  c    : BitVec 8
  cctl : BitVec 2
  mod  : BitVec 5
  deriving DecidableEq, Repr

/-- The fields of a format I word (R81). -/
structure IWord where
  dt   : BitVec 3
  u    : Bool
  pk   : BitVec 4
  d    : BitVec 8
  a    : BitVec 8
  actl : BitVec 2
  imm  : BitVec 25
  deriving DecidableEq, Repr

/-- The fields of a format M word (R82). -/
structure MWord where
  dt   : BitVec 3
  u    : Bool
  lit  : Option (BitVec 64)
  pk   : BitVec 4
  d    : BitVec 8
  a    : BitVec 8
  actl : BitVec 2
  b    : BitVec 8
  bctl : BitVec 2
  off  : BitVec 10
  mod  : BitVec 5
  deriving DecidableEq, Repr

/-- The fields of a format B word and of its extension word (R83); `rsv` is extension bits [63:48]. -/
structure BWord where
  dt    : BitVec 3
  u     : Bool
  pk    : BitVec 4
  d     : BitVec 8
  a     : BitVec 8
  actl  : BitVec 2
  b     : BitVec 8
  bctl  : BitVec 2
  c     : BitVec 8
  cctl  : BitVec 2
  mod   : BitVec 5
  rsv   : BitVec 16
  tok   : BitVec 16
  off32 : BitVec 32
  deriving DecidableEq, Repr

/-- The three spaces of an atomic: MAJ 0x15, 0x16, 0x17 (R201). -/
inductive AtomSpace where
  | global | scratch | scalar
  deriving DecidableEq, Repr

/-- The order field of an atomic, MIN[5:4] (R91). -/
inductive AtomOrder where
  | relaxed | acq | rel | ar
  deriving DecidableEq, Repr

/-- A party whose requests a regulator counts: a job or one of the four classes (R399, R403). -/
inductive Charge where
  | job (j : Nat) | app | host | sensor | persist
  deriving DecidableEq, Repr

/-- A token holder: a cluster cache or the L2 of an application-core pair (R335).  The home slice is the rest. -/
inductive Holder where
  | cluster (n : Nat) | pair (p : Nat) | timetable
  deriving DecidableEq, Repr

/-- The data types that a CSI-2 port can select (R428), and any other. -/
inductive DataType where
  | raw8 | raw10 | raw12 | raw14 | raw16 | yuv422 | rgb888 | embedded | user (n : Nat) | other (n : Nat)
  deriving DecidableEq, Repr

/-- A packet of a frame: virtual channel, data type, payload as received, and whether its header ECC cannot be corrected
or its payload CRC fails (R428). -/
structure Packet where
  chan  : Nat
  dtype : DataType
  bytes : List Byte
  err   : Bool
  deriving DecidableEq, Repr

/-- A frame as it arrives at a port (R406, R408, R428, R429): at a CSI-2 port the virtual channel and number of its frame
start packet, and the packets until the frame end of that channel; at an Ethernet port the frame's bytes in one packet. -/
structure FrameIn where
  chan    : Nat
  fnum    : BitVec 16
  packets : List Packet
  deriving DecidableEq, Repr

/-- A read-modify-write of an application core. -/
inductive AmoOp where
  | swap | add | xor | and | or | min | max | minu | maxu
  deriving DecidableEq, Repr

/-- A privilege level of an application core with the H extension (R386, R431). -/
inductive Priv where
  | u | s | m | vu | vs
  deriving DecidableEq, Repr

/-- An address-translation mode: those of satp, of which hgatp has the first four (R409, R431). -/
inductive SatpMode where
  | bare | sv39 | sv48 | sv57 | part
  deriving DecidableEq, Repr

/-- What the instruction stream of an application core sets in the core: its level, its translation registers with the
physical page of the root table, the two bits of its status that translation reads, and the partition register (R385,
R431). -/
inductive AppSet where
  | level (l : Priv)
  | satp (m : SatpMode) (ppn : Nat)
  | vsatp (m : SatpMode) (ppn : Nat)
  | hgatp (m : SatpMode) (ppn : Nat)
  | sum (b : Bool)
  | mxr (b : Bool)
  | partition (p : BitVec 6)
  | enable (ids : BitVec 256)
  deriving DecidableEq, Repr

/-- An access of an application core to device memory, at an address of its space, or a step on its own registers: an
interrupt claimed at its IMSIC, or a register set (R342, R385, R431). -/
inductive AppAccess where
  | load (va : Nat) (size : Nat)
  | store (va : Nat) (bytes : List Byte)
  | amo (op : AmoOp) (va : Nat) (size : Nat) (operand : BitVec 64) (aq rl : Bool)
  | lr (va : Nat) (size : Nat) (aq rl : Bool)
  | sc (va : Nat) (size : Nat) (operand : BitVec 64) (aq rl : Bool)
  | fence (pred succ : Bool)
  | cboClean (va : Nat)
  | cboInval (va : Nat)
  | cboFlush (va : Nat)
  | cboZero (va : Nat)
  | claim
  | set (x : AppSet)
  deriving DecidableEq, Repr

/-- What a scrub finds in a line (R441). -/
inductive ScrubFinding where
  | clean | correctable | uncorrectable
  deriving DecidableEq, Repr

/-- Which word of an instruction could not be fetched (R79). -/
inductive FetchWord where
  | base | ext (base : BitVec 64)
  deriving DecidableEq, Repr

/-- A synchronisation message at an Ethernet port (R430): whether it follows the IEEE 1588 profile and not 802.1AS, the
priority vector of its master as a number (the lower is the better), offset of TIME in ns (positive: TIME is ahead), the
rate estimate in 0.1 ppm, and the grandmaster it comes from. -/
structure SyncMsg where
  port   : Nat
  p1588  : Bool
  rank   : Nat
  offset : Int
  rate   : Int
  gm     : Nat
  deriving DecidableEq, Repr

/-- Every row of spec/opcode_table.json. -/
inductive Instr where
  -- MAJ 0x01, control
  | bra (f : BWord) | brc (f : BWord) | brv (f : BWord) | join (f : BWord) | call (f : BWord)
  | ret (f : RWord) | jmpi (f : RWord) | exit (f : RWord) | nop (f : RWord) | yield (f : RWord)
  | ckpt (f : RWord) | trap (f : RWord) | rfe (f : RWord) | recessok (f : RWord) | tsleep (f : RWord)
  | tsleepWake (w slot : Nat) | deferredTrap (w slot : Nat) | recessTrap (w slot : Nat)
  -- MAJ 0x02, integer arithmetic
  | add (f : RWord) | sub (f : RWord) | mul (f : RWord) | mulh (f : RWord) | mad (f : RWord)
  | div (f : RWord) | rem (f : RWord) | min (f : RWord) | max (f : RWord) | abs (f : RWord)
  | neg (f : RWord) | adds (f : RWord) | subs (f : RWord) | sad (f : RWord)
  -- MAJ 0x03, logic and bits
  | and (f : RWord) | or (f : RWord) | xor (f : RWord) | not (f : RWord) | shl (f : RWord)
  | shr (f : RWord) | sra (f : RWord) | clz (f : RWord) | popc (f : RWord) | brev (f : RWord)
  | bfe (f : RWord) | bfi (f : RWord)
  -- MAJ 0x04, compare, select, move
  | cmp (f : RWord) | sel (f : RWord) | mov (f : RWord)
  -- MAJ 0x07, integer immediate
  | addImm (f : IWord) | mulImm (f : IWord) | andImm (f : IWord) | orImm (f : IWord) | xorImm (f : IWord)
  | shlImm (f : IWord) | shrImm (f : IWord) | sraImm (f : IWord) | movImm (f : IWord)
  -- MAJ 0x05, masks
  | kand (f : RWord) | kor (f : RWord) | kxor (f : RWord) | knot (f : RWord) | kpop (f : RWord)
  | kffs (f : RWord) | kmov (f : RWord)
  -- MAJ 0x06, system
  | sget (f : RWord) | sset (f : RWord) | bkMode (f : RWord) | bankModeRetire (w slot : Nat)
  -- MAJ 0x08, floating point
  | fadd (f : RWord) | fsub (f : RWord) | fmul (f : RWord) | fma (f : RWord) | fdiv (f : RWord)
  | fsqrt (f : RWord) | fmin (f : RWord) | fmax (f : RWord) | fminnum (f : RWord) | fmaxnum (f : RWord)
  | fabs (f : RWord) | fneg (f : RWord) | fcmp (f : RWord) | fclass (f : RWord) | fround (f : RWord)
  -- MAJ 0x09, special functions
  | vfrcp (f : RWord) | vfrsq (f : RWord) | vfexp2 (f : RWord) | vflog2 (f : RWord) | vfsin (f : RWord)
  | vfcos (f : RWord)
  -- MAJ 0x0A, conversion and dot products
  | vcvt (f : RWord) | vcvtfTo (f : RWord) | vcvtfFrom (f : RWord) | vdot4 (f : RWord) | vdot2 (f : RWord)
  -- MAJ 0x0B, cross-lane
  | xshfl (f : RWord) | xrot (f : RWord) | xbcast (f : RWord) | xvote (f : RWord) | xballot (f : RWord)
  | xred (f : RWord) | xscan (f : RWord) | xmatch (f : RWord) | xmaxidx (f : RWord)
  -- MAJ 0x0C, random
  | vrand (f : RWord)
  -- MAJ 0x10 to 0x12, loads and stores
  | ldG (f : MWord) | stG (f : MWord) | ldGAcq (f : MWord) | stGRel (f : MWord)
  | ldS (f : MWord) | stS (f : MWord) | ldSAcq (f : MWord) | stSRel (f : MWord)
  | ldU (f : MWord) | stU (f : MWord) | ldUAcq (f : MWord) | stURel (f : MWord)
  | resultArrival (w k : Nat)
  -- MAJ 0x13, 0x14
  | fqPush (f : MWord) | fqPop (f : MWord) | fifoService (w slot : Nat)
  | vspill (f : MWord) | vfill (f : MWord) | pref (f : MWord)
  | cclean (f : MWord) | cinval (f : MWord) | cflush (f : MWord)
  | fenceAcq (f : RWord) | fenceRel (f : RWord) | fenceAr (f : RWord)
  -- MAJ 0x15 to 0x17, atomics
  | atomAdd (sp : AtomSpace) (o : AtomOrder) (f : RWord) | atomMin (sp : AtomSpace) (o : AtomOrder) (f : RWord)
  | atomMax (sp : AtomSpace) (o : AtomOrder) (f : RWord) | atomAnd (sp : AtomSpace) (o : AtomOrder) (f : RWord)
  | atomOr (sp : AtomSpace) (o : AtomOrder) (f : RWord) | atomXor (sp : AtomSpace) (o : AtomOrder) (f : RWord)
  | atomXchg (sp : AtomSpace) (o : AtomOrder) (f : RWord) | atomCas (sp : AtomSpace) (o : AtomOrder) (f : RWord)
  | atomFadd (sp : AtomSpace) (o : AtomOrder) (f : RWord) | atomMaxidx (sp : AtomSpace) (o : AtomOrder) (f : RWord)
  -- MAJ 0x18, synchronisation
  | bar (f : RWord) | gbar (f : RWord) | tlInc (f : RWord) | tlWait (f : RWord) | tlWaitSatisfied (w slot : Nat)
  | tlRead (f : RWord) | spawn (f : RWord) | rgOpen (f : RWord) | rgOpenGranted (w slot : Nat) | rgClose (f : RWord)
  | ckBegin (f : RWord) | ckSeal (f : RWord)
  -- MAJ 0x20 to 0x24, engines
  | ceCopy (f : RWord) | ceFill (f : RWord) | ceGatherrows (f : RWord) | lrFlush (f : RWord)
  | mxPost (f : RWord) | mxCancel (f : RWord) | mxStatus (f : RWord)
  | tvPair (f : RWord) | tvBox (f : RWord) | tvResume (f : RWord)
  | rsTri (f : RWord) | rsSplat (f : RWord)
  | visFlow (f : RWord) | visDisp (f : RWord) | visRefine (f : RWord)
  -- engine steps; k names an accepted command or record
  | engineQueueRoom (w slot : Nat) | commandStart (k : Nat) | commandRetire (k : Nat)
  | mm (k : Nat) | mmz (k : Nat) | mmStep (k : Nat) | cvacc (k : Nat)
  | ewiseConvert (k : Nat) | ewiseBias (k : Nat) | ewiseRelu (k : Nat) | ewiseScale (k : Nat)
  | rsum (k : Nat) | rckpt (k : Nat) | rwait (k : Nat)
  | faultRetry (p token : Nat) | faultDecline (p token : Nat)
  -- the Timetable
  | queueEnable (q : Nat) | queueDisable (q : Nat) | jobLoad (p j : Nat) | tailRecall (q : Nat)
  | periodicRelease (j : Nat) | workgroupPlacement (l g : Nat) | recessBoundExpiry (j : Nat)
  | deadlineMiss (j : Nat) | exqHeadRecall (j : Nat) | watchdogExpiry (q : Nat)
  | drainKill (p : Nat) | drainAbort (p : Nat) | drainEnd (p : Nat)
  -- management registers
  | partitionTableWrite (p word : Nat) (v : BitVec 64) | waysWrite (p : Nat) (ways : BitVec 24)
  | poolMapWrite (cl : Nat) (pool : BitVec 2) | registerWrite (pa : Nat) (v : BitVec 64)
  -- regulators
  | regulatorReadRequest (g : Nat) (c : Charge) (id : Nat) | regulatorWindowStart (g : Nat) (c : Charge)
  -- streams and time
  | streamEnable (port : Nat) | frameStart (port : Nat) (fr : FrameIn) | frameEnd (port : Nat)
  | ptpSync (m : SyncMsg) | syncTimeout | journalWrite (p : Nat)
  -- translation caches
  | invalidatePartition (p : Nat) | invalidateRange (p : Nat) | invalidateWalkCaches (p : Nat)
  | invalidationComplete (p : Nat)
  -- host and Ethernet
  | hostRead (fn bar off size : Nat) | hostWrite (fn bar off : Nat) (bytes : List Byte)
  | pcieLinkDown | pcieLinkUp | ethernetTransmit (port ring : Nat)
  -- tokens
  | tokenRequest (h : Holder) (line : Nat) (wr : Bool) | forwardedRequest (m : Nat) | tokenResponse (m : Nat)
  | transientTimeout (h : Holder) (line : Nat) | persistentRequest (h : Holder) (line : Nat)
  | persistentDeactivate (line : Nat) | leave (h : Holder) | joinMessage (h : Holder)
  | tokensLost (line : Nat) (h : Holder)
  -- checkpoints, storage, links
  | restore (p d : Nat) | modulePowerFail | patrolScrub (line : Nat) (fnd : ScrubFinding) | flitCrcRetry
  | laneRetrain (dir lane : Nat) | meshLinkFailure (a b : Nat)
  -- the Proctor
  | boot | proctorRestart (cause : Nat) | proctorRestartComplete | heartbeat (dom : Nat)
  | heartbeatTimeout (dom : Nat) | domainRestart (dom : Nat) | domainRestartDone (dom : Nat) | quote
  | powerSample (milliwatts : Nat) | clusterPowerDown (cl : Nat)
  -- issue failures, other agents
  | illegalOpcode (word : BitVec 64) | instructionFetchFault (fw : FetchWord) (cause : BitVec 8) (malf : Bool)
  | applicationCoreAccess (pair core : Nat) (acc : AppAccess) | ckWriteAccepted (k : Nat)
  deriving DecidableEq, Repr

end Sys2Proof
end

