-- ==== Sys2Proof/WellFormed.lean ====
section
/-!
DEFINITION. Which field values each instruction allows: check 2 of R36 as far as it is decided by the words alone
(reserved fields, unused fields, operand classes, DT, U and MOD values).  An instruction that breaks a check traps
with RESERVED_FIELD; checks that depend on the wave (format slots, privilege) are made at execution.
-/

namespace Sys2Proof

/-! ## Register-field classes (R21, R24, R108) -/

namespace OpField

/-- Selects V0 to V127. -/
def isV (f : BitVec 8) : Bool := f.toNat < 128
/-- Selects S0 to S63. -/
def isS (f : BitVec 8) : Bool := 128 ≤ f.toNat && f.toNat < 192
/-- An inline constant, 192 to 231. -/
def isConst (f : BitVec 8) : Bool := 192 ≤ f.toNat && f.toNat < 232
/-- The LIT selector. -/
def isLit (f : BitVec 8) : Bool := f.toNat == 254
/-- No operand. -/
def isNone (f : BitVec 8) : Bool := f.toNat == 255
/-- A vector source (R108); 254 is judged with L by `litOk`. -/
def vsrc (f : BitVec 8) : Bool := f.toNat ≤ 236 || isLit f
/-- A scalar source (R108). -/
def ssrc (f : BitVec 8) : Bool := (128 ≤ f.toNat && f.toNat ≤ 232) || f.toNat == 236 || isLit f
/-- A mask source (R24). -/
def msrc (f : BitVec 8) : Bool := f.toNat < 16
/-- A mask destination: K0 is not one (R24). -/
def mdst (f : BitVec 8) : Bool := 1 ≤ f.toNat && f.toNat < 16
/-- Names an aligned group of n registers when it names a V register (R19). -/
def aligned (f : BitVec 8) (n : Nat) : Bool := !isV f || f.toNat % n == 0
/-- A vector destination of n registers (R108). -/
def vdst (f : BitVec 8) (n : Nat) : Bool := isV f && f.toNat % n == 0
/-- R23: a control other than 00 only on a V or S register. -/
def ctlOk (f : BitVec 8) (ctl : BitVec 2) : Bool := ctl == 0 || f.toNat < 192
/-- An unused register field (R21) with its control (R80). -/
def unused (f : BitVec 8) (ctl : BitVec 2) : Bool := isNone f && ctl == 0
/-- A used vector source of n registers with its control. -/
def vs (f : BitVec 8) (ctl : BitVec 2) (n : Nat := 1) : Bool := vsrc f && aligned f n && ctlOk f ctl
/-- A used scalar source with its control. -/
def ss (f : BitVec 8) (ctl : BitVec 2) : Bool := ssrc f && ctlOk f ctl
/-- A mask source; a mask field uses no source control. -/
def ms (f : BitVec 8) (ctl : BitVec 2) : Bool := msrc f && ctl == 0
/-- An S register or LIT, where R176 accepts 254 wherever an S register is. -/
def sAddr (f : BitVec 8) (ctl : BitVec 2) : Bool := (isS f || isLit f) && ctlOk f ctl
/-- An S register, as an address of a cell that R176 does not name. -/
def sReg (f : BitVec 8) (ctl : BitVec 2) : Bool := isS f && ctlOk f ctl
/-- A register or constant, LIT among the constants: none of the read-only values 232 to 236 (R21, R201). -/
def regOrConst (f : BitVec 8) (ctl : BitVec 2) : Bool := (f.toNat < 232 || isLit f) && ctlOk f ctl

end OpField

open OpField

/-- The number of V registers of an element of the Int table (R88). -/
def intRegs (dt : BitVec 3) : Nat := if dt == 2 || dt == 3 then 2 else 1
/-- A packed type of the Int table. -/
def intPacked (dt : BitVec 3) : Bool := 4 ≤ dt.toNat
/-- The number of V registers of an element of the Wid table (R88). -/
def widRegs (dt : BitVec 3) : Nat := if dt == 5 then 2 else if dt == 6 then 4 else 1
/-- A valid rounding direction with MOD[3] = 0 (R52, R86). -/
def roundOk (m : BitVec 5) : Bool := (m.extractLsb' 3 1 == 0) && (m.extractLsb' 0 3).toNat ≤ 4
/-- MOD[3:0]. -/
def mod4 (m : BitVec 5) : Nat := (m.extractLsb' 0 4).toNat
/-- MOD[2:0]. -/
def mod3 (m : BitVec 5) : Nat := (m.extractLsb' 0 3).toNat
/-- MOD[3]. -/
def modBit3 (m : BitVec 5) : Bool := m.getLsbD 3
/-- MOD[4], NP (R85). -/
def modNP (m : BitVec 5) : Bool := m.getLsbD 4
/-- NP = 1 needs a predicate (R85). -/
def npOk (pk : BitVec 4) (m : BitVec 5) : Bool := !modNP m || pk != 0
/-- No predicate and no negation: the uniform forms (R109). -/
def noPred (pk : BitVec 4) (m : BitVec 5) : Bool := pk == 0 && !modNP m
/-- A scope code (R87). -/
def scopeOk (n : Nat) : Bool := n ≤ 5

namespace RWord

/-- R85: L = 1 exactly when some used field selects 254. -/
def litOk (f : RWord) : Bool := f.lit.isSome == (isLit f.a || isLit f.b || isLit f.c)
/-- Predication as the form has it: a uniform form takes none. -/
def predOk (f : RWord) : Bool := if f.u then noPred f.pk f.mod else npOk f.pk f.mod

/-- An integer or logic form with sources A, and B and C as `nb`, `nc` say (R127, R108). -/
def aluOk (f : RWord) (nb nc : Bool) : Bool :=
  f.litOk && f.predOk && mod4 f.mod == 0 &&
  (if f.u then
     isS f.d && !intPacked f.dt && ss f.a f.actl &&
     (if nb then ss f.b f.bctl else unused f.b f.bctl) && (if nc then ss f.c f.cctl else unused f.c f.cctl)
   else
     vdst f.d (intRegs f.dt) && vs f.a f.actl (intRegs f.dt) &&
     (if nb then vs f.b f.bctl (intRegs f.dt) else unused f.b f.bctl) &&
     (if nc then vs f.c f.cctl (intRegs f.dt) else unused f.c f.cctl))

/-- `cmp` (R132). -/
def cmpOk (f : RWord) : Bool :=
  f.litOk && f.predOk && mod4 f.mod ≤ 5 && !intPacked f.dt && mdst f.d && unused f.c f.cctl &&
  (if f.u then ss f.a f.actl && ss f.b f.bctl
   else vs f.a f.actl (intRegs f.dt) && vs f.b f.bctl (intRegs f.dt))

/-- `sel` (R133). -/
def selOk (f : RWord) : Bool :=
  f.litOk && f.predOk && mod4 f.mod == 0 &&
  (if f.u then
     isS f.d && !intPacked f.dt && ss f.a f.actl && ss f.b f.bctl && ss f.c f.cctl
   else
     vdst f.d (intRegs f.dt) && vs f.a f.actl (intRegs f.dt) && vs f.b f.bctl (intRegs f.dt) && ms f.c f.cctl)

/-- `mov` (R134): B is the one source. -/
def movOk (f : RWord) : Bool :=
  f.litOk && f.predOk && mod4 f.mod == 0 && unused f.a f.actl && unused f.c f.cctl &&
  (if f.u then isS f.d && !intPacked f.dt && ss f.b f.bctl
   else vdst f.d (intRegs f.dt) && vs f.b f.bctl (intRegs f.dt))

/-- A mask or control cell: DT = 0, U = 1, no predicate, L = 0 (R111, R136). -/
def uniPlain (f : RWord) : Bool := f.dt == 0 && f.u && noPred f.pk f.mod && f.litOk

/-- No operand at all. -/
def bare (f : RWord) : Bool :=
  isNone f.d && unused f.a f.actl && unused f.b f.bctl && unused f.c f.cctl

/-- A mask operation on two masks, or one when `two` is false (R136). -/
def maskOk (f : RWord) (two : Bool) : Bool :=
  f.uniPlain && mod4 f.mod == 0 && mdst f.d && ms f.a f.actl &&
  (if two then ms f.b f.bctl else unused f.b f.bctl) && unused f.c f.cctl

/-- `kpop` and `kffs`. -/
def maskCountOk (f : RWord) : Bool :=
  f.uniPlain && mod4 f.mod == 0 && isS f.d && ms f.a f.actl && unused f.b f.bctl && unused f.c f.cctl

/-- The three rows of `kmov`. -/
def kmovOk (f : RWord) : Bool :=
  f.uniPlain && unused f.b f.bctl && unused f.c f.cctl &&
  ((mod4 f.mod == 0 && mdst f.d && ms f.a f.actl) ||
   (mod4 f.mod == 1 && mdst f.d && ss f.a f.actl) ||
   (mod4 f.mod == 2 && isS f.d && ms f.a f.actl))

/-- The special registers of R39. -/
def sregListed (n : BitVec 8) : Bool :=
  n.toNat ≤ 0x21 || (0x30 ≤ n.toNat && n.toNat ≤ 0x35) || n.toNat == 0x38
/-- The per-lane registers WID, LANE, RNGCTR. -/
def sregPerLane (n : BitVec 8) : Bool := n.toNat == 1 || n.toNat == 2 || n.toNat == 0x21
/-- The 64-bit registers of R39. -/
def sregWide (n : BitVec 8) : Bool :=
  n.toNat == 1 || n.toNat == 3 || (0x10 ≤ n.toNat && n.toNat ≤ 0x21) || n.toNat == 0x31 ||
  (0x33 ≤ n.toNat && n.toNat ≤ 0x35) || n.toNat == 0x38

/-- `sget` (R137); the reserved numbers of R39 are refused here, check 1 of R137. -/
def sgetOk (f : RWord) : Bool :=
  f.dt == 0 && f.litOk && f.mod == 0 && f.predOk && unused f.a f.actl && f.bctl == 0 && unused f.c f.cctl &&
  sregListed f.b &&
  (if f.u then isS f.d && !sregPerLane f.b else vdst f.d (if sregWide f.b then 2 else 1))

/-- `sset` (R137). -/
def ssetOk (f : RWord) : Bool :=
  f.dt == 0 && f.litOk && f.mod == 0 && f.predOk && isNone f.d && f.bctl == 0 && unused f.c f.cctl &&
  sregListed f.b &&
  (if f.u then ss f.a f.actl && !sregPerLane f.b
   else isV f.a && aligned f.a 2 && f.b.toNat == 0x21)

/-- `bk.mode` (R138). -/
def bkModeOk (f : RWord) : Bool :=
  f.dt == 0 && f.u && f.pk == 0 && f.litOk && (f.mod.extractLsb' 2 3 == 0) && (f.mod.extractLsb' 0 2).toNat ≤ 2 &&
  ss f.a f.actl && (isS f.d || isNone f.d) && unused f.b f.bctl && unused f.c f.cctl

/-- A rounding cell of MAJ 0x08 with n sources; `uni` where U = 1 is legal (R143). -/
def fltOk (f : RWord) (n : Nat) (uni rnd : Bool) : Bool :=
  f.litOk && f.predOk && (if rnd then roundOk f.mod else mod4 f.mod == 0) && f.dt != 7 &&
  (if f.u then
     uni && f.dt == 0 && isS f.d && ss f.a f.actl && (if 2 ≤ n then ss f.b f.bctl else unused f.b f.bctl) &&
     (if 3 ≤ n then ss f.c f.cctl else unused f.c f.cctl)
   else
     vdst f.d 1 && vs f.a f.actl && (if 2 ≤ n then vs f.b f.bctl else unused f.b f.bctl) &&
     (if 3 ≤ n then vs f.c f.cctl else unused f.c f.cctl))

/-- `fcmp` (R147). -/
def fcmpOk (f : RWord) : Bool :=
  !f.u && f.litOk && f.predOk && mod4 f.mod ≤ 7 &&
  (f.dt == 0 || f.dt == 3 || f.dt == 4 || f.dt == 5 || f.dt == 6) &&
  mdst f.d && vs f.a f.actl && vs f.b f.bctl && unused f.c f.cctl

/-- A special function (R150). -/
def specialOk (f : RWord) : Bool :=
  !f.u && f.litOk && f.predOk && roundOk f.mod && f.dt != 7 &&
  vdst f.d 1 && vs f.a f.actl && unused f.b f.bctl && unused f.c f.cctl

/-- SRC of the conversion byte (R153). -/
def cvtSrc (f : RWord) : Nat := (f.b.extractLsb' 0 4).toNat
/-- TOINT of the conversion byte. -/
def cvtToInt (f : RWord) : Bool := f.b.getLsbD 7
/-- A packed destination of `vcvt` (R154). -/
def cvtPackedDst (f : RWord) : Bool :=
  if f.cvtToInt then f.dt == 4 || f.dt == 5 else f.dt == 1 || f.dt == 2

/-- `vcvt` (R153, R154). -/
def vcvtOk (f : RWord) : Bool :=
  !f.u && f.litOk && f.predOk && roundOk f.mod && f.bctl == 0 && unused f.c f.cctl &&
  (f.b.extractLsb' 4 3 == 0) && f.cvtSrc ≤ 0xC && f.dt != 7 && !(f.cvtToInt && f.dt == 6) &&
  (f.cvtPackedDst == decide (9 ≤ f.cvtSrc)) &&
  vdst f.d (if f.cvtToInt then intRegs f.dt else 1) &&
  vs f.a f.actl (if f.cvtSrc == 2 || f.cvtSrc == 3 then 2 else 1)

/-- `vcvtf.to` and `vcvtf.from` (R156), but for the checks against the slot. -/
def vcvtfOk (f : RWord) : Bool :=
  !f.u && f.litOk && f.predOk && mod4 f.mod == 0 && vdst f.d 1 && vs f.a f.actl &&
  (unused f.b f.bctl || vs f.b f.bctl) && f.cctl == 0 && f.c.toNat ≤ 31

/-- `vdot4` (R159). -/
def vdot4Ok (f : RWord) : Bool :=
  !f.u && f.litOk && f.predOk && (f.dt == 6 || f.dt == 7) && mod4 f.mod ≤ 1 &&
  vdst f.d 1 && vs f.a f.actl && vs f.b f.bctl && vs f.c f.cctl

/-- `vdot2` (R160). -/
def vdot2Ok (f : RWord) : Bool :=
  !f.u && f.litOk && f.predOk && (f.dt == 1 || f.dt == 2) && roundOk f.mod &&
  vdst f.d 1 && vs f.a f.actl && vs f.b f.bctl && vs f.c f.cctl

/-- What all cross-lane cells share (R161). -/
def xOk (f : RWord) : Bool := !f.u && noPred f.pk f.mod && f.litOk && ms f.c f.cctl

/-- `xshfl`: B a vector source; `xrot`, `xbcast`: B a scalar source. -/
def xmoveOk (f : RWord) (vecB : Bool) : Bool :=
  f.xOk && mod4 f.mod == 0 && vdst f.d (intRegs f.dt) && vs f.a f.actl (intRegs f.dt) &&
  (if vecB then vs f.b f.bctl else ss f.b f.bctl)

/-- `xvote`. -/
def xvoteOk (f : RWord) : Bool :=
  f.xOk && f.dt == 0 && mod4 f.mod ≤ 2 && mdst f.d && ms f.a f.actl && unused f.b f.bctl
/-- `xballot`. -/
def xballotOk (f : RWord) : Bool :=
  f.xOk && f.dt == 0 && mod4 f.mod == 0 && vdst f.d 1 && ms f.a f.actl && unused f.b f.bctl

/-- OP of the op byte (R168). -/
def xop (f : RWord) : Nat := (f.b.extractLsb' 0 5).toNat
/-- The integer operations of R168. -/
def xopInt (f : RWord) : Bool := f.xop ≤ 5
/-- The float operations of R168. -/
def xopFlt (f : RWord) : Bool := 0x10 ≤ f.xop && f.xop ≤ 0x14

/-- `xred` and `xscan` (R161, R168). -/
def xredOk (f : RWord) (scan : Bool) : Bool :=
  f.xOk && f.bctl == 0 && (f.b.extractLsb' 5 2 == 0) && (scan || !f.b.getLsbD 7) &&
  ((f.xopInt && f.dt.toNat ≤ 3 && mod4 f.mod == 0 && vdst f.d (intRegs f.dt) && vs f.a f.actl (intRegs f.dt)) ||
   (f.xopFlt && f.dt != 7 && (if f.xop == 0x10 then roundOk f.mod else mod4 f.mod == 0) &&
    vdst f.d 1 && vs f.a f.actl))

/-- `xmatch` (R170): the result is one word a lane. -/
def xmatchOk (f : RWord) : Bool :=
  f.xOk && mod4 f.mod == 0 && vdst f.d 1 && vs f.a f.actl (intRegs f.dt) && unused f.b f.bctl

/-- `xmaxidx` (R171). -/
def xmaxidxOk (f : RWord) : Bool :=
  f.xOk && mod4 f.mod == 0 && (f.dt == 0 || f.dt == 3 || f.dt == 4 || f.dt == 5 || f.dt == 6) &&
  vdst f.d 2 && vs f.a f.actl && vs f.b f.bctl

/-- `vrand` (R172). -/
def vrandOk (f : RWord) : Bool :=
  !f.u && f.litOk && f.predOk && f.dt == 0 && mod4 f.mod ≤ 1 && vdst f.d 4 &&
  unused f.a f.actl && unused f.b f.bctl && unused f.c f.cctl

/-- A fence (R198). -/
def fenceOk (f : RWord) : Bool := f.uniPlain && f.bare && !modBit3 f.mod && scopeOk (mod3 f.mod)

/-- An atomic (R91, R201): DT is fixed for `fadd` and `maxidx`; only `cas` uses C.  An operand that names a constant may be
LIT, which R21 calls one; an address may not (log entry 13). -/
def atomOk (sp : AtomSpace) (o : AtomOrder) (dtOk : BitVec 3 → Bool) (cas : Bool) (f : RWord) : Bool :=
  let n := intRegs f.dt
  f.litOk && f.predOk && dtOk f.dt && !modBit3 f.mod &&
  (if o = .relaxed then mod3 f.mod == 0 else scopeOk (mod3 f.mod)) &&
  (match sp with
   | .scalar =>
     f.u && (isS f.d || isNone f.d) && sReg f.a f.actl && !isV f.b && regOrConst f.b f.bctl &&
     (if cas then !isV f.c && regOrConst f.c f.cctl else unused f.c f.cctl)
   | _ =>
     !f.u && (vdst f.d n || isNone f.d) &&
     (sReg f.a f.actl || (isV f.a && ctlOk f.a f.actl && (sp = .scratch || aligned f.a 2))) &&
     aligned f.b n && regOrConst f.b f.bctl &&
     (if cas then aligned f.c n && regOrConst f.c f.cctl else unused f.c f.cctl))

/-- DT values of the general atomics. -/
def atomDt (dt : BitVec 3) : Bool := dt.toNat ≤ 3

/-- `tl.inc`, `tl.wait` (R210). -/
def tlOk (f : RWord) : Bool :=
  f.uniPlain && f.mod == 0 && f.bctl == 0 && f.b.toNat ≤ 15 && ss f.a f.actl && (isS f.d || isNone f.d) &&
  unused f.c f.cctl
/-- `tl.read` (R210). -/
def tlReadOk (f : RWord) : Bool :=
  f.uniPlain && f.mod == 0 && f.bctl == 0 && f.b.toNat ≤ 15 && unused f.a f.actl && isS f.d && unused f.c f.cctl

/-- `spawn` (R213): the header address is an S register, and not LIT, which no rule grants there (DEDUCED, log entry 13). -/
def spawnOk (f : RWord) : Bool :=
  !f.u && f.dt == 0 && f.litOk && f.predOk && mod4 f.mod ≤ 1 &&
  vdst f.a 8 && ctlOk f.a f.actl && sReg f.b f.bctl && mdst f.c && f.cctl == 0 && (isV f.d || isNone f.d)

/-- `rg.open` (R215). -/
def rgOpenOk (f : RWord) : Bool :=
  f.uniPlain && mod4 f.mod ≤ 1 && isS f.d && ss f.a f.actl && ss f.b f.bctl && ss f.c f.cctl
/-- `rg.close` (R215). -/
def rgCloseOk (f : RWord) : Bool :=
  f.uniPlain && f.mod == 0 && isNone f.d && ss f.a f.actl && unused f.b f.bctl && unused f.c f.cctl
/-- `ck.begin`, `ck.seal` (R218). -/
def ckOk (f : RWord) (sealing : Bool) : Bool :=
  f.uniPlain && f.mod == 0 && (isNone f.d || (sealing && isS f.d)) && ss f.a f.actl && ss f.b f.bctl &&
  unused f.c f.cctl

/-- An engine cell (R220): which handles it takes, whether DT names a slot, whether MOD[3:0] names a counter. -/
def engOk (f : RWord) (hb hc slot tick : Bool) : Bool :=
  f.u && noPred f.pk f.mod && f.litOk && (slot || f.dt == 0) && (tick || mod4 f.mod == 0) &&
  (isS f.d || isNone f.d) && ss f.a f.actl &&
  (if hb then ss f.b f.bctl && !isLit f.b else unused f.b f.bctl) &&
  (if hc then ss f.c f.cctl && !isLit f.c else unused f.c f.cctl)

/-- A control cell of format R with scalar source A (R111). -/
def jumpOk (f : RWord) : Bool :=
  f.uniPlain && mod4 f.mod == 0 && isNone f.d && ss f.a f.actl && unused f.b f.bctl && unused f.c f.cctl
/-- A control cell without operands. -/
def ctlBareOk (f : RWord) : Bool := f.uniPlain && mod4 f.mod == 0 && f.bare
/-- `exit`: any PK (R111). -/
def exitOk (f : RWord) : Bool := f.dt == 0 && f.u && npOk f.pk f.mod && f.litOk && mod4 f.mod == 0 && f.bare
/-- `trap`: the code in MOD[3:0]. -/
def trapOk (f : RWord) : Bool := f.uniPlain && f.bare
/-- `rfe`: a mask source, or none. -/
def rfeOk (f : RWord) : Bool :=
  f.uniPlain && mod4 f.mod == 0 && isNone f.d && (ms f.a f.actl || unused f.a f.actl) && unused f.b f.bctl &&
  unused f.c f.cctl
/-- `tsleep`: REL in MOD[0]. -/
def tsleepOk (f : RWord) : Bool :=
  f.uniPlain && mod4 f.mod ≤ 1 && (isS f.d || isNone f.d) && ss f.a f.actl && unused f.b f.bctl &&
  unused f.c f.cctl

end RWord

namespace IWord

/-- Format I (R81, R135): the classes of the paired cell; `mov` uses no A. -/
def ok (f : IWord) (useA : Bool) : Bool :=
  (if f.u then
     f.pk == 0 && isS f.d && !intPacked f.dt && (if useA then ss f.a f.actl && !isLit f.a else unused f.a f.actl)
   else
     vdst f.d (intRegs f.dt) &&
     (if useA then vs f.a f.actl (intRegs f.dt) && !isLit f.a else unused f.a f.actl))

end IWord

namespace BWord

/-- What all format-B cells share (R83, R111). -/
def base (f : BWord) : Bool :=
  f.dt == 0 && f.u && noPred f.pk f.mod && unused f.b f.bctl && unused f.c f.cctl && f.rsv == 0
/-- `bra`. -/
def braOk (f : BWord) : Bool := f.base && isNone f.d && unused f.a f.actl && mod4 f.mod == 0 && f.tok == 0
/-- `brc`: A is a scalar source for codes 0 to 3, a mask source for 4 to 6 (R112). -/
def brcOk (f : BWord) : Bool :=
  f.base && isNone f.d && f.tok == 0 &&
  ((mod4 f.mod ≤ 3 && ss f.a f.actl && !isLit f.a) || (4 ≤ mod4 f.mod && mod4 f.mod ≤ 6 && ms f.a f.actl))
/-- `brv`. -/
def brvOk (f : BWord) : Bool := f.base && isNone f.d && ms f.a f.actl && mod4 f.mod ≤ 1
/-- `join`. -/
def joinOk (f : BWord) : Bool := f.base && isNone f.d && unused f.a f.actl && mod4 f.mod == 0 && f.off32 == 0
/-- `call`. -/
def callOk (f : BWord) : Bool := f.base && isS f.d && unused f.a f.actl && mod4 f.mod == 0 && f.tok == 0

end BWord

namespace MWord

/-- R85 for format M; `dSrc` where D is a source that may be LIT. -/
def litOk (f : MWord) (dSrc : Bool := false) : Bool :=
  f.lit.isSome == (isLit f.a || isLit f.b || (dSrc && isLit f.d))
/-- Predication. -/
def predOk (f : MWord) : Bool := if f.u then noPred f.pk f.mod else npOk f.pk f.mod
/-- The byte index B: a V or S register, LIT, or none (R82, R176). -/
def idxV (f : MWord) : Bool := unused f.b f.bctl || ((isV f.b || isS f.b || isLit f.b) && ctlOk f.b f.bctl)
/-- The byte index B of a uniform form. -/
def idxS (f : MWord) : Bool := unused f.b f.bctl || sAddr f.b f.bctl
/-- MOD[2:0]: a scope for ordered forms, 0 for plain ones (R184). -/
def orderOk (f : MWord) (ordered : Bool) : Bool := if ordered then scopeOk (mod3 f.mod) else mod3 f.mod == 0

/-- Global loads and stores (R176). -/
def globalOk (f : MWord) (ordered : Bool) : Bool :=
  !f.u && f.litOk && f.predOk && f.dt != 7 && f.orderOk ordered && vdst f.d (widRegs f.dt) && f.idxV &&
  (sAddr f.a f.actl || (isV f.a && aligned f.a 2 && ctlOk f.a f.actl))
/-- Scratchpad loads and stores (R176). -/
def scratchOk (f : MWord) (ordered : Bool) : Bool :=
  !f.u && f.litOk && f.predOk && f.dt != 7 && f.orderOk ordered && vdst f.d (widRegs f.dt) && f.idxV &&
  (sAddr f.a f.actl || (isV f.a && ctlOk f.a f.actl))
/-- Uniform loads and stores (R176).  D of a store is a source, where R176 accepts LIT and the D column of R21, written for
destinations, does not reach (DEDUCED, log entry 13). -/
def uniformOk (f : MWord) (ordered store : Bool) : Bool :=
  f.u && f.litOk store && f.predOk && f.dt.toNat ≤ 5 && f.orderOk ordered && (isS f.d || (store && isLit f.d)) && f.idxS &&
  sAddr f.a f.actl
/-- `fq.push`, `fq.pop` (R189); D of a uniform push as that of a uniform store. -/
def fifoOk (f : MWord) (push : Bool) : Bool :=
  f.litOk (push && f.u) && f.predOk && mod3 f.mod == 0 && f.off == 0 && unused f.b f.bctl && ss f.a f.actl &&
  (f.dt == 4 || f.dt == 5 || (f.dt == 6 && !f.u)) && (if f.u then isS f.d || (push && isLit f.d) else vdst f.d (widRegs f.dt))
/-- `vspill`, `vfill` (R192). -/
def spillOk (f : MWord) : Bool :=
  !f.u && f.litOk && f.predOk && f.dt == 0 && mod3 f.mod == 0 && isV f.d && sAddr f.a f.actl && f.bctl == 0 &&
  1 ≤ f.b.toNat && f.b.toNat ≤ 128 && f.d.toNat + f.b.toNat ≤ 128
/-- `pref` (R195). -/
def prefOk (f : MWord) : Bool :=
  f.litOk && f.predOk && f.dt == 0 && mod3 f.mod == 0 && isNone f.d &&
  (if f.u then sAddr f.a f.actl && f.idxS
   else f.idxV && (sAddr f.a f.actl || (isV f.a && aligned f.a 2 && ctlOk f.a f.actl)))
/-- Cache maintenance (R196): D is the scalar byte length; MOD[2:0] the point. -/
def maintOk (f : MWord) (inval : Bool) : Bool :=
  f.u && f.litOk true && f.predOk && f.dt == 0 && (mod3 f.mod == 3 || (mod3 f.mod == 4 && !inval)) &&
  sReg f.a f.actl && (unused f.b f.bctl || sReg f.b f.bctl) && ssrc f.d

end MWord

/-- Check 2 of R36: whether every field of the instruction is legal.  The steps of other agents have no fields. -/
def Instr.wf : Instr → Bool
  | .bra f => f.braOk | .brc f => f.brcOk | .brv f => f.brvOk | .join f => f.joinOk | .call f => f.callOk
  | .ret f => f.jumpOk | .jmpi f => f.jumpOk | .exit f => f.exitOk | .nop f => f.ctlBareOk
  | .yield f => f.ctlBareOk | .ckpt f => f.ctlBareOk | .trap f => f.trapOk | .rfe f => f.rfeOk
  | .recessok f => f.ctlBareOk | .tsleep f => f.tsleepOk
  | .add f => f.aluOk true false | .sub f => f.aluOk true false | .mul f => f.aluOk true false
  | .mulh f => f.aluOk true false | .mad f => f.aluOk true true | .div f => f.aluOk true false
  | .rem f => f.aluOk true false | .min f => f.aluOk true false | .max f => f.aluOk true false
  | .abs f => f.aluOk false false && !f.dt.getLsbD 0 | .neg f => f.aluOk false false
  | .adds f => f.aluOk true false | .subs f => f.aluOk true false | .sad f => f.aluOk true true
  | .and f => f.aluOk true false | .or f => f.aluOk true false | .xor f => f.aluOk true false
  | .not f => f.aluOk false false | .shl f => f.aluOk true false | .shr f => f.aluOk true false
  | .sra f => f.aluOk true false | .clz f => f.aluOk false false | .popc f => f.aluOk false false
  | .brev f => f.aluOk false false | .bfe f => f.aluOk true false && !intPacked f.dt
  | .bfi f => f.aluOk true true && !intPacked f.dt
  | .cmp f => f.cmpOk | .sel f => f.selOk | .mov f => f.movOk
  | .addImm f => f.ok true | .mulImm f => f.ok true | .andImm f => f.ok true | .orImm f => f.ok true
  | .xorImm f => f.ok true | .shlImm f => f.ok true | .shrImm f => f.ok true | .sraImm f => f.ok true
  | .movImm f => f.ok false
  | .kand f => f.maskOk true | .kor f => f.maskOk true | .kxor f => f.maskOk true | .knot f => f.maskOk false
  | .kpop f => f.maskCountOk | .kffs f => f.maskCountOk | .kmov f => f.kmovOk
  | .sget f => f.sgetOk | .sset f => f.ssetOk | .bkMode f => f.bkModeOk
  | .fadd f => f.fltOk 2 true true | .fsub f => f.fltOk 2 false true | .fmul f => f.fltOk 2 true true
  | .fma f => f.fltOk 3 true true | .fdiv f => f.fltOk 2 false true | .fsqrt f => f.fltOk 1 false true
  | .fmin f => f.fltOk 2 false false | .fmax f => f.fltOk 2 false false | .fminnum f => f.fltOk 2 false false
  | .fmaxnum f => f.fltOk 2 false false | .fabs f => f.fltOk 1 false false | .fneg f => f.fltOk 1 false false
  | .fcmp f => f.fcmpOk | .fclass f => f.fltOk 1 false false | .fround f => f.fltOk 1 false true
  | .vfrcp f => f.specialOk | .vfrsq f => f.specialOk | .vfexp2 f => f.specialOk | .vflog2 f => f.specialOk
  | .vfsin f => f.specialOk | .vfcos f => f.specialOk
  | .vcvt f => f.vcvtOk | .vcvtfTo f => f.vcvtfOk | .vcvtfFrom f => f.vcvtfOk | .vdot4 f => f.vdot4Ok
  | .vdot2 f => f.vdot2Ok
  | .xshfl f => f.xmoveOk true | .xrot f => f.xmoveOk false | .xbcast f => f.xmoveOk false
  | .xvote f => f.xvoteOk | .xballot f => f.xballotOk | .xred f => f.xredOk false | .xscan f => f.xredOk true
  | .xmatch f => f.xmatchOk | .xmaxidx f => f.xmaxidxOk | .vrand f => f.vrandOk
  | .ldG f => f.globalOk false | .stG f => f.globalOk false | .ldGAcq f => f.globalOk true
  | .stGRel f => f.globalOk true | .ldS f => f.scratchOk false | .stS f => f.scratchOk false
  | .ldSAcq f => f.scratchOk true | .stSRel f => f.scratchOk true | .ldU f => f.uniformOk false false
  | .stU f => f.uniformOk false true | .ldUAcq f => f.uniformOk true false | .stURel f => f.uniformOk true true
  | .fqPush f => f.fifoOk true | .fqPop f => f.fifoOk false | .vspill f => f.spillOk | .vfill f => f.spillOk
  | .pref f => f.prefOk | .cclean f => f.maintOk false | .cinval f => f.maintOk true
  | .cflush f => f.maintOk false
  | .fenceAcq f => f.fenceOk | .fenceRel f => f.fenceOk | .fenceAr f => f.fenceOk
  | .atomAdd sp o f => f.atomOk sp o RWord.atomDt false | .atomMin sp o f => f.atomOk sp o RWord.atomDt false
  | .atomMax sp o f => f.atomOk sp o RWord.atomDt false | .atomAnd sp o f => f.atomOk sp o RWord.atomDt false
  | .atomOr sp o f => f.atomOk sp o RWord.atomDt false | .atomXor sp o f => f.atomOk sp o RWord.atomDt false
  | .atomXchg sp o f => f.atomOk sp o RWord.atomDt false | .atomCas sp o f => f.atomOk sp o RWord.atomDt true
  | .atomFadd sp o f => f.atomOk sp o (· == 0) false | .atomMaxidx sp o f => f.atomOk sp o (· == 3) false
  | .bar f => f.uniPlain && f.bare && f.mod == 0 | .gbar f => f.uniPlain && f.bare && f.mod == 0
  | .tlInc f => f.tlOk | .tlWait f => f.tlOk | .tlRead f => f.tlReadOk | .spawn f => f.spawnOk
  | .rgOpen f => f.rgOpenOk | .rgClose f => f.rgCloseOk | .ckBegin f => f.ckOk false | .ckSeal f => f.ckOk true
  | .ceCopy f => f.engOk true true false true | .ceFill f => f.engOk false true false true
  | .ceGatherrows f => f.engOk true true false true | .lrFlush f => f.engOk false false false true
  | .mxPost f => f.engOk false false true true | .mxCancel f => f.engOk false false false false
  | .mxStatus f => f.engOk false false false false
  | .tvPair f => f.engOk false false false true | .tvBox f => f.engOk false false false true
  | .tvResume f => f.engOk false false false true
  | .rsTri f => f.engOk false true false true | .rsSplat f => f.engOk false true false true
  | .visFlow f => f.engOk true true false true | .visDisp f => f.engOk true true false true
  | .visRefine f => f.engOk true true false true
  | .tsleepWake _ _ => true | .deferredTrap _ _ => true | .recessTrap _ _ => true | .bankModeRetire _ _ => true
  | .resultArrival _ _ => true | .fifoService _ _ => true | .tlWaitSatisfied _ _ => true
  | .rgOpenGranted _ _ => true | .engineQueueRoom _ _ => true | .commandStart _ => true | .commandRetire _ => true
  | .mm _ => true | .mmz _ => true | .mmStep _ => true | .cvacc _ => true | .ewiseConvert _ => true
  | .ewiseBias _ => true | .ewiseRelu _ => true | .ewiseScale _ => true | .rsum _ => true | .rckpt _ => true
  | .rwait _ => true | .faultRetry _ _ => true | .faultDecline _ _ => true | .queueEnable _ => true
  | .queueDisable _ => true | .jobLoad _ _ => true | .tailRecall _ => true | .periodicRelease _ => true
  | .workgroupPlacement _ _ => true | .recessBoundExpiry _ => true | .deadlineMiss _ => true
  | .exqHeadRecall _ => true | .watchdogExpiry _ => true | .drainKill _ => true | .drainAbort _ => true
  | .drainEnd _ => true | .partitionTableWrite _ _ _ => true | .waysWrite _ _ => true | .poolMapWrite _ _ => true
  | .registerWrite _ _ => true | .regulatorReadRequest _ _ _ => true | .regulatorWindowStart _ _ => true
  | .streamEnable _ => true | .frameStart _ _ => true | .frameEnd _ => true | .ptpSync _ => true
  | .syncTimeout => true | .journalWrite _ => true | .invalidatePartition _ => true | .invalidateRange _ => true
  | .invalidateWalkCaches _ => true | .invalidationComplete _ => true | .hostRead _ _ _ _ => true
  | .hostWrite _ _ _ _ => true | .pcieLinkDown => true | .pcieLinkUp => true | .ethernetTransmit _ _ => true
  | .tokenRequest _ _ _ => true | .forwardedRequest _ => true | .tokenResponse _ => true
  | .transientTimeout _ _ => true | .persistentRequest _ _ => true | .persistentDeactivate _ => true
  | .leave _ => true | .joinMessage _ => true | .tokensLost _ _ => true | .restore _ _ => true
  | .modulePowerFail => true | .patrolScrub _ _ => true | .flitCrcRetry => true | .laneRetrain _ _ => true
  | .meshLinkFailure _ _ => true | .boot => true | .proctorRestart _ => true | .proctorRestartComplete => true
  | .heartbeat _ => true | .heartbeatTimeout _ => true | .domainRestart _ => true | .domainRestartDone _ => true
  | .quote => true | .powerSample _ => true | .clusterPowerDown _ => true | .illegalOpcode _ => true
  | .instructionFetchFault _ _ _ => true | .applicationCoreAccess _ _ _ => true | .ckWriteAccepted _ => true

end Sys2Proof
end

