-- ==== Sys2Proof/Decode.lean ====
section
/-!
DEFINITION. Decoding the 64-bit instruction word and its extension word (R78, R80, R83, R85) through the opcode map
(R90, R91), and the encoder written from the same tables.
-/

namespace Sys2Proof

/-- Why a word is not an instruction: check 1 or check 2 of R36. -/
inductive DecodeError where
  /-- R90: the MAJ/MIN cell is unassigned. -/
  | illegalOpcode
  /-- R36 check 2: a field holds a value the cell does not allow. -/
  | reservedField
  deriving DecidableEq, Repr

/-- A cell of the opcode map: its format, and the instruction it makes of the fields (R80, R90). -/
inductive Cell where
  | R (mk : RWord → Instr) | I (mk : IWord → Instr) | M (mk : MWord → Instr) | B (mk : BWord → Instr)

/-- MAJ 0x01. -/
def cellsControl : List (Nat × Cell) :=
  [(0x00, .B .bra), (0x01, .B .brc), (0x02, .B .brv), (0x03, .B .join), (0x04, .B .call), (0x05, .R .ret),
   (0x06, .R .jmpi), (0x07, .R .exit), (0x08, .R .nop), (0x09, .R .yield), (0x0A, .R .ckpt), (0x0B, .R .trap),
   (0x0C, .R .rfe), (0x0D, .R .recessok), (0x0E, .R .tsleep)]
/-- MAJ 0x02. -/
def cellsInteger : List (Nat × Cell) :=
  [(0x00, .R .add), (0x01, .R .sub), (0x02, .R .mul), (0x03, .R .mulh), (0x04, .R .mad), (0x05, .R .div),
   (0x06, .R .rem), (0x07, .R .min), (0x08, .R .max), (0x09, .R .abs), (0x0A, .R .neg), (0x0B, .R .adds),
   (0x0C, .R .subs), (0x0D, .R .sad)]
/-- MAJ 0x03. -/
def cellsLogic : List (Nat × Cell) :=
  [(0x00, .R .and), (0x01, .R .or), (0x02, .R .xor), (0x03, .R .not), (0x04, .R .shl), (0x05, .R .shr),
   (0x06, .R .sra), (0x07, .R .clz), (0x08, .R .popc), (0x09, .R .brev), (0x0A, .R .bfe), (0x0B, .R .bfi)]
/-- MAJ 0x04. -/
def cellsCompare : List (Nat × Cell) := [(0x00, .R .cmp), (0x01, .R .sel), (0x02, .R .mov)]
/-- MAJ 0x05. -/
def cellsMask : List (Nat × Cell) :=
  [(0x00, .R .kand), (0x01, .R .kor), (0x02, .R .kxor), (0x03, .R .knot), (0x04, .R .kpop), (0x05, .R .kffs),
   (0x06, .R .kmov)]
/-- MAJ 0x06. -/
def cellsSystem : List (Nat × Cell) := [(0x00, .R .sget), (0x01, .R .sset), (0x02, .R .bkMode)]
/-- MAJ 0x07. -/
def cellsImmediate : List (Nat × Cell) :=
  [(0x00, .I .addImm), (0x01, .I .mulImm), (0x02, .I .andImm), (0x03, .I .orImm), (0x04, .I .xorImm),
   (0x05, .I .shlImm), (0x06, .I .shrImm), (0x07, .I .sraImm), (0x08, .I .movImm)]
/-- MAJ 0x08. -/
def cellsFloat : List (Nat × Cell) :=
  [(0x00, .R .fadd), (0x01, .R .fsub), (0x02, .R .fmul), (0x03, .R .fma), (0x04, .R .fdiv), (0x05, .R .fsqrt),
   (0x06, .R .fmin), (0x07, .R .fmax), (0x08, .R .fminnum), (0x09, .R .fmaxnum), (0x0A, .R .fabs),
   (0x0B, .R .fneg), (0x0C, .R .fcmp), (0x0D, .R .fclass), (0x0E, .R .fround)]
/-- MAJ 0x09. -/
def cellsSpecial : List (Nat × Cell) :=
  [(0x00, .R .vfrcp), (0x01, .R .vfrsq), (0x02, .R .vfexp2), (0x03, .R .vflog2), (0x04, .R .vfsin),
   (0x05, .R .vfcos)]
/-- MAJ 0x0A. -/
def cellsConvert : List (Nat × Cell) :=
  [(0x00, .R .vcvt), (0x01, .R .vcvtfTo), (0x02, .R .vcvtfFrom), (0x03, .R .vdot4), (0x04, .R .vdot2)]
/-- MAJ 0x0B. -/
def cellsCrossLane : List (Nat × Cell) :=
  [(0x00, .R .xshfl), (0x01, .R .xrot), (0x02, .R .xbcast), (0x03, .R .xvote), (0x04, .R .xballot),
   (0x05, .R .xred), (0x06, .R .xscan), (0x07, .R .xmatch), (0x08, .R .xmaxidx)]
/-- MAJ 0x0C. -/
def cellsRandom : List (Nat × Cell) := [(0x00, .R .vrand)]
/-- MAJ 0x10. -/
def cellsGlobal : List (Nat × Cell) := [(0x00, .M .ldG), (0x01, .M .stG), (0x02, .M .ldGAcq), (0x03, .M .stGRel)]
/-- MAJ 0x11. -/
def cellsScratch : List (Nat × Cell) := [(0x00, .M .ldS), (0x01, .M .stS), (0x02, .M .ldSAcq), (0x03, .M .stSRel)]
/-- MAJ 0x12. -/
def cellsUniform : List (Nat × Cell) := [(0x00, .M .ldU), (0x01, .M .stU), (0x02, .M .ldUAcq), (0x03, .M .stURel)]
/-- MAJ 0x13. -/
def cellsFifo : List (Nat × Cell) :=
  [(0x00, .M .fqPush), (0x01, .M .fqPop), (0x02, .M .vspill), (0x03, .M .vfill), (0x04, .M .pref)]
/-- MAJ 0x14. -/
def cellsFence : List (Nat × Cell) :=
  [(0x00, .M .cclean), (0x01, .M .cinval), (0x02, .M .cflush), (0x03, .R .fenceAcq), (0x04, .R .fenceRel),
   (0x05, .R .fenceAr)]
/-- The operations of MAJ 0x15, 0x16 and 0x17 in one space and order: MIN[3:0] (R91). -/
def cellsAtomic (sp : AtomSpace) (o : AtomOrder) : List (Nat × Cell) :=
  [(0x0, .R (.atomAdd sp o)), (0x1, .R (.atomMin sp o)), (0x2, .R (.atomMax sp o)), (0x3, .R (.atomAnd sp o)),
   (0x4, .R (.atomOr sp o)), (0x5, .R (.atomXor sp o)), (0x6, .R (.atomXchg sp o)), (0x7, .R (.atomCas sp o)),
   (0x8, .R (.atomFadd sp o)), (0x9, .R (.atomMaxidx sp o))]
/-- MAJ 0x18. -/
def cellsSync : List (Nat × Cell) :=
  [(0x00, .R .bar), (0x01, .R .gbar), (0x02, .R .tlInc), (0x03, .R .tlWait), (0x04, .R .tlRead), (0x05, .R .spawn),
   (0x06, .R .rgOpen), (0x07, .R .rgClose), (0x08, .R .ckBegin), (0x09, .R .ckSeal)]
/-- MAJ 0x20. -/
def cellsCopy : List (Nat × Cell) :=
  [(0x00, .R .ceCopy), (0x01, .R .ceFill), (0x02, .R .ceGatherrows), (0x03, .R .lrFlush)]
/-- MAJ 0x21. -/
def cellsMatrix : List (Nat × Cell) := [(0x00, .R .mxPost), (0x01, .R .mxCancel), (0x02, .R .mxStatus)]
/-- MAJ 0x22. -/
def cellsTraversal : List (Nat × Cell) := [(0x00, .R .tvPair), (0x01, .R .tvBox), (0x02, .R .tvResume)]
/-- MAJ 0x23. -/
def cellsRaster : List (Nat × Cell) := [(0x00, .R .rsTri), (0x01, .R .rsSplat)]
/-- MAJ 0x24. -/
def cellsVision : List (Nat × Cell) := [(0x00, .R .visFlow), (0x01, .R .visDisp), (0x02, .R .visRefine)]

/-- The order that MIN[5:4] names (R91). -/
def AtomOrder.ofCode (n : Nat) : AtomOrder :=
  if n = 0 then .relaxed else if n = 1 then .acq else if n = 2 then .rel else .ar
/-- MIN[5:4] of an order. -/
def AtomOrder.code : AtomOrder → Nat
  | .relaxed => 0 | .acq => 1 | .rel => 2 | .ar => 3
/-- MAJ of an atomic space (R91). -/
def AtomSpace.maj : AtomSpace → Nat
  | .global => 0x15 | .scratch => 0x16 | .scalar => 0x17

/-- The cells of one MAJ (R90); no cell under a MAJ that is not listed. -/
def cellsOf (maj min : Nat) : List (Nat × Cell) :=
  if maj = 0x01 then cellsControl else if maj = 0x02 then cellsInteger else if maj = 0x03 then cellsLogic
  else if maj = 0x04 then cellsCompare else if maj = 0x05 then cellsMask else if maj = 0x06 then cellsSystem
  else if maj = 0x07 then cellsImmediate else if maj = 0x08 then cellsFloat else if maj = 0x09 then cellsSpecial
  else if maj = 0x0A then cellsConvert else if maj = 0x0B then cellsCrossLane else if maj = 0x0C then cellsRandom
  else if maj = 0x10 then cellsGlobal else if maj = 0x11 then cellsScratch else if maj = 0x12 then cellsUniform
  else if maj = 0x13 then cellsFifo else if maj = 0x14 then cellsFence
  else if maj = 0x15 then cellsAtomic .global (AtomOrder.ofCode (min / 16))
  else if maj = 0x16 then cellsAtomic .scratch (AtomOrder.ofCode (min / 16))
  else if maj = 0x17 then cellsAtomic .scalar (AtomOrder.ofCode (min / 16))
  else if maj = 0x18 then cellsSync else if maj = 0x20 then cellsCopy else if maj = 0x21 then cellsMatrix
  else if maj = 0x22 then cellsTraversal else if maj = 0x23 then cellsRaster else if maj = 0x24 then cellsVision
  else []

/-- The assigned cell of MAJ and MIN, if any; for the atomics MIN[3:0] selects the operation (R91). -/
def cell (maj min : Nat) : Option Cell :=
  (cellsOf maj min).lookup (if maj = 0x15 ∨ maj = 0x16 ∨ maj = 0x17 then min % 16 else min)

/-! ## Fields of the words -/

/-- MAJ, bits [63:58]. -/
def wordMaj (w : Word64) : Nat := (w.extractLsb' 58 6).toNat
/-- MIN, bits [57:52]. -/
def wordMin (w : Word64) : Nat := (w.extractLsb' 52 6).toNat
/-- L, bit [47]: an extension word follows (R78). -/
def wordL (w : Word64) : Bool := w.getLsbD 47

/-- The fields of a format R or E word. -/
def RWord.ofWord (w : Word64) (lit : Option Word64) : RWord where
  dt := w.extractLsb' 49 3
  u := w.getLsbD 48
  lit := lit
  pk := w.extractLsb' 43 4
  d := w.extractLsb' 35 8
  a := w.extractLsb' 27 8
  actl := w.extractLsb' 25 2
  b := w.extractLsb' 17 8
  bctl := w.extractLsb' 15 2
  c := w.extractLsb' 7 8
  cctl := w.extractLsb' 5 2
  mod := w.extractLsb' 0 5

/-- The fields of a format I word. -/
def IWord.ofWord (w : Word64) : IWord where
  dt := w.extractLsb' 49 3
  u := w.getLsbD 48
  pk := w.extractLsb' 43 4
  d := w.extractLsb' 35 8
  a := w.extractLsb' 27 8
  actl := w.extractLsb' 25 2
  imm := w.extractLsb' 0 25

/-- The fields of a format M word. -/
def MWord.ofWord (w : Word64) (lit : Option Word64) : MWord where
  dt := w.extractLsb' 49 3
  u := w.getLsbD 48
  lit := lit
  pk := w.extractLsb' 43 4
  d := w.extractLsb' 35 8
  a := w.extractLsb' 27 8
  actl := w.extractLsb' 25 2
  b := w.extractLsb' 17 8
  bctl := w.extractLsb' 15 2
  off := w.extractLsb' 5 10
  mod := w.extractLsb' 0 5

/-- The fields of a format B word and its extension word (R83). -/
def BWord.ofWord (w ext : Word64) : BWord where
  dt := w.extractLsb' 49 3
  u := w.getLsbD 48
  pk := w.extractLsb' 43 4
  d := w.extractLsb' 35 8
  a := w.extractLsb' 27 8
  actl := w.extractLsb' 25 2
  b := w.extractLsb' 17 8
  bctl := w.extractLsb' 15 2
  c := w.extractLsb' 7 8
  cctl := w.extractLsb' 5 2
  mod := w.extractLsb' 0 5
  rsv := ext.extractLsb' 48 16
  tok := ext.extractLsb' 32 16
  off32 := ext.extractLsb' 0 32

/-- A cell applied to the words; `ext` is present exactly when L = 1.  Format I needs L = 0, format B needs L = 1. -/
def Cell.apply (c : Cell) (w : Word64) (ext : Option Word64) : Option Instr :=
  match c, ext with
  | .R mk, e => some (mk (RWord.ofWord w e))
  | .M mk, e => some (mk (MWord.ofWord w e))
  | .I mk, none => some (mk (IWord.ofWord w))
  | .I _, some _ => none
  | .B mk, some e => some (mk (BWord.ofWord w e))
  | .B _, none => none

/-- Checks 1 and 2 of R36 on a base word and, when its L bit is 1, its extension word. -/
def decode (w : Word64) (ext : Option Word64) : Except DecodeError Instr :=
  match cell (wordMaj w) (wordMin w) with
  | none => .error .illegalOpcode
  | some c =>
    match c.apply w ext with
    | none => .error .reservedField
    | some i => if i.wf then .ok i else .error .reservedField

/-! ## The encoder -/

/-- The format R or E word of a cell. -/
def RWord.toWord (maj min : Nat) (f : RWord) : Word64 :=
  BitVec.ofNat 6 maj ++ BitVec.ofNat 6 min ++ f.dt ++ BitVec.ofBool f.u ++ BitVec.ofBool f.lit.isSome ++ f.pk ++
    f.d ++ f.a ++ f.actl ++ f.b ++ f.bctl ++ f.c ++ f.cctl ++ f.mod

/-- The format I word of a cell: L = 0. -/
def IWord.toWord (maj min : Nat) (f : IWord) : Word64 :=
  BitVec.ofNat 6 maj ++ BitVec.ofNat 6 min ++ f.dt ++ BitVec.ofBool f.u ++ 0#1 ++ f.pk ++ f.d ++ f.a ++ f.actl ++
    f.imm

/-- The format M word of a cell. -/
def MWord.toWord (maj min : Nat) (f : MWord) : Word64 :=
  BitVec.ofNat 6 maj ++ BitVec.ofNat 6 min ++ f.dt ++ BitVec.ofBool f.u ++ BitVec.ofBool f.lit.isSome ++ f.pk ++
    f.d ++ f.a ++ f.actl ++ f.b ++ f.bctl ++ f.off ++ f.mod

/-- The format B base word of a cell: L = 1. -/
def BWord.toWord (maj min : Nat) (f : BWord) : Word64 :=
  BitVec.ofNat 6 maj ++ BitVec.ofNat 6 min ++ f.dt ++ BitVec.ofBool f.u ++ 1#1 ++ f.pk ++ f.d ++ f.a ++ f.actl ++
    f.b ++ f.bctl ++ f.c ++ f.cctl ++ f.mod

/-- The format B extension word. -/
def BWord.extWord (f : BWord) : Word64 := f.rsv ++ f.tok ++ f.off32

/-- The encoding of a format R or E instruction. -/
def encR (maj min : Nat) (f : RWord) : Option (Word64 × Option Word64) := some (f.toWord maj min, f.lit)
/-- The encoding of a format I instruction. -/
def encI (min : Nat) (f : IWord) : Option (Word64 × Option Word64) := some (f.toWord 0x07 min, none)
/-- The encoding of a format M instruction. -/
def encM (maj min : Nat) (f : MWord) : Option (Word64 × Option Word64) := some (f.toWord maj min, f.lit)
/-- The encoding of a format B instruction. -/
def encB (min : Nat) (f : BWord) : Option (Word64 × Option Word64) := some (f.toWord 0x01 min, some f.extWord)
/-- The encoding of an atomic (R91). -/
def encA (sp : AtomSpace) (o : AtomOrder) (op : Nat) (f : RWord) : Option (Word64 × Option Word64) :=
  encR sp.maj (op + 16 * o.code) f

/-- The words of a SIMT instruction: its base word, and its extension word when it has one.  The steps of other
agents have no words. -/
def encode : Instr → Option (Word64 × Option Word64)
  | .bra f => encB 0x00 f | .brc f => encB 0x01 f | .brv f => encB 0x02 f | .join f => encB 0x03 f
  | .call f => encB 0x04 f | .ret f => encR 0x01 0x05 f | .jmpi f => encR 0x01 0x06 f | .exit f => encR 0x01 0x07 f
  | .nop f => encR 0x01 0x08 f | .yield f => encR 0x01 0x09 f | .ckpt f => encR 0x01 0x0A f
  | .trap f => encR 0x01 0x0B f | .rfe f => encR 0x01 0x0C f | .recessok f => encR 0x01 0x0D f
  | .tsleep f => encR 0x01 0x0E f
  | .add f => encR 0x02 0x00 f | .sub f => encR 0x02 0x01 f | .mul f => encR 0x02 0x02 f
  | .mulh f => encR 0x02 0x03 f | .mad f => encR 0x02 0x04 f | .div f => encR 0x02 0x05 f
  | .rem f => encR 0x02 0x06 f | .min f => encR 0x02 0x07 f | .max f => encR 0x02 0x08 f
  | .abs f => encR 0x02 0x09 f | .neg f => encR 0x02 0x0A f | .adds f => encR 0x02 0x0B f
  | .subs f => encR 0x02 0x0C f | .sad f => encR 0x02 0x0D f
  | .and f => encR 0x03 0x00 f | .or f => encR 0x03 0x01 f | .xor f => encR 0x03 0x02 f | .not f => encR 0x03 0x03 f
  | .shl f => encR 0x03 0x04 f | .shr f => encR 0x03 0x05 f | .sra f => encR 0x03 0x06 f | .clz f => encR 0x03 0x07 f
  | .popc f => encR 0x03 0x08 f | .brev f => encR 0x03 0x09 f | .bfe f => encR 0x03 0x0A f
  | .bfi f => encR 0x03 0x0B f
  | .cmp f => encR 0x04 0x00 f | .sel f => encR 0x04 0x01 f | .mov f => encR 0x04 0x02 f
  | .addImm f => encI 0x00 f | .mulImm f => encI 0x01 f | .andImm f => encI 0x02 f | .orImm f => encI 0x03 f
  | .xorImm f => encI 0x04 f | .shlImm f => encI 0x05 f | .shrImm f => encI 0x06 f | .sraImm f => encI 0x07 f
  | .movImm f => encI 0x08 f
  | .kand f => encR 0x05 0x00 f | .kor f => encR 0x05 0x01 f | .kxor f => encR 0x05 0x02 f
  | .knot f => encR 0x05 0x03 f | .kpop f => encR 0x05 0x04 f | .kffs f => encR 0x05 0x05 f
  | .kmov f => encR 0x05 0x06 f
  | .sget f => encR 0x06 0x00 f | .sset f => encR 0x06 0x01 f | .bkMode f => encR 0x06 0x02 f
  | .fadd f => encR 0x08 0x00 f | .fsub f => encR 0x08 0x01 f | .fmul f => encR 0x08 0x02 f
  | .fma f => encR 0x08 0x03 f | .fdiv f => encR 0x08 0x04 f | .fsqrt f => encR 0x08 0x05 f
  | .fmin f => encR 0x08 0x06 f | .fmax f => encR 0x08 0x07 f | .fminnum f => encR 0x08 0x08 f
  | .fmaxnum f => encR 0x08 0x09 f | .fabs f => encR 0x08 0x0A f | .fneg f => encR 0x08 0x0B f
  | .fcmp f => encR 0x08 0x0C f | .fclass f => encR 0x08 0x0D f | .fround f => encR 0x08 0x0E f
  | .vfrcp f => encR 0x09 0x00 f | .vfrsq f => encR 0x09 0x01 f | .vfexp2 f => encR 0x09 0x02 f
  | .vflog2 f => encR 0x09 0x03 f | .vfsin f => encR 0x09 0x04 f | .vfcos f => encR 0x09 0x05 f
  | .vcvt f => encR 0x0A 0x00 f | .vcvtfTo f => encR 0x0A 0x01 f | .vcvtfFrom f => encR 0x0A 0x02 f
  | .vdot4 f => encR 0x0A 0x03 f | .vdot2 f => encR 0x0A 0x04 f
  | .xshfl f => encR 0x0B 0x00 f | .xrot f => encR 0x0B 0x01 f | .xbcast f => encR 0x0B 0x02 f
  | .xvote f => encR 0x0B 0x03 f | .xballot f => encR 0x0B 0x04 f | .xred f => encR 0x0B 0x05 f
  | .xscan f => encR 0x0B 0x06 f | .xmatch f => encR 0x0B 0x07 f | .xmaxidx f => encR 0x0B 0x08 f
  | .vrand f => encR 0x0C 0x00 f
  | .ldG f => encM 0x10 0x00 f | .stG f => encM 0x10 0x01 f | .ldGAcq f => encM 0x10 0x02 f
  | .stGRel f => encM 0x10 0x03 f
  | .ldS f => encM 0x11 0x00 f | .stS f => encM 0x11 0x01 f | .ldSAcq f => encM 0x11 0x02 f
  | .stSRel f => encM 0x11 0x03 f
  | .ldU f => encM 0x12 0x00 f | .stU f => encM 0x12 0x01 f | .ldUAcq f => encM 0x12 0x02 f
  | .stURel f => encM 0x12 0x03 f
  | .fqPush f => encM 0x13 0x00 f | .fqPop f => encM 0x13 0x01 f | .vspill f => encM 0x13 0x02 f
  | .vfill f => encM 0x13 0x03 f | .pref f => encM 0x13 0x04 f
  | .cclean f => encM 0x14 0x00 f | .cinval f => encM 0x14 0x01 f | .cflush f => encM 0x14 0x02 f
  | .fenceAcq f => encR 0x14 0x03 f | .fenceRel f => encR 0x14 0x04 f | .fenceAr f => encR 0x14 0x05 f
  | .atomAdd sp o f => encA sp o 0x0 f | .atomMin sp o f => encA sp o 0x1 f | .atomMax sp o f => encA sp o 0x2 f
  | .atomAnd sp o f => encA sp o 0x3 f | .atomOr sp o f => encA sp o 0x4 f | .atomXor sp o f => encA sp o 0x5 f
  | .atomXchg sp o f => encA sp o 0x6 f | .atomCas sp o f => encA sp o 0x7 f | .atomFadd sp o f => encA sp o 0x8 f
  | .atomMaxidx sp o f => encA sp o 0x9 f
  | .bar f => encR 0x18 0x00 f | .gbar f => encR 0x18 0x01 f | .tlInc f => encR 0x18 0x02 f
  | .tlWait f => encR 0x18 0x03 f | .tlRead f => encR 0x18 0x04 f | .spawn f => encR 0x18 0x05 f
  | .rgOpen f => encR 0x18 0x06 f | .rgClose f => encR 0x18 0x07 f | .ckBegin f => encR 0x18 0x08 f
  | .ckSeal f => encR 0x18 0x09 f
  | .ceCopy f => encR 0x20 0x00 f | .ceFill f => encR 0x20 0x01 f | .ceGatherrows f => encR 0x20 0x02 f
  | .lrFlush f => encR 0x20 0x03 f
  | .mxPost f => encR 0x21 0x00 f | .mxCancel f => encR 0x21 0x01 f | .mxStatus f => encR 0x21 0x02 f
  | .tvPair f => encR 0x22 0x00 f | .tvBox f => encR 0x22 0x01 f | .tvResume f => encR 0x22 0x02 f
  | .rsTri f => encR 0x23 0x00 f | .rsSplat f => encR 0x23 0x01 f
  | .visFlow f => encR 0x24 0x00 f | .visDisp f => encR 0x24 0x01 f | .visRefine f => encR 0x24 0x02 f
  | .tsleepWake _ _ => none | .deferredTrap _ _ => none | .recessTrap _ _ => none | .bankModeRetire _ _ => none
  | .resultArrival _ _ => none | .fifoService _ _ => none | .tlWaitSatisfied _ _ => none
  | .rgOpenGranted _ _ => none | .engineQueueRoom _ _ => none | .commandStart _ => none | .commandRetire _ => none
  | .mm _ => none | .mmz _ => none | .mmStep _ => none | .cvacc _ => none | .ewiseConvert _ => none
  | .ewiseBias _ => none | .ewiseRelu _ => none | .ewiseScale _ => none | .rsum _ => none | .rckpt _ => none
  | .rwait _ => none | .faultRetry _ _ => none | .faultDecline _ _ => none | .queueEnable _ => none
  | .queueDisable _ => none | .jobLoad _ _ => none | .tailRecall _ => none | .periodicRelease _ => none
  | .workgroupPlacement _ _ => none | .recessBoundExpiry _ => none | .deadlineMiss _ => none
  | .exqHeadRecall _ => none | .watchdogExpiry _ => none | .drainKill _ => none | .drainAbort _ => none
  | .drainEnd _ => none | .partitionTableWrite _ _ _ => none | .waysWrite _ _ => none | .poolMapWrite _ _ => none
  | .registerWrite _ _ => none | .regulatorReadRequest _ _ _ => none | .regulatorWindowStart _ _ => none
  | .streamEnable _ => none | .frameStart _ _ => none | .frameEnd _ => none | .ptpSync _ => none
  | .syncTimeout => none | .journalWrite _ => none | .invalidatePartition _ => none | .invalidateRange _ => none
  | .invalidateWalkCaches _ => none | .invalidationComplete _ => none | .hostRead _ _ _ _ => none
  | .hostWrite _ _ _ _ => none | .pcieLinkDown => none | .pcieLinkUp => none | .ethernetTransmit _ _ => none
  | .tokenRequest _ _ _ => none | .forwardedRequest _ => none | .tokenResponse _ => none
  | .transientTimeout _ _ => none | .persistentRequest _ _ => none | .persistentDeactivate _ => none
  | .leave _ => none | .joinMessage _ => none | .tokensLost _ _ => none | .restore _ _ => none
  | .modulePowerFail => none | .patrolScrub _ _ => none | .flitCrcRetry => none | .laneRetrain _ _ => none
  | .meshLinkFailure _ _ => none | .boot => none | .proctorRestart _ => none | .proctorRestartComplete => none
  | .heartbeat _ => none | .heartbeatTimeout _ => none | .domainRestart _ => none | .domainRestartDone _ => none
  | .quote => none | .powerSample _ => none | .clusterPowerDown _ => none | .illegalOpcode _ => none
  | .instructionFetchFault _ _ _ => none | .applicationCoreAccess _ _ _ => none | .ckWriteAccepted _ => none

/-- A step of another agent: it has no instruction word. -/
def Instr.isEvent (i : Instr) : Bool := (encode i).isNone

/-- The base word that FINST records for an instruction (R39); 0 for a step without words. -/
def Instr.baseWord (i : Instr) : Word64 := match encode i with | some (w, _) => w | none => 0

/-- The length of an instruction in bytes (R78). -/
def Instr.len (i : Instr) : Nat := match encode i with | some (_, some _) => 16 | _ => 8

/-- Decoding a word numbered as spec/opcode_table.json numbers it: the base word in bits [63:0], the extension word
in bits [127:64], zero where the table gives fewer bits. -/
def decodeTableWord (_nbits w : Nat) : Option Instr :=
  let base : Word64 := BitVec.ofNat 64 w
  let ext : Option Word64 := if wordL base then some (BitVec.ofNat 64 (w / 2 ^ 64)) else none
  match decode base ext with
  | .ok i => some i
  | .error _ => none

end Sys2Proof
end

