-- ==== Sys2Proof/Machine/State.lean ====
section
/-!
DEFINITION. The state of the Clovik as plain data: waves and fragments, clusters and engines, the Timetable,
partitions and their windows, regulators, streams, the persistence unit, links and the Proctor.
-/

namespace Sys2Proof.Machine

/-- Why a step stops with a fault. -/
inductive Fault where
  /-- Raised by every SIMT meaning when no fragment issues: `exec` was asked for an instruction outside an issue
  turn.  The part has no such event.  Safe. -/
  | noIssuingFragment
  deriving DecidableEq, Repr

/-- Why an instruction has no meaning. -/
inductive Refusal where
  /-- Raised by `exec` for a row not modelled yet.  Safe. -/
  | notModelled (mnemonic : String)
  deriving DecidableEq, Repr

/-- The 32 lanes of a vector register. -/
abbrev Lanes := Vector (BitVec 32) 32

/-- A mapped vector register; bit n of `empty` is 1 while lane n is empty (R18, R32). -/
structure VReg where
  val   : Lanes
  empty : Word32
  deriving DecidableEq, Repr

/-- A mapped scalar register (R18). -/
structure SReg where
  val   : Word64
  empty : Bool
  deriving DecidableEq, Repr

/-- An entry of a reconvergence stack (R113). -/
structure StackEntry where
  tok     : BitVec 16
  running : Bool
  dpc     : Word64
  dmask   : Word32
  rmask   : Word32
  rpc     : Option Word64
  deriving DecidableEq, Repr

/-- What a fragment in UNITWAIT waits for, with its operands as of issue (R278, R282). -/
inductive UnitWait where
  | tlWait (c : Nat) (v : Nat)
  | fifo (bank : Nat) (push : Bool) (words : Nat) (lanes : Word32) (data : List Word32)
  | rgOpen (base stride count width : Nat) (wr : Bool)
  | engine (a b c : Word64)
  | bankMode (bank : Nat) (mode : Nat)
  | recessok
  deriving DecidableEq, Repr

/-- The fragment states of R278 but HELD, which the field `held` gives, and FREE. -/
inductive FragState where
  | ready
  | opwait
  /-- At a cross-lane instruction with member set m; `dst` are the vector names whose member lanes it marked empty
  (R164, R165). -/
  | rollcall (i : Instr) (m : Word32) (dst : List Nat)
  | barwait (gang : Bool)
  | unit (i : Instr) (w : UnitWait)
  | sleep (i : Instr) (target : Nat)
  | splitwait (resume : Option Word64)
  deriving DecidableEq, Repr

/-- A fragment (R26).  `stack` has its top first and at most 16 entries; `spilled` counts the entries in memory. -/
structure Frag where
  pc      : Word64
  exec    : Word32
  owned   : Word32
  st      : FragState
  held    : Bool
  stack   : List StackEntry
  spilled : Nat
  skip    : Word32     -- lanes that the instruction issued next skips (R126)
  restart : Bool       -- the instruction issued next is the first after `rfe` (R194)
  age     : Nat        -- issue count at its last issue, 0 for never (R281)
  yielded : Bool       -- its last instruction was `yield`, and no other fragment of the core has issued since (R121)
  passed  : List (Nat × Nat)   -- READY fragments of its issue slot that its last issue passed over: wave, slot (R281)
  deriving DecidableEq, Repr

/-- The split record of a wave (R113). -/
structure SplitRec where
  tok    : BitVec 16
  rmask  : Word32
  parent : Nat
  deriving DecidableEq, Repr

/-- A report-card entry of R444, as its 512 bits. -/
abbrev Card := BitVec 512

/-- The fault registers and the report card of a wave (R39, R443). -/
structure FaultRegs where
  fcause : Word32
  fpc    : Word64
  flanes : Word32
  finst  : Word64
  ftime  : Word64
  cards  : List Card
  deriving DecidableEq, Repr

/-- A long-latency result on its way (R32): vector lanes by physical name, a scalar, flags for its arrival (R141),
and whether its data is uncorrectable (R183). -/
structure Pending where
  vec    : List (Nat × Word32 × Lanes)
  sca    : Option (Nat × Word64)
  flags  : Word32
  poison : Option (Word64 × FaultRegs)
  deriving DecidableEq, Repr

/-- One atomic operation (R91, R202). -/
inductive AtomKind where
  | add | min | max | and | or | xor | xchg | cas | fadd | maxidx
  deriving DecidableEq, Repr

/-- One buffered operation of a deterministic layer, at physical address a, reached at virtual address va; `ck` is
the recovery domain of a CK page (R330, R331, R414). -/
inductive LayerOp where
  | store (a va : Nat) (ck : Option Nat) (b : Byte)
  | atomic (k : AtomKind) (signed : Bool) (a va : Nat) (ck : Option Nat) (size : Nat) (x c : Word64)
  deriving DecidableEq, Repr

/-- One entry of a checked launch's set area (R327). -/
structure SetEntry where
  scratch : Bool
  word    : Nat
  kind    : Nat        -- 0 read, 1 write, 2 atomic
  lane    : Nat
  wave    : Nat
  epoch   : Nat
  ioff    : Nat
  start   : Nat        -- device times of the epoch; `stop` is none while it is open
  stop    : Option Nat
  deriving DecidableEq, Repr

/-- A wave is resident, recessed, or retired or killed. -/
inductive WaveStatus where
  | resident | recessed | retired
  deriving DecidableEq, Repr

/-- One wave (R18, R26, R276).  Register names 128 to 135 and 64 to 71 are the handler copies (R46). -/
structure Wave where
  launch  : Nat
  gang    : Nat
  wg      : Nat
  widx    : Nat
  widBase : Nat
  core    : Nat
  wslot   : Nat
  status  : WaveStatus
  lanes   : Word32                 -- held lanes (R274)
  exited  : Word32
  vregs   : List (Nat × VReg)
  sregs   : List (Nat × SReg)
  masks   : Vector (BitVec 32) 16  -- K1 to K15; element 0 is unused
  rngkey  : Word64
  rngctr  : Vector (BitVec 64) 32
  fpflags : Word32
  fregs   : FaultRegs
  hmode   : Bool
  hslot   : Nat                    -- slot of the trapping fragment while hmode holds
  recess  : Bool                   -- WSTATE.RECESS
  frag0   : Option Frag
  frag1   : Option Frag
  split   : Option SplitRec
  seq     : Nat
  priv    : Nat                    -- private index (R305)
  pend    : List Pending
  pendTrap : Option (Nat × FaultRegs)        -- a trap held pending, with its slot (R284)
  deferred : List (BitVec 8 × Nat)           -- deferred engine traps: cause and SEQ (R230)
  raceSeen : List (SetEntry × SetEntry)      -- pairs already reported (R328)
  epoch   : Nat
  epochStart : Nat
  epochOpen : Bool          -- false between the end of an epoch and the start of the next (R325, R329)
  layer   : List LayerOp
  detSeen : Bool            -- has taken the DET_CONFLICT of the barrier it is at (R332)
  deriving DecidableEq, Repr

/-- The modes of a cluster SRAM bank (R296). -/
inductive BankMode where
  | cache | scratch | fifo
  deriving DecidableEq, Repr

/-- The power states of R472. -/
inductive Power where
  | active | clockGated | powerGated | retain | off
  deriving DecidableEq, Repr

/-- A resident workgroup's scratchpad region (R298), with the set area of a checked launch above it (R327). -/
structure Region where
  launch : Nat
  wg     : Nat         -- the workgroup: 4 * gang + member
  wsb    : Nat
  size   : Nat
  area   : Nat
  deriving DecidableEq, Repr

/-- A row-progress register of the tile sequencer (R420). -/
structure RowProg where
  cmd  : Nat
  opnd : Nat
  step : Nat
  row  : Nat
  elem : Nat
  deriving DecidableEq, Repr

/-- A tile lock on a bank (R310). -/
structure Lock where
  cmd   : Nat
  bank  : Nat
  write : Bool
  deriving DecidableEq, Repr

/-- One cluster. -/
structure Cluster where
  modes    : List BankMode
  scratch  : List Host.Cell            -- bytes by CSA; unlisted bytes are zero
  spoison  : List Nat                  -- poisoned 8-byte scratch words, by CSA / 8 (R441)
  fifos    : List (Nat × List Word32)
  fpoison  : List Nat                  -- FIFO banks with an uncorrectable word at their head (R441)
  acm      : List (Nat × BitVec 32)    -- accumulator words; unlisted words are zero
  lcache   : List (Nat × Nat × BitVec 512)   -- cached layout records: launch, handle, record (R235)
  lpoison  : List (Nat × Nat)          -- cached layout records with an uncorrectable error: launch, handle (R441)
  locks    : List Lock
  lockReqs : List (Nat × List (Nat × Bool))  -- lock requests in the order made: command, banks with write (R311)
  rowprog  : List RowProg
  regions  : List Region
  changed  : List (Nat × Nat)          -- banks changed by bk.mode: bank, launch (R300)
  restored : List (Nat × Nat)          -- cluster saves put back since its job took it: launch, key (R378)
  joined   : Bool
  power    : Power
  awakeAt  : Nat                       -- the device time at which it has left its power state (R472)
  withheld : Bool
  isolated : Bool
  selfTest : Bool                      -- passed its self-test (R467)
  job      : Option Nat                -- the job it is assigned to (R374)
  drain    : Option Nat                -- the partition whose drain has killed its work and not ended (R450)
  deriving DecidableEq, Repr

/-- The engines of a cluster (R12, R220), numbered as ENGINE of R418. -/
inductive Engine where
  | ce | tsq | tvu | rsu | vse
  deriving DecidableEq, Repr

/-- A command or record is queued, started, waiting on a fault token, finished but not retired, or retired. -/
inductive CmdState where
  | queued | started | faulted (token : Nat) | finished | retired
  deriving DecidableEq, Repr

/-- The descent state of a traversal command (R255 to R260). -/
structure TvState where
  stack : List (Nat × Nat)
  rseq  : Nat
  query : Nat
  selfq : Bool
  rootA : Nat
  qbox  : Nat
  qcnt  : Nat
  box   : Bool
  pend  : Option (BitVec 128)
  qbase : Nat          -- the output queue as read at the start: BASE, CAP, HEAD as last read, TAIL, counter
  qcap  : Nat
  head  : Nat
  qtail : Nat
  tlc   : Option Nat
  tail  : Nat          -- records written and not yet released in TAIL
  deriving DecidableEq, Repr

/-- A span of bytes that a copy command reads or writes: scratch bytes of a cluster, or virtual addresses
(R239, R308). -/
structure MemSpan where
  write : Bool
  cl    : Option Nat
  base  : Nat
  len   : Nat
  deriving DecidableEq, Repr

/-- A tensor of a layout record whose place is known (R236): the scratch of a cluster, or global memory. -/
structure Tensor where
  ew    : Nat                -- bits of an element
  ext   : List Nat
  alloc : List Nat
  pad   : Nat
  g     : Option Nat
  base  : Nat
  deriving DecidableEq, Repr

/-- What a command does after one of its writes is made: advance a counter of its launch, zero an accumulator element
(R247), count a record of its queue or release records in TAIL (R256), keep an element's conditions (R248), or end a step
(R245). -/
inductive EPost where
  | none | tlc (c n : Nat) | zero (i : Nat) | emit | tail (n : Nat) | flags (f : Nat) | step
  deriving DecidableEq, Repr

/-- A write that a command has still to make: `bits` bits of `val` at bit `off` of the byte at `a`; 0 bits write
nothing.  `cnt` elements then count towards COUNT. -/
structure EWrite where
  g    : Option Nat
  a    : Nat
  off  : Nat
  bits : Nat
  val  : Nat
  cnt  : Nat
  post : EPost
  deriving DecidableEq, Repr

/-- An accepted engine command or tile-sequencer record (R222 to R228, R240 to R252). -/
structure Cmd where
  cl     : Nat
  eng    : Engine
  wave   : Nat
  launch : Nat
  gang   : Nat
  core   : Nat
  seq    : Nat
  tick   : Nat
  ticket : Nat
  word   : Instr             -- the instruction that posted it
  desc   : BitVec 1024       -- the accepted copy, read low words first
  daddr  : Nat
  hb     : Word64
  hc     : Word64
  st     : CmdState
  code   : Nat               -- STATUS.CODE (R228)
  detail : Nat
  count  : Nat
  prog   : Nat               -- accesses, rows or primitives completed (R231)
  step   : Nat               -- steps completed (R252)
  sat    : Bool
  badscale : Bool
  flags  : Word32            -- conditions kept by ewise (R248)
  tv     : Option TvState
  view   : List LayerOp      -- the posting wave's view at acceptance in a deterministic launch (R334)
  wstat  : Bool              -- the STATUS write is still to be made
  spans  : List MemSpan      -- what the range scoreboard holds for it (R308)
  begun  : Bool              -- it has its locks and has passed its checks
  parked : Bool              -- it held a pending fault when a recess request came, and waits to be replayed (R422)
  ran    : Bool              -- its work is done; it has still to retire
  tens   : List Tensor       -- the tensors it works on, as its layout records gave them at its start
  touch  : List MemSpan      -- the scratch and global spans it reads and writes, from its start (R233, R310)
  todo   : List EWrite       -- writes decided and not yet made
  rows   : List (List Byte)  -- rows gathered for the current step (R421)
  out    : List LayerOp      -- its global writes in a deterministic launch (R334)
  blocked : Bool             -- its fault waits for room in the fault queue, and its engine with it (R418)
  deriving DecidableEq, Repr

/-- An open range grant (R215, R216). -/
structure Grant where
  handle : Nat
  cl     : Nat
  wave   : Nat
  base   : Nat
  stride : Nat
  count  : Nat
  width  : Nat
  write  : Bool
  part   : Nat               -- partition whose addresses it names
  deriving DecidableEq, Repr

/-- A scratchpad region saved at a recess: the workgroup's member number, where it lay, its bytes and its poisoned 8-byte
words, both by their offset (R378, R442). -/
structure RegionSave where
  wg     : Nat
  cl     : Nat
  wsb    : Nat
  size   : Nat
  cells  : List Host.Cell
  poison : List Nat
  deriving DecidableEq, Repr

/-- A bank saved at a recess: its mode, its scratch bytes with their poisoned words, and its FIFO (R378, R442). -/
structure BankSave where
  bank    : Nat
  mode    : BankMode
  cells   : List Host.Cell
  poison  : List Nat
  fifo    : List Word32
  fpoison : Bool
  deriving DecidableEq, Repr

/-- What a recess saves of a cluster for a launch: the recess and cluster (`key` is 64 times the number of recesses before
it, plus the cluster), its part of the context save area (R379), the accumulator save set, and the BANKS banks (R376,
R378). -/
structure ClusterSave where
  key   : Nat
  slot  : Nat
  acm   : Option (List (Nat × BitVec 32))
  banks : Option (List BankSave)
  deriving DecidableEq, Repr

/-- A gang of an admitted launch. -/
structure Gang where
  cls        : List Nat      -- clusters its workgroups lie on; empty while unplaced
  placed     : Bool
  recessed   : Bool
  done       : Bool
  wgsDone    : List Nat      -- members of retired workgroups
  relaunches : Nat
  trace      : Bool
  saved      : List RegionSave              -- its scratch regions saved at a recess
  savedOn    : List Nat                     -- the cluster saves of its launch that hold the rest, by key
  deriving DecidableEq, Repr

/-- An admitted launch or task with its engine context (R363, R367). -/
structure Launch where
  part    : Nat
  job     : Nat
  q       : Nat
  entry   : Nat
  record  : BitVec 2048      -- the retained launch record
  declared : List (BitVec 512)   -- its declared regions, read at admission (R368)
  task    : Bool
  tlc     : Vector (BitVec 64) 16
  acnt    : Vector (BitVec 64) 16
  gangs   : List Gang
  after   : List Nat         -- launches it is ordered after (R369)
  retired : Bool
  killed  : Bool
  started : Bool             -- its first workgroup has been placed
  snap    : List Host.Cell   -- snapshot of a deterministic launch (R330)
  snapTaken : Bool
  wgLayers : List (Nat × List LayerOp)
  gangLayers : List (Nat × List LayerOp)
  sets    : List SetEntry    -- entries of a checked launch (R327)
  csaves  : List ClusterSave
  serial  : Option (Nat × Bool) -- workgroup that is serialised, and whether the others are held yet (R329)
  deriving DecidableEq, Repr

/-- Instance states of R373; COMPLETE instances are dropped. -/
inductive InstState where
  | ready | running | recessing | recessed
  deriving DecidableEq, Repr

/-- An instance of a job (R372, R373). -/
structure Instance where
  job      : Nat
  st       : InstState
  release  : Nat
  deadline : Nat
  card     : BitVec 1024     -- the card it was released with (R362)
  lo       : Nat             -- owned entries lo to hi - 1
  hi       : Nat
  spawned  : List Nat        -- entries beyond them that its own kernels have spawned (R372)
  next     : Nat             -- first owned entry not yet admitted
  done     : Nat             -- owned entries retired
  wgDone   : Nat
  wgTotal  : Nat
  recesses : Nat
  reqTime  : Option Nat      -- device time of the posted recess request
  bound    : Nat             -- L of the request (R377)
  cause    : Option Nat      -- job whose instance caused the request
  progress : Nat             -- device time from which the watchdog counts (R384)
  elapsed  : Nat             -- what it had counted when it last stopped
  missed   : Bool
  deriving DecidableEq, Repr

/-- A release that waits: for its job's instance to complete, or, with no entries yet, for the queue to be within CAP
(R373, R359). -/
structure Deferred where
  release  : Nat
  deadline : Nat
  card     : BitVec 1024          -- the card it was released with
  own      : Option (Nat × Nat)   -- owned entries, lo to hi - 1
  missed   : Bool                 -- its deadline has been tested (R381)
  aborted  : Bool                 -- aborted while it waited
  deriving DecidableEq, Repr

/-- A job (R361, R362, R383); one whose card is not loaded stays for its held records alone. -/
structure Job where
  card     : BitVec 1024
  loaded   : Bool
  loadTime : Nat
  nextRel  : Nat             -- next release time of a periodic job
  skipNext : Bool            -- MISS = 2 pending (R381)
  skipTail : Nat             -- TAIL as a skipped event release saw it (R381)
  deferred : List Deferred
  hold     : List (BitVec 512)
  overflow : Bool
  lastCkctl : Bool           -- CKCTL of its last launch record (R460)
  deriving DecidableEq, Repr

/-- A queue-table entry (R358) with what the Timetable has seen of the header (R359). -/
structure QEntry where
  hdr      : Word64
  kind     : Bool
  en       : Bool
  template : Word64
  tmpl     : BitVec 2048     -- the template record as read when the queue was enabled (R366)
  done     : Word64
  head     : Nat
  tail     : Nat
  overCap  : Bool
  dropped  : List Nat        -- entries that an abort discarded before HEAD reached them (R381)
  wdStopped : Bool
  deriving DecidableEq, Repr

/-- An event on its way to a partition's journal (R397, R398). -/
structure JEvent where
  time    : Nat
  agent   : Nat
  kind    : Nat
  payload : BitVec 896
  deriving DecidableEq, Repr

/-- A pending translation fault of a partition (R418, R419). -/
structure FaultRec where
  token : Nat
  cmd   : Nat
  deriving DecidableEq, Repr

/-- A partition: its table entry (R388) and the registers of its window (R391). -/
structure Part where
  en      : Bool
  fenced  : Bool
  ways    : BitVec 24
  ptroot  : Word64
  qmask   : Word64
  jtbase  : Word64
  jobload : BitVec 8
  lbusy   : Bool
  lok     : Bool
  ldet    : BitVec 8
  fqhdr   : Word64
  jhdr    : Word64
  iaddr   : Word64
  ilen    : Word64
  ikind   : BitVec 2
  inval   : Option (Nat × Nat × Nat)         -- the invalidation in progress: IKIND, IADDR, ILEN at its GO
  nextToken : Nat
  faults  : List FaultRec
  jq      : List JEvent
  lost    : Nat
  drain   : Option (Nat × Nat × Nat)         -- a drain: step done, expiry time, time of step 2 (R450)
  drainCls : List Nat                        -- the clusters that held work of the partition when the drain began (R450)
  deriving DecidableEq, Repr

/-- A translation held in a cache (R416): who holds it (`cluster` or a core of it), the page and its leaf. -/
structure TlbEntry where
  agent : Nat                -- 0 to 255 core, 256 to 319 cluster, 320 + n agent n of R398, 512 + n application core
  part  : Nat
  vbase : Nat
  size  : Nat
  leaf  : Word64
  deriving DecidableEq, Repr

/-- A cached table pointer (R416). -/
structure WalkEntry where
  agent : Nat
  part  : Nat
  level : Nat
  vbase : Nat
  table : Word64
  deriving DecidableEq, Repr

/-- A line in an L1 data cache (R324). -/
structure L1Line where
  core : Nat
  line : Nat
  data : Line
  deriving DecidableEq, Repr

/-- A line dirty in a holder's cache, with the data that the home holds meanwhile, and the party whose request last made
it dirty (R335, R196, R392). -/
structure DirtyLine where
  line   : Nat
  holder : Holder
  home   : Line
  charge : Option Charge
  deriving DecidableEq, Repr

/-- Tokens of a line at a holder (R335), in the CACHE bank that is the line's way (R297); the home holds the rest. -/
structure TokenHold where
  line   : Nat
  holder : Holder
  n      : Nat
  owner  : Bool
  way    : Nat
  deriving DecidableEq, Repr

/-- A token message in flight (R336). -/
inductive TokMsg where
  | forward (line : Nat) (to_ : Holder) (req : Holder) (wr : Bool) (gen : BitVec 16)
  | response (line : Nat) (to_ : Option Holder) (n : Nat) (owner : Bool) (gen : BitVec 16)
  deriving DecidableEq, Repr

/-- An access that a holder is collecting tokens for (R336, R337). -/
structure TokReq where
  holder   : Holder
  line     : Nat
  write    : Bool
  sent     : Nat             -- device time its access was first requested
  last     : Nat             -- device time of the last transient request
  failures : Nat
  stage    : Nat             -- 0 transient, 1 persistent request sent, 2 queued at the home, 3 active
  deriving DecidableEq, Repr

/-- A line in the system cache (R392). -/
structure SysLine where
  line   : Nat
  way    : Nat
  part   : Nat
  dirty  : Bool
  charge : Option Charge     -- whom its write-back is charged to (R392, R399)
  deriving DecidableEq, Repr

/-- Who waits for a read that a regulator holds (R401): a fragment, an engine command, an agent of the I/O die, or a
request of the agenda. -/
inductive Reader where
  | frag (w slot : Nat)
  | cmd (k : Nat)
  | agent (n : Nat)
  | request (id : Nat)
  deriving DecidableEq, Repr

/-- A read of a line by a requester (R400). -/
structure ReadReq where
  who  : Reader
  line : Nat
  deriving DecidableEq, Repr

/-- A regulator's count of one job or class in its window, the requests in its 32 hold entries, and those that wait at
their slices for an entry (R400, R401), each in arrival order. -/
structure RegCount where
  g      : Nat
  c      : Charge
  window : Nat               -- start of the window the count belongs to
  count  : Nat
  held   : List ReadReq
  slice  : List ReadReq
  deriving DecidableEq, Repr

/-- Regulator status of a job (R404) with the window in which BUDGET_OVERRUN was last raised (R402). -/
structure RegStat where
  job   : Nat
  ovcnt : BitVec 32
  lasth : Nat
  win   : Option Nat
  deriving DecidableEq, Repr

/-- A frame being landed (R406). -/
structure FrameLanding where
  tstart : Nat
  bytes  : Nat
  fnum   : BitVec 16
  chan   : BitVec 8
  trunc  : Bool
  err    : Bool
  deriving DecidableEq, Repr

/-- A stream port: its ownership (R405), configuration and landing state; ports 0 to 7 CSI-2, 8 to 11 Ethernet. -/
structure Stream where
  owner : BitVec 6
  ownen : Bool
  en    : Bool
  nslot : BitVec 16
  slotb : BitVec 32
  sbase : Word64
  dbase : Word64
  cons  : Word64
  prod  : Word64
  drops : BitVec 32
  frame : Option FrameLanding
  gap   : Bool
  stalled : Option (Nat × BitVec 512)   -- a fault record that waits for room, with the frame number (R418)
  rings : List Word64        -- transmit ring headers of an Ethernet port (R429)
  deriving DecidableEq, Repr

/-- A class budget (R403). -/
structure ClassBudget where
  budget : BitVec 32
  window : BitVec 32
  deriving DecidableEq, Repr

/-- Device time and its discipline (R394 to R396, R430).  TIME is a count without bound; registers and stamps show it
modulo 2^64, where the manual does not say what follows 2^64 - 1 (log entry 2). -/
structure Clock where
  time     : Nat
  locked   : Bool
  stepen   : Bool
  rate     : Int
  stepth   : BitVec 32
  laststep : Word64
  good     : Nat             -- consecutive sync intervals below 1,000 ns
  missed   : Nat             -- sync intervals since the last sync
  gm       : Option Nat
  masters  : List (Nat × Nat)   -- the masters heard: port and priority vector (R430)
  sent     : List (Nat × Nat)   -- TIME sent as grandmaster: port and TIME (R430)
  deriving DecidableEq, Repr

/-- A PCIe function: its partition and BARs, BAR 2 of 2^hbits bytes (R424), MSI-X enable, masks and Pending Bits
(R427). -/
structure PcieFn where
  fn      : Nat
  part    : Nat
  sysWin  : Bool
  hbase   : Word64
  hbits   : Nat
  msix    : Bool
  masked  : Word64
  pending : Word64
  deriving DecidableEq, Repr

/-- The PCIe port (R423 to R427). -/
structure Pcie where
  rootPort : Bool
  rootPart : Nat                         -- the PARTID bound to the root port (R425)
  fns      : List PcieFn
  up       : Bool
  downAt   : Option Nat
  sent     : List (Nat × Byte)           -- bytes sent outbound, newest last (R425)
  replies  : List (List Byte × Bool)     -- completions to host reads: data, and Unsupported Request or poison
  vectors  : List (Nat × Nat)            -- MSI-X vectors sent: function, vector
  deriving DecidableEq, Repr

/-- A seal record (R457), with the interval's NOUNDO mark and the seal before it. -/
structure Seal where
  n      : Nat
  count  : Nat
  time   : Nat
  digest : List Byte
  prev   : Nat
  tags   : List Nat
  undo   : List (Nat × Line)
  hasUndo : Bool
  noundo : Bool
  deriving DecidableEq, Repr

/-- A recovery domain of a partition (R453 to R460). -/
structure Domain where
  part     : Nat
  d        : Nat
  logbase  : Nat
  logsize  : Nat
  rcp      : Nat
  openCk   : Nat
  state    : Nat             -- 0 IDLE, 1 OPEN, 2 RESTORING
  noundo   : Bool
  tornf    : Bool
  reason   : Nat
  sealtime : Nat
  tornck   : Nat
  req      : BitVec 8
  busy     : Bool
  tags     : List Nat        -- lines of the current interval, by physical line number
  undo     : List (Nat × Line)
  seals    : List Seal       -- newest first
  outlog   : List (BitVec 256)
  outlost  : Nat
  outCount : Nat             -- entries written to the outbound log since boot
  deriving DecidableEq, Repr

/-- A write to a CK page not yet accepted (R452). -/
structure CkWrite where
  part : Nat
  d    : Nat
  line : Nat
  old  : Line
  wave : Option Nat
  deriving DecidableEq, Repr

/-- A firmware slot of the external flash (R467). -/
structure FwSlot where
  image : List Byte
  sig   : List Byte
  key   : List Byte
  svn   : Nat
  owners : List (List Byte)
  deriving DecidableEq, Repr

/-- The PHY of a CSI-2 port: D-PHY lanes or C-PHY trios (R428). -/
inductive Phy where
  | dphy (lanes : Nat) | cphy (trios : Nat)
  deriving DecidableEq, Repr

/-- What the record selects for a CSI-2 port (R428). -/
structure CsiPort where
  phy   : Phy
  chan  : Nat
  types : List DataType
  deriving DecidableEq, Repr

/-- A receive filter of an Ethernet port: destination MAC address, VLAN identifier and EtherType; none accepts any
(R429; log entry 52). -/
structure EthFilter where
  mac   : Option Nat
  vlan  : Option Nat
  etype : Option Nat
  deriving DecidableEq, Repr

/-- What a configuration record carries (R468); `wf` is whether its section table is in order and its RSV bits are 0. -/
structure ConfigRec where
  image   : List Byte
  sig     : List Byte
  svn     : Nat
  wf      : Bool
  parts   : List (Nat × Bool × BitVec 24 × Word64 × Word64)   -- p, EN, WAYS, PTROOT, QMASK
  pools   : List (Nat × BitVec 2)
  classes : List ClassBudget
  owners  : List (BitVec 6 × Bool)
  rootPort : Bool
  rootPart : Nat
  fns     : List PcieFn
  csi     : List CsiPort                                      -- ports 0 to 7
  filters : List (List EthFilter)                             -- Ethernet ports 0 to 3
  rings   : List (Nat × List Word64)
  timed   : List Nat                                          -- ports that run 802.1AS (R430)
  p1588   : Bool
  gmOk    : Bool                                              -- it may become grandmaster
  sysLevels : List Priv                                       -- levels that may reach the system window (R386)
  pwLevels  : List Priv                                       -- and the Proctor window (R466)
  pwFn      : Option Nat                                      -- the PCIe function that may map the Proctor window
  domains : List (Nat × Nat × Nat × Nat)                      -- partition, domain, LOGBASE, LOGSIZE
  pairs   : BitVec 8
  pcap    : Nat
  deriving DecidableEq, Repr

/-- The Proctor: its window (R466) and what it keeps (R465 to R473). -/
structure Proctor where
  stage   : BitVec 8
  result  : BitVec 8
  slot    : Bool
  domain  : BitVec 7
  waiting : Option Nat       -- a restart requested while the Proctor restarts (R465)
  tolm    : BitVec 32
  tolg    : BitVec 32
  tols    : BitVec 32
  hbpair  : BitVec 8
  hben    : BitVec 8
  nonce   : BitVec 512
  qaddr   : Word64
  qbusy   : Bool
  booted  : Bool
  up      : Nat                        -- the last stage whose domains run (R465, R467)
  halted  : Bool                       -- the boot has stopped at a failed stage (R467)
  restarting : Option Nat              -- cause of a Proctor restart under way (R465)
  missed  : List (Nat × Nat)           -- missed heartbeats by domain (R470)
  resets  : List Nat                   -- domains under restart (R471)
  slotA   : Option FwSlot
  slotB   : Option FwSlot
  config  : Option ConfigRec
  fwsvn   : Nat                        -- store counters
  cfgsvn  : Nat
  storeOk : Bool
  memOk   : Bool
  linkOk  : Bool
  portOk  : Bool
  pairOk  : Bool
  clusterOk : List Bool                -- self-test results, cluster by cluster; empty means all pass
  pcap    : Nat
  samples : List Nat                   -- power samples of the last 10 ms, newest first, in mW
  sram    : List Host.Cell             -- the Proctor's own memory and store (R13), which no other agent reaches
  store   : List Host.Cell
  deriving DecidableEq, Repr

/-- An application core: its level, translation registers and partition register, the reservation of its last LR, and the
pending and enabled identities of its IMSIC (R385, R431). -/
structure AppCore where
  level  : Priv
  satp   : SatpMode × Nat
  vsatp  : SatpMode × Nat
  hgatp  : SatpMode × Nat
  sum    : Bool
  mxr    : Bool
  part   : BitVec 6
  resv   : Option Nat          -- the line reserved
  eip    : BitVec 256
  eie    : BitVec 256
  deriving DecidableEq, Repr

/-- A word of the cluster SRAM or layout cache that an uncorrectable error strikes (R441). -/
inductive Upset where
  | scratch (cl word : Nat)
  | fifo (cl bank : Nat)
  | layout (cl launch handle : Nat)
  deriving DecidableEq, Repr

/-- Which agent moves next (log entry 2). -/
inductive Turn where
  /-- The fragment in a slot of a wave gets an issue opportunity (R281). -/
  | issue (w slot : Nat)
  /-- As `issue`, and the two issues of a redundant launch differ twice (R448). -/
  | issueFaulty (w slot : Nat)
  /-- As `issue`, and a register that the instruction reads has an uncorrectable error (R441). -/
  | issueUpset (w slot : Nat)
  /-- The two runs of a tile-sequencer record of a redundant launch differ twice (R449), or an accumulator word that the
  record reads has an uncorrectable error (R441). -/
  | recordFaulty (k : Nat)
  | recordUpset (k : Nat)
  /-- An uncorrectable error in a cluster's SRAM (R441). -/
  | upset (u : Upset)
  /-- An agent other than an issuing fragment performs a step. -/
  | event (i : Instr)
  /-- Device time advances by ns (R394). -/
  | tick (ns : Nat)
  /-- A core's L1 takes a copy of a line, or drops one (R324). -/
  | l1Fill (core line : Nat)
  | l1Drop (core line : Nat)
  /-- A translation cache takes the leaf that a walk finds, or drops one (R416). -/
  | tlbFill (agent part va : Nat)
  | tlbDrop (agent part va : Nat)
  /-- A walk cache takes the table pointer of a level (R416). -/
  | walkFill (agent part va level : Nat)
  /-- A holder evicts a line: its tokens and dirty data go home (R335). -/
  | evict (h : Holder) (line : Nat)
  /-- The system cache allocates a line into a way, or writes one back (R392). -/
  | sysFill (line way part : Nat)
  | sysDrop (line : Nat)
  /-- A host sets MSI-X enable and masks of a function (R427). -/
  | msix (fn : Nat) (enable : Bool) (masked : Word64)
  deriving DecidableEq, Repr

/-- The whole machine. -/
structure State where
  -- memory system
  mem      : List Host.Cell          -- the coherent image: the newest value of every byte
  poison   : List Nat                -- poisoned lines, by physical line number (R442)
  dirty    : List DirtyLine
  copies   : List (Nat × Holder × Line)   -- copies a discard left behind (R196)
  tokens   : List TokenHold
  gens     : List (Nat × BitVec 16)
  tokMsgs  : List TokMsg
  tokReqs  : List TokReq
  l1       : List L1Line
  tlb      : List TlbEntry
  walks    : List WalkEntry
  sys      : List SysLine
  left     : List Holder             -- pairs that have left coherence
  ckSeen   : List Nat                -- lines reached through a CK page, which resets of clusters and pairs spare (R451)
  -- waves, clusters, engines
  waves    : List Wave
  clusters : List Cluster
  cmds     : List Cmd
  grants   : List Grant
  -- the Timetable
  launches : List Launch
  qtab     : List QEntry
  jobs     : List (Nat × Job)
  insts    : List Instance
  pool     : List (BitVec 2)
  poolNext : List (Nat × BitVec 2)   -- pool changes that wait for a free cluster (R390)
  irqs     : List (Nat × BitVec 8)   -- interrupts sent: pair, identity (R383)
  undecided : Bool                   -- a release, completion or recess arrival since the last decision (R374)
  ttDown   : Bool                    -- the Timetable restarts (R471)
  ttSince  : Nat                     -- device time at which it stopped
  -- partitions, time, streams, regulators
  parts    : List Part
  classes  : List ClassBudget
  clock    : Clock
  streams  : List Stream
  regs     : List RegCount
  granted  : List ReadReq            -- reads counted and admitted whose access has not been made yet (R401)
  regStats : List RegStat
  -- host, links, persistence, Proctor
  pcie     : Pcie
  frames   : List (Nat × List Byte)  -- frames transmitted: port, bytes (R429)
  cores    : List AppCore
  appLast  : Option (List Byte)      -- what the last application-core load or AMO returned; none for an access fault
  appOk    : Bool
  domains  : List Domain
  ckPend   : List CkWrite
  ckBuf    : List Nat                -- lines in the persistence unit's buffer (R451)
  outTx    : Nat                     -- retried flits, a count nothing else reads (R462)
  lanes    : List (Nat × Nat)        -- lanes retrained out: direction, lane (R462)
  links    : List (Nat × Nat)        -- failed mesh links (R463)
  proctor  : Proctor
  capacity : Nat                     -- installed LPDDR-6 bytes (R13)
  -- the model's own
  agenda   : List Turn
  cur      : Option (Nat × Nat)      -- the issuing fragment: wave, slot
  faulty   : Bool                    -- the current issue is an `issueFaulty`
  upset    : Bool                    -- the current issue is an `issueUpset`
  issues   : Nat                     -- issue count, for ages
  freeCtr  : Nat
  deriving DecidableEq, Repr

/-! ## Reset -/

/-- An M-cluster or a G-cluster, by its column (R12). -/
def isG (cl : Nat) : Bool := cl % 8 == 2 || cl % 8 == 5

/-- The number of banks of a cluster (R296). -/
def bankCount (cl : Nat) : Nat := if isG cl then 16 else 32

/-- Cluster n right after power-on (R296; log entry 8 for what the manual does not state). -/
def Cluster.reset (n : Nat) : Cluster where
  modes := List.replicate (bankCount n) .cache
  scratch := []
  spoison := []
  fifos := []
  fpoison := []
  acm := []
  lcache := []
  lpoison := []
  locks := []
  lockReqs := []
  rowprog := []
  regions := []
  changed := []
  restored := []
  joined := false
  power := .off
  awakeAt := 0
  withheld := false
  isolated := false
  selfTest := false
  job := none
  drain := none

/-- A queue-table entry after reset (R358). -/
def QEntry.reset : QEntry where
  hdr := 0
  kind := false
  en := false
  template := 0
  tmpl := 0
  done := 0
  head := 0
  tail := 0
  overCap := false
  dropped := []
  wdStopped := false

/-- A partition after reset (R388, R360, R391, R416). -/
def Part.reset : Part where
  en := false
  fenced := false
  ways := 0
  ptroot := 0
  qmask := 0
  jtbase := 0
  jobload := 0
  lbusy := false
  lok := false
  ldet := 0
  fqhdr := 0
  jhdr := 0
  iaddr := 0
  ilen := 0
  ikind := 0
  inval := none
  nextToken := 1
  faults := []
  jq := []
  lost := 0
  drain := none
  drainCls := []

/-- A stream port after reset (R405). -/
def Stream.reset : Stream where
  owner := 0
  ownen := false
  en := false
  nslot := 0
  slotb := 0
  sbase := 0
  dbase := 0
  cons := 0
  prod := 0
  drops := 0
  frame := none
  gap := false
  stalled := none
  rings := []

/-- Device time after power-on (R394, R396). -/
def Clock.reset : Clock where
  time := 0
  locked := false
  stepen := false
  rate := 0
  stepth := 1000000
  laststep := 0
  good := 0
  missed := 0
  gm := none
  masters := []
  sent := []

/-- An application core after reset (log entry 8). -/
def AppCore.reset : AppCore where
  level := .m
  satp := (.bare, 0)
  vsatp := (.bare, 0)
  hgatp := (.bare, 0)
  sum := false
  mxr := false
  part := 0
  resv := none
  eip := 0
  eie := 0

/-- The Proctor at power-on (R466, R467); no firmware is presumed in flash (log entry 8). -/
def Proctor.reset : Proctor where
  stage := 0
  result := 0
  slot := false
  domain := 0
  waiting := none
  tolm := 0
  tolg := 0
  tols := 0
  hbpair := 0
  hben := 0
  nonce := 0
  qaddr := 0
  qbusy := false
  booted := false
  up := 0
  halted := false
  restarting := none
  missed := []
  resets := []
  slotA := none
  slotB := none
  config := none
  fwsvn := 0
  cfgsvn := 0
  storeOk := true
  memOk := true
  linkOk := true
  portOk := true
  pairOk := true
  clusterOk := []
  pcap := 240000
  samples := []
  sram := []
  store := []

/-- The machine right after power-on reset: no work, every register at the value the manual gives, and the Proctor
about to boot. -/
def State.reset : State where
  mem := []
  poison := []
  dirty := []
  copies := []
  tokens := []
  gens := []
  tokMsgs := []
  tokReqs := []
  l1 := []
  tlb := []
  walks := []
  sys := []
  left := []
  ckSeen := []
  waves := []
  clusters := (List.range 64).map Cluster.reset
  cmds := []
  grants := []
  launches := []
  qtab := List.replicate 64 QEntry.reset
  jobs := []
  insts := []
  pool := List.replicate 64 3
  poolNext := []
  irqs := []
  undecided := false
  ttDown := false
  ttSince := 0
  parts := List.replicate 64 Part.reset
  classes := List.replicate 4 { budget := 0, window := 10000 }
  clock := Clock.reset
  streams := List.replicate 12 Stream.reset
  regs := []
  granted := []
  regStats := []
  pcie := { rootPort := false, rootPart := 0, fns := [], up := false, downAt := none, sent := [], replies := [], vectors := [] }
  frames := []
  cores := List.replicate 16 AppCore.reset
  appLast := none
  appOk := true
  domains := []
  ckPend := []
  ckBuf := []
  outTx := 0
  lanes := []
  links := []
  proctor := Proctor.reset
  capacity := 256 * 2 ^ 30
  agenda := []
  cur := none
  faulty := false
  upset := false
  issues := 0
  freeCtr := 0

end Sys2Proof.Machine
end

