-- ==== Sys2Proof/Machine/Bits.lean ====
section
/-!
DEFINITION. Bit fields, bytes and lists: the helpers that every meaning uses.
-/

namespace Sys2Proof.Machine

/-- Bits [lo + n - 1 : lo] of x, as a number. -/
def field (x lo n : Nat) : Nat := (x >>> lo) % 2 ^ n
/-- Bit i of x. -/
def bitOf (x i : Nat) : Bool := x.testBit i
/-- 1 for true. -/
def b2n (b : Bool) : Nat := if b then 1 else 0
/-- x put at bit lo. -/
def putAt (x lo : Nat) : Nat := x <<< lo

/-- The n low bytes of v, least significant first (R4). -/
def bytesOf : Nat → Nat → List Byte
  | 0, _ => []
  | n + 1, v => BitVec.ofNat 8 v :: bytesOf n (v / 256)

/-- The number whose bytes, least significant first, are given (R4). -/
def ofBytes : List Byte → Nat
  | [] => 0
  | b :: bs => b.toNat + 256 * ofBytes bs

/-- The two's-complement value of the low w bits of x. -/
def sgn (w x : Nat) : Int := if (x % 2 ^ w) < 2 ^ (w - 1) then ((x % 2 ^ w : Nat) : Int) else ((x % 2 ^ w : Nat) : Int) - 2 ^ w

/-- The low w bits of an integer (R128: wrap). -/
def wrap (w : Nat) (x : Int) : Nat := (x % (2 ^ w : Int)).toNat

/-- The set bits of a mask, ascending. -/
def lanesOf (m : Word32) : List Nat := (List.range 32).filter fun i => m.getLsbD i
/-- Number of set bits. -/
def popcount (m : Word32) : Nat := (lanesOf m).length
/-- The lowest set bit, 0 for none. -/
def lowestLane (m : Word32) : Nat := (lanesOf m).headD 0
/-- The mask with bit i set where p i holds. -/
def maskOf (p : Nat → Bool) : Word32 :=
  BitVec.ofNat 32 (((List.range 32).map fun i => if p i then 2 ^ i else 0).foldl (· + ·) 0)
/-- Lane i of a vector value. -/
def laneAt (v : Lanes) (i : Nat) : Word32 := v.toList.getD i 0
/-- The vector whose lane i is f i. -/
def lanesFn (f : Nat → Word32) : Lanes := Vector.ofFn fun i => f i.val

/-- Replaces the elements that satisfy p. -/
def updWhere {α : Type} (p : α → Bool) (f : α → α) (l : List α) : List α := l.map fun x => if p x then f x else x
/-- Sets the value of a key in an association list with distinct keys. -/
def assocSet {α : Type} (l : List (Nat × α)) (k : Nat) (v : α) : List (Nat × α) :=
  (k, v) :: l.filter fun e => e.1 != k
/-- Removes a key. -/
def assocDel {α : Type} (l : List (Nat × α)) (k : Nat) : List (Nat × α) := l.filter fun e => e.1 != k

/-- The first n pages-of-4,096 pieces of a span: address and length. -/
def pieces : Nat → Nat → Nat → List (Nat × Nat)
  | 0, _, _ => []
  | fuel + 1, a, n =>
    let room := 4096 - a % 4096
    if n = 0 then [] else if n ≤ room then [(a, n)] else (a, room) :: pieces fuel (a + room) (n - room)

/-- A BitVec record as its bytes. -/
def recBytes {n : Nat} (r : BitVec n) : List Byte := bytesOf (n / 8) r.toNat

end Sys2Proof.Machine
end

