-- ==== Sys2Proof/Machine/NumFmt.lean ====
section
/-!
DEFINITION. Number formats: exact values, rounding, the IEEE and narrow formats, d2p8, bin1, scales and the special
functions (chapter 03; 06 R145 to R152).

An exact value is (-1)^neg * m * 2^e.  A value that is no dyadic number (a quotient, a root, a special function) is
held to far more bits than any format keeps, with its last bit set to say that the exact value lies strictly between
two representable ones, so that every rounding sees the exact value (log entry 10).
-/

namespace Sys2Proof.Machine

/-- An exact real, an infinity or a NaN. -/
inductive Num where
  | nan (signalling : Bool)
  | inf (neg : Bool)
  | fin (neg : Bool) (m : Nat) (e : Int)
  deriving DecidableEq, Repr

/-- The conditions of R50 and R53 as the bits of FPFLAGS (R41, R141). -/
def flNV : Nat := 1
def flDZ : Nat := 2
def flOF : Nat := 4
def flUF : Nat := 8
def flNX : Nat := 16
def flSAT : Nat := 32

/-- A result with the conditions it reports. -/
abbrev Flagged (α : Type) := α × Nat

/-- Union of two sets of conditions. -/
def orFlags (a b : Nat) : Nat := a ||| b

/-- m * 2^e rounded to a multiple of 2^q under a direction: the multiple, and whether it is exact (R52). -/
def roundAt (neg : Bool) (m : Nat) (e q : Int) (rd : Nat) : Nat × Bool :=
  if q ≤ e then (m <<< (e - q).toNat, true)
  else
    let sh := (q - e).toNat
    let lo := m % 2 ^ sh
    let hi := m >>> sh
    if lo = 0 then (hi, true)
    else
      let half := 2 ^ (sh - 1)
      let up := if rd = 1 then false else if rd = 2 then !neg else if rd = 3 then neg
        else if rd = 4 then decide (half ≤ lo)
        else decide (half < lo) || (lo == half && hi % 2 == 1)
      (if up then hi + 1 else hi, false)

/-- The layout of a binary floating-point format (R51, R57): fraction bits, bias, the significand and exponent of the
largest finite value, and whether it has infinities. -/
structure Fmt where
  ebits : Nat
  mbits : Nat
  bias  : Nat
  maxSig : Nat
  maxExp : Int
  hasInf : Bool
  ieeeNaN : Bool     -- exponent all ones encodes infinities and NaN
  deriving DecidableEq, Repr

def fmtFp32 : Fmt := { ebits := 8, mbits := 23, bias := 127, maxSig := 2 ^ 24 - 1, maxExp := 127, hasInf := true, ieeeNaN := true }
def fmtFp16 : Fmt := { ebits := 5, mbits := 10, bias := 15, maxSig := 2 ^ 11 - 1, maxExp := 15, hasInf := true, ieeeNaN := true }
def fmtBf16 : Fmt := { ebits := 8, mbits := 7, bias := 127, maxSig := 2 ^ 8 - 1, maxExp := 127, hasInf := true, ieeeNaN := true }
def fmtE4m3 : Fmt := { ebits := 4, mbits := 3, bias := 7, maxSig := 14, maxExp := 8, hasInf := false, ieeeNaN := false }
def fmtE5m2 : Fmt := { ebits := 5, mbits := 2, bias := 15, maxSig := 7, maxExp := 15, hasInf := true, ieeeNaN := true }
def fmtE3m2 : Fmt := { ebits := 3, mbits := 2, bias := 3, maxSig := 7, maxExp := 4, hasInf := false, ieeeNaN := false }
def fmtE2m1 : Fmt := { ebits := 2, mbits := 1, bias := 1, maxSig := 3, maxExp := 2, hasInf := false, ieeeNaN := false }

/-- The width of a format. -/
def Fmt.width (f : Fmt) : Nat := 1 + f.ebits + f.mbits
/-- The least exponent of a normal number. -/
def Fmt.emin (f : Fmt) : Int := 1 - (f.bias : Int)
/-- Every code of e4m3 with all magnitude bits set is a NaN (R57). -/
def Fmt.e4nan (f : Fmt) : Bool := f.ebits == 4 && f.mbits == 3
/-- NaNOf for the formats of the IEEE layout, and what it reports besides R55 (R55). -/
def Fmt.nanOf (f : Fmt) : Flagged Nat :=
  if f.e4nan then (0x7F, 0)
  else if f.ieeeNaN then ((2 ^ f.ebits - 1) <<< f.mbits + 2 ^ (f.mbits - 1), 0)
  else (0, flNV)
/-- The code of an infinity. -/
def Fmt.infCode (f : Fmt) (neg : Bool) : Nat := (2 ^ f.ebits - 1) <<< f.mbits + (if neg then 2 ^ (f.width - 1) else 0)

/-- The value of a code (R51, R57). -/
def Fmt.decode (f : Fmt) (c : Nat) : Num :=
  let neg := bitOf c (f.width - 1)
  let ex := field c f.mbits f.ebits
  let fr := field c 0 f.mbits
  if f.e4nan && ex == 15 && fr == 7 then .nan false
  else if f.ieeeNaN && ex == 2 ^ f.ebits - 1 then
    if fr = 0 then .inf neg else .nan (!bitOf fr (f.mbits - 1))
  else if ex = 0 then .fin neg fr (f.emin - (f.mbits : Int))
  else .fin neg (fr + 2 ^ f.mbits) ((ex : Int) - (f.bias : Int) - (f.mbits : Int))

/-- The code of (-1)^neg * y * 2^(emin - mbits), for y within the format. -/
def Fmt.pack (f : Fmt) (neg : Bool) (y : Nat) : Nat :=
  let sg := if neg then 2 ^ (f.width - 1) else 0
  if y < 2 ^ f.mbits then sg + y
  else
    let l := Nat.log2 y
    sg + ((l - f.mbits + 1) <<< f.mbits) + ((y >>> (l - f.mbits)) - 2 ^ f.mbits)

/-- The largest finite magnitude in units of 2^(emin - mbits). -/
def Fmt.maxUnits (f : Fmt) : Nat := f.maxSig <<< (f.maxExp - f.emin).toNat

/-- RoundF (R53), as a code with its conditions.  A signalling NaN is reported where the operand is read. -/
def roundF (x : Num) (f : Fmt) (rd satp : Nat) : Flagged Nat :=
  match x with
  | .nan _ => f.nanOf
  | .inf neg => if f.hasInf then (f.infCode neg, 0) else (f.pack neg f.maxUnits, flSAT)
  | .fin neg m e =>
    if m = 0 then (f.pack neg 0, 0)
    else
      let top := e + (Nat.log2 m : Int)
      let unit := f.emin - (f.mbits : Int)
      let q := max top f.emin - (f.mbits : Int)
      let (r, exact) := roundAt neg m e q rd
      let y := r <<< (q - unit).toNat
      if f.maxUnits < y then
        if satp = 0 then (f.pack neg f.maxUnits, flSAT ||| flNX)
        else
          let toInf := rd == 0 || rd == 4 || (rd == 2 && !neg) || (rd == 3 && neg)
          (if toInf then f.infCode neg else f.pack neg f.maxUnits, flOF ||| flNX)
      else
        let (r2, _) := roundAt neg m e (top - (f.mbits : Int)) rd
        -- r2 * 2^(top - mbits) < 2^emin
        let tiny := decide (top - (f.mbits : Int) + (Nat.log2 r2 : Int) < f.emin)
        (f.pack neg y, if exact then 0 else flNX ||| (if tiny then flUF else 0))

/-- SatI (R50) into w bits, signed or not: the low w bits of the result. -/
def satI (x : Num) (w : Nat) (sg : Bool) (rd : Nat) : Flagged Nat :=
  let hi : Int := if sg then 2 ^ (w - 1) - 1 else 2 ^ w - 1
  let lo : Int := if sg then -(2 ^ (w - 1)) else 0
  match x with
  | .nan _ => (0, flNV)
  | .inf neg => (wrap w (if neg then lo else hi), flNV)
  | .fin neg m e =>
    let (r, exact) := roundAt neg m e 0 rd
    let y : Int := if neg then -(r : Int) else r
    if hi < y then (wrap w hi, flSAT)
    else if y < lo then (wrap w lo, flSAT)
    else (wrap w y, if exact then 0 else flNX)

/-- An integer as an exact value. -/
def numOfInt (x : Int) : Num := .fin (decide (x < 0)) x.natAbs 0

/-- Whether a value is a NaN, and whether it reports invalid where it is read (R55). -/
def Num.isNaN : Num → Bool
  | .nan _ => true | _ => false
def Num.isSNaN : Num → Bool
  | .nan s => s | _ => false
def Num.isZero : Num → Bool
  | .fin _ m _ => m == 0 | _ => false
def Num.neg? : Num → Bool
  | .nan _ => false | .inf n => n | .fin n _ _ => n
/-- Invalid for a signalling NaN among the operands. -/
def snanFlag (xs : List Num) : Nat := if xs.any Num.isSNaN then flNV else 0

/-- The value with its sign inverted. -/
def Num.negate : Num → Num
  | .nan s => .nan s | .inf n => .inf (!n) | .fin n m e => .fin (!n) m e

/-- The exact product; 0 × ∞ is invalid (R145). -/
def numMul (x y : Num) : Flagged Num :=
  match x, y with
  | .nan _, _ => (.nan false, 0)
  | _, .nan _ => (.nan false, 0)
  | .inf a, .inf b => (.inf (a != b), 0)
  | .inf a, .fin b m _ => if m = 0 then (.nan false, flNV) else (.inf (a != b), 0)
  | .fin a m _, .inf b => if m = 0 then (.nan false, flNV) else (.inf (a != b), 0)
  | .fin a m e, .fin b n d => (.fin (a != b) (m * n) (e + d), 0)

/-- The exact sum; an exact zero of opposite signs is -0 only toward −∞ (R53, R145). -/
def numAdd (x y : Num) (rd : Nat) : Flagged Num :=
  match x, y with
  | .nan _, _ => (.nan false, 0)
  | _, .nan _ => (.nan false, 0)
  | .inf a, .inf b => if a = b then (.inf a, 0) else (.nan false, flNV)
  | .inf a, .fin _ _ _ => (.inf a, 0)
  | .fin _ _ _, .inf b => (.inf b, 0)
  | .fin a m e, .fin b n d =>
    if m = 0 ∧ n = 0 then (.fin (if a = b then a else rd == 3) 0 0, 0)
    else if m = 0 then (.fin b n d, 0)
    else if n = 0 then (.fin a m e, 0)
    else
      let q := min e d
      let u : Int := (if a then -1 else 1) * ((m <<< (e - q).toNat : Nat) : Int)
      let v : Int := (if b then -1 else 1) * ((n <<< (d - q).toNat : Nat) : Int)
      let t := u + v
      if t = 0 then (.fin (rd == 3) 0 0, 0) else (.fin (decide (t < 0)) t.natAbs q, 0)

/-- The exact quotient (R145). -/
def numDiv (x y : Num) : Flagged Num :=
  match x, y with
  | .nan _, _ => (.nan false, 0)
  | _, .nan _ => (.nan false, 0)
  | .inf _, .inf _ => (.nan false, flNV)
  | .inf a, .fin b _ _ => (.inf (a != b), 0)
  | .fin a _ _, .inf b => (.fin (a != b) 0 0, 0)
  | .fin a m e, .fin b n d =>
    if n = 0 then (if m = 0 then (.nan false, flNV) else (.inf (a != b), flDZ))
    else if m = 0 then (.fin (a != b) 0 0, 0)
    else
      let k := 256 + Nat.log2 n
      let num := m <<< k
      let q := num / n
      if num % n = 0 then (.fin (a != b) q (e - d - (k : Int)), 0)
      else (.fin (a != b) (2 * q + 1) (e - d - (k : Int) - 1), 0)

/-- The integer square root, bit by bit from bit n - 1 down. -/
def isqrtFrom (x : Nat) : Nat → Nat → Nat
  | 0, r => r
  | n + 1, r => if (r + 2 ^ n) * (r + 2 ^ n) ≤ x then isqrtFrom x n (r + 2 ^ n) else isqrtFrom x n r
/-- The floor of the square root. -/
def isqrt (x : Nat) : Nat := isqrtFrom x (Nat.log2 x / 2 + 1) 0

/-- The exact square root (R145). -/
def numSqrt (x : Num) : Flagged Num :=
  match x with
  | .nan _ => (.nan false, 0)
  | .inf neg => if neg then (.nan false, flNV) else (.inf false, 0)
  | .fin neg m e =>
    if m = 0 then (.fin neg 0 0, 0)
    else if neg then (.nan false, flNV)
    else
      -- make the exponent even
      let (m2, e2) := if e % 2 = 0 then (m, e) else (2 * m, e - 1)
      let big := m2 <<< 256
      let r := isqrt big
      let ex := e2 / 2 - 128
      if r * r = big then (.fin false r ex, 0) else (.fin false (2 * r + 1) (ex - 1), 0)

/-! ## Special functions (R150 to R152) -/

/-- Fraction bits of the fixed-point work of this section. -/
def fxBits : Nat := 600
/-- The floor of π · 2^600. -/
def fxPi : Nat := 13036087627152999135228793149325883706411451860641517059512692589349356927284956232122985947124868324260373329126004229970251138265841936145774751301626362401504686637351871636910347
/-- The floor of ln 2 · 2^600. -/
def fxLn2 : Nat := 2876225017259457803941422075936356235510355236981739542476444676843237809403636166587937224051855780383968483986161182568312219414999934030440139693377154550791842205675450932055002

/-- Sum of x^k / k! in fixed point, from term k with value t. -/
def fxExpSum (x : Nat) : Nat → Nat → Nat → Nat → Nat
  | 0, _, _, acc => acc
  | fuel + 1, k, t, acc => if t = 0 then acc else fxExpSum x fuel (k + 1) ((t * x / (k + 1)) >>> fxBits) (acc + t)
/-- Sum of t^(2k+1) / (2k+1) in fixed point. -/
def fxAtanhSum (t2 : Nat) : Nat → Nat → Nat → Nat → Nat
  | 0, _, _, acc => acc
  | fuel + 1, k, p, acc => if p = 0 then acc else fxAtanhSum t2 fuel (k + 2) ((p * t2) >>> fxBits) (acc + p / k)
/-- Alternating sum of x^k / k! over k, k + 2, ... from term t, in fixed point. -/
def fxTrigSum (x2 : Nat) : Nat → Nat → Nat → Bool → Int → Int
  | 0, _, _, _, acc => acc
  | fuel + 1, k, t, neg, acc =>
    if t = 0 then acc
    else fxTrigSum x2 fuel (k + 2) ((t * x2 / ((k + 1) * (k + 2))) >>> fxBits) (!neg)
      (if neg then acc - (t : Int) else acc + (t : Int))

/-- An irrational value from its fixed-point approximation: 580 of its bits, then the mark of an inexact value. -/
def fxNum (neg : Bool) (y : Nat) : Num := .fin neg (2 * (y >>> 20) + 1) (-581)

/-- m * 2^e as a fixed-point number, floor. -/
def fxOf (m : Nat) (e : Int) : Nat :=
  let sh := e + (fxBits : Int)
  if 0 ≤ sh then m <<< sh.toNat else m >>> (-sh).toNat

/-- 2^x (R151, R152). -/
def numExp2 (x : Num) : Flagged Num :=
  match x with
  | .nan _ => (.nan false, 0)
  | .inf neg => if neg then (.fin false 0 0, 0) else (.inf false, 0)
  | .fin neg m e =>
    if m = 0 then (.fin false 1 0, 0)
    else if 12 ≤ e + (Nat.log2 m : Int) then (.fin false 3 (if neg then -4097 else 4096), 0)
    else
      -- |x| < 4096: x = n + f with 0 ≤ f < 1, exact in fixed point
      let xi : Int := (if neg then -1 else 1) * (fxOf m e : Int)
      let n := xi / (2 ^ fxBits : Int)
      let f := (xi % (2 ^ fxBits : Int)).toNat
      if f = 0 then (.fin false 1 n, 0)
      else
        let a := (f * fxLn2) >>> fxBits
        let y := fxExpSum a 400 0 (2 ^ fxBits) 0
        match fxNum false y with
        | .fin s m2 e2 => (.fin s m2 (e2 + n), 0)
        | o => (o, 0)

/-- log₂ x (R151, R152). -/
def numLog2 (x : Num) : Flagged Num :=
  match x with
  | .nan _ => (.nan false, 0)
  | .inf neg => if neg then (.nan false, flNV) else (.inf false, 0)
  | .fin neg m e =>
    if m = 0 then (.inf true, flDZ)
    else if neg then (.nan false, flNV)
    else
      let l := Nat.log2 m
      let ex := e + (l : Int)
      if m = 2 ^ l then (.fin (decide (ex < 0)) ex.natAbs 0, 0)
      else
        -- m / 2^l in (1, 2): t = (m - 2^l) / (m + 2^l)
        let t := ((m - 2 ^ l) <<< fxBits) / (m + 2 ^ l)
        let lnm := 2 * fxAtanhSum ((t * t) >>> fxBits) 400 1 t 0
        let y : Int := ex * (2 ^ fxBits : Int) + (((lnm <<< fxBits) / fxLn2 : Nat) : Int)
        (fxNum (decide (y < 0)) y.natAbs, 0)

/-- sin(π·a) and cos(π·a) for 0 < a < 1/2 in fixed point. -/
def fxSinPi (a : Nat) : Nat :=
  let x := (a * fxPi) >>> fxBits
  (fxTrigSum ((x * x) >>> fxBits) 400 1 x false 0).toNat
def fxCosPi (a : Nat) : Nat :=
  let x := (a * fxPi) >>> fxBits
  (fxTrigSum ((x * x) >>> fxBits) 400 0 (2 ^ fxBits) false 0).toNat

/-- |x| mod 2 in fixed point; zero for the even integers above the fixed-point range. -/
def fxMod2 (m : Nat) (e : Int) : Nat :=
  if 1 ≤ e then 0 else fxOf m e % 2 ^ (fxBits + 1)

/-- sin(π·x) (R151, R152). -/
def numSinPi (x : Num) : Flagged Num :=
  match x with
  | .nan _ => (.nan false, 0)
  | .inf _ => (.nan false, flNV)
  | .fin neg m e =>
    let one := 2 ^ fxBits
    let a := fxMod2 m e
    if m = 0 ∨ a % one = 0 then (.fin neg 0 0, 0)
    else
      let flip := decide (one < a)
      let b := if flip then a - one else a
      let c := if one / 2 < b then one - b else b
      let s := neg != flip
      if c = one / 2 then (.fin s 1 0, 0) else (fxNum s (fxSinPi c), 0)

/-- cos(π·x) (R151, R152). -/
def numCosPi (x : Num) : Flagged Num :=
  match x with
  | .nan _ => (.nan false, 0)
  | .inf _ => (.nan false, flNV)
  | .fin _ m e =>
    let one := 2 ^ fxBits
    let a := fxMod2 m e
    if m = 0 then (.fin false 1 0, 0)
    else if a % one = 0 then (.fin (a == one) 1 0, 0)
    else
      let b := if one < a then 2 * one - a else a
      let flip := decide (one / 2 < b)
      let c := if flip then one - b else b
      if c = one / 2 then (.fin false 0 0, 0) else (fxNum flip (fxCosPi c), 0)

/-- 1/√x (R151, R152). -/
def numRsqrt (x : Num) : Flagged Num :=
  match x with
  | .nan _ => (.nan false, 0)
  | .inf neg => if neg then (.nan false, flNV) else (.fin false 0 0, 0)
  | .fin neg m e =>
    if m = 0 then (.inf neg, flDZ)
    else if neg then (.nan false, flNV)
    else
      let (m2, e2) := if e % 2 = 0 then (m, e) else (2 * m, e - 1)
      let k := 256 + Nat.log2 m2
      let big := 2 ^ (2 * k) / m2
      let r := isqrt big
      let ex := -(e2 / 2) - (k : Int)
      if r * r * m2 = 2 ^ (2 * k) then (.fin false r ex, 0) else (.fin false (2 * r + 1) (ex - 1), 0)

/-! ## Ordering of values -/

/-- x < y as exact reals (infinities included); both are no NaN, zeros are equal. -/
def numLt (x y : Num) : Bool :=
  match x, y with
  | .inf a, .inf b => a && !b
  | .inf a, _ => a
  | _, .inf b => !b
  | .fin a m e, .fin b n d =>
    let q := min e d
    let u : Int := (if a then -1 else 1) * ((m <<< (e - q).toNat : Nat) : Int)
    let v : Int := (if b then -1 else 1) * ((n <<< (d - q).toNat : Nat) : Int)
    decide (u < v)
  | _, _ => false

/-- x below y with -0 below +0 (R56). -/
def numBelow (x y : Num) : Bool :=
  if x.isZero && y.isZero then x.neg? && !y.neg? else numLt x y

/-- ORD of an fp32 pattern (R77). -/
def ordKey (b : Nat) : Nat :=
  if (fmtFp32.decode b).isNaN then 0
  else if bitOf b 31 then 2 ^ 32 - 1 - b % 2 ^ 32 else b % 2 ^ 32 ||| 2 ^ 31
/-- The max-with-index key (R77). -/
def maxIdxKey (b i : Nat) : Nat := (ordKey b) <<< 32 + (2 ^ 32 - 1 - i % 2 ^ 32)

/-! ## Format slots (R63 to R65) -/

def slotFmt (s : Nat) : Nat := field s 0 4
def slotSmode (s : Nat) : Nat := field s 4 2
def slotBlk (s : Nat) : Nat := field s 6 2
def slotRnd (s : Nat) : Nat := field s 8 3
def slotSatp (s : Nat) : Nat := field s 11 2

/-- The element width of a format code (R63). -/
def fmtWidth (c : Nat) : Nat := [0, 32, 16, 16, 8, 8, 6, 4, 16, 8, 8, 4, 4, 8, 1, 0].getD c 0
/-- The integer formats i16, i8, n8, i4, n4. -/
def fmtIsInt (c : Nat) : Bool := 8 ≤ c && c ≤ 12
/-- i16, i8 and i4 are signed. -/
def fmtSigned (c : Nat) : Bool := c == 8 || c == 9 || c == 11
/-- The binary floating formats by code. -/
def fmtFloat (c : Nat) : Option Fmt :=
  if c = 1 then some fmtFp32 else if c = 2 then some fmtFp16 else if c = 3 then some fmtBf16
  else if c = 4 then some fmtE4m3 else if c = 5 then some fmtE5m2 else if c = 6 then some fmtE3m2
  else if c = 7 then some fmtE2m1 else none
/-- The block length of BLK (R64). -/
def blkLen (b : Nat) : Nat := if b = 0 then 32 else if b = 1 then 64 else 128
/-- R65. -/
def slotInvalid (s : Nat) : Bool :=
  let f := slotFmt s
  f == 0 || f == 15 || slotSmode s == 3 || (slotSmode s == 2 && (f == 1 || f == 2 || f == 3 || f == 8)) ||
  slotBlk s == 3 || (slotBlk s != 0 && slotSmode s != 2) || 5 ≤ slotRnd s || 2 ≤ slotSatp s ||
  (slotSatp s == 1 && !(f == 1 || f == 2 || f == 3 || f == 5)) || field s 13 19 != 0
/-- Whether the accumulator of a slot is i32 (R63). -/
def slotAccInt (s : Nat) : Bool := slotSmode s != 2 && (fmtIsInt (slotFmt s) || slotFmt s == 14)
/-- Elements of a format in one lane (R156). -/
def perLane (c : Nat) : Nat := if fmtWidth c = 6 then 4 else 32 / fmtWidth c

/-! ## d2p8 and bin1 (R59 to R61) -/

/-- The value of a d2p8 code in units of 2^-6. -/
def d2p8Value (c : Nat) : Int :=
  let term := fun (s : Bool) (e : Nat) => (if e = 7 then 0 else (if s then -1 else 1) * ((2 ^ (6 - e) : Nat) : Int) : Int)
  term (bitOf c 7) (field c 4 3) + term (bitOf c 3) (field c 0 3)

/-- The canonical codes in the order R60 prefers them: zero, one term, two terms by E1. -/
def d2p8Codes : List Nat :=
  [0x77] ++ ((List.range 2).flatMap fun s => (List.range 7).map fun e => s * 128 + e * 16 + 7) ++
  ((List.range 7).flatMap fun e1 => (List.range 2).flatMap fun s1 => (List.range 2).flatMap fun s2 =>
    (List.range 7).map fun e2 => s1 * 128 + e1 * 16 + s2 * 8 + e2)

/-- The canonical code of a member, in units of 2^-6. -/
def d2p8Code (v : Int) : Nat := (d2p8Codes.find? fun c => d2p8Value c == v).getD 0x77

/-- Conversion into d2p8 (R60). -/
def toD2p8 (x : Num) (rd : Nat) : Flagged Nat :=
  match x with
  | .nan _ => (0x77, flNV)
  | .inf neg => (if neg then 0x88 else 0x00, flSAT)
  | .fin neg m e =>
    if m = 0 then (0x77, 0)
    else
      let k : Int := max 6 (-e)
      let v : Int := (if neg then -1 else 1) * ((m <<< (e + k).toNat : Nat) : Int)
      let unit : Int := (2 ^ (k - 6).toNat : Nat)
      if 128 * unit < v then (0x00, flSAT ||| flNX)
      else if v < -128 * unit then (0x88, flSAT ||| flNX)
      else
        let members : List Int := (List.range 257).filterMap fun (i : Nat) =>
          let u : Int := (i : Int) - 128
          if d2p8Codes.any fun c => d2p8Value c == u then some u else none
        let lo := (members.filter fun u => decide (u * unit ≤ v)).foldl max (-128)
        let hi := (members.filter fun u => decide (v ≤ u * unit)).foldl min 128
        if lo = hi then (d2p8Code lo, 0)
        else
          let dl := v - lo * unit
          let dh := hi * unit - v
          let small := if lo.natAbs < hi.natAbs then lo else hi
          let large := if lo.natAbs < hi.natAbs then hi else lo
          let r := if rd = 1 then small else if rd = 2 then hi else if rd = 3 then lo
            else if dl < dh then lo else if dh < dl then hi
            else if rd = 4 then large else small
          (d2p8Code r, flNX)

/-- Conversion into bin1 (R61). -/
def toBin1 (x : Num) : Flagged Nat :=
  match x with
  | .nan _ => (0, flNV)
  | .inf neg => (b2n neg, 0)
  | .fin neg m _ => (b2n (neg && m != 0), 0)

/-- The exact value of a code of a matrix format (R58, R59, R61, R63). -/
def decodeCode (c code : Nat) : Num :=
  match fmtFloat c with
  | some f => f.decode code
  | none =>
    if fmtIsInt c then numOfInt (if fmtSigned c then sgn (fmtWidth c) code else (code % 2 ^ fmtWidth c : Nat))
    else if c = 13 then
      let v := d2p8Value code
      .fin (decide (v < 0)) v.natAbs (-6)
    else .fin (code % 2 == 1) 1 0

/-- Conversion of an exact value into the format of a slot under its RND and SATP (R58, R60, R61, R75). -/
def encodeSlot (s : Nat) (x : Num) : Flagged Nat :=
  let c := slotFmt s
  match fmtFloat c with
  | some f => roundF x f (slotRnd s) (slotSatp s)
  | none =>
    if fmtIsInt c then satI x (fmtWidth c) (fmtSigned c) (slotRnd s)
    else if c = 13 then toD2p8 x (slotRnd s)
    else toBin1 x

/-! ## Scales (R67, R68) -/

/-- The value of a ue4m4 byte; 0xFF is reserved. -/
def ue4m4 (b : Nat) : Num :=
  let e := field b 4 4
  let f := field b 0 4
  if e = 0 then .fin false f (-10) else .fin false (16 + f) ((e : Int) - 11)

/-- The conditions of a result and those of its operands. -/
def withFlags (r : Flagged Nat) (fl : Nat) : Flagged Nat := (r.1, r.2 ||| fl)

/-- `vcvtf.to` of an fp32 pattern under a slot, with the scale word b (R157). -/
def convTo (s x b : Nat) : Flagged Nat :=
  let xv := fmtFp32.decode x
  let c := slotFmt s
  if c = 14 then toBin1 xv
  else if slotSmode s = 0 then withFlags (encodeSlot s xv) (snanFlag [xv])
  else if slotSmode s = 1 then
    let sv := fmtFp32.decode b
    let (v, fl) := numDiv xv sv
    withFlags (encodeSlot s v) (fl ||| snanFlag [xv, sv])
  else if field b 0 8 = 0xFF then withFlags (encodeSlot s (.nan false)) flNV
  else
    let (v, fl) := numDiv xv (ue4m4 (field b 0 8))
    let v2 := if fmtIsInt c then (numAdd v (numOfInt (sgn 8 (field b 8 8))) 0).1 else v
    withFlags (encodeSlot s v2) (fl ||| snanFlag [xv])

/-- `vcvtf.from` of a code of a slot's format, with the scale word b: an fp32 pattern (R158). -/
def convFrom (s code b : Nat) : Flagged Nat :=
  let c := slotFmt s
  let v := decodeCode c code
  let rnd := slotRnd s
  let satp := slotSatp s
  if slotSmode s = 0 then withFlags (roundF v fmtFp32 rnd satp) (snanFlag [v])
  else if slotSmode s = 1 then
    let sv := fmtFp32.decode b
    let (p, fl) := numMul sv v
    withFlags (roundF p fmtFp32 rnd satp) (fl ||| snanFlag [v, sv])
  else if field b 0 8 = 0xFF then (0x7FC00000, flNV)
  else
    let q := if fmtIsInt c then (numAdd v (numOfInt (-(sgn 8 (field b 8 8)))) 0).1 else v
    let (p, fl) := numMul (ue4m4 (field b 0 8)) q
    withFlags (roundF p fmtFp32 rnd satp) (fl ||| snanFlag [v])

/-! ## fp32 words -/

/-- An fp32 multiply-add with one rounding to nearest even (R71, R73). -/
def fp32Fma (a b c : Num) : Nat :=
  let (p, _) := numMul a b
  (roundF (numAdd p c 0).1 fmtFp32 0 1).1
/-- An fp32 add rounded to nearest even (R76). -/
def fp32Add (a b : Nat) : Nat := (roundF (numAdd (fmtFp32.decode a) (fmtFp32.decode b) 0).1 fmtFp32 0 1).1

/-! ## Atomic operations (R202) -/

/-- The new value of an atomic on an element of n bytes, and whether it writes. -/
def atomNew (k : AtomKind) (sg : Bool) (n old x c : Nat) : Nat × Bool :=
  let w := 8 * n
  let o := old % 2 ^ w
  let b := x % 2 ^ w
  let lt := fun (p q : Nat) => if sg then decide (sgn w p < sgn w q) else decide (p < q)
  match k with
  | .add => ((o + b) % 2 ^ w, true)
  | .min => (if lt b o then b else o, true)
  | .max => (if lt o b then b else o, true)
  | .and => (o &&& b, true)
  | .or => (o ||| b, true)
  | .xor => (o ^^^ b, true)
  | .xchg => (b, true)
  | .cas => if o = c % 2 ^ w then (b, true) else (o, false)
  | .fadd => (fp32Add o b, true)
  | .maxidx => (max o b, true)

end Sys2Proof.Machine
end

