-- ==== Sys2Proof/Machine/Memory.lean ====
section
/-!
DEFINITION. Memory: the coherent image of physical memory as a canonical cell list, the lines that caches hold dirty,
poison, tokens and L1 copies (11 R322, R324, R335; 18 R442).
-/

namespace Sys2Proof.Machine

/-- The byte at an address; an unlisted byte reads 0 (log entry 1). -/
def Memory.get : List Host.Cell → Nat → Byte
  | [], _ => 0
  | (k, b) :: t, a => if a = k then b else Memory.get t a

/-- Writes one byte, keeping the canonical form. -/
def Memory.set : List Host.Cell → Nat → Byte → List Host.Cell
  | [], a, b => if b = 0 then [] else [(a, b)]
  | (k, c) :: t, a, b =>
    if a < k then (if b = 0 then (k, c) :: t else (a, b) :: (k, c) :: t)
    else if a = k then (if b = 0 then t else (a, b) :: t)
    else (k, c) :: Memory.set t a b

/-- The canonical form: addresses strictly rising, no zero byte listed. -/
def Memory.wf : List Host.Cell → Bool
  | [] => true
  | (k, b) :: t => b != 0 && (match t with | [] => true | (k', _) :: _ => decide (k < k')) && Memory.wf t

/-- n bytes from an address. -/
def Memory.read (m : List Host.Cell) (a n : Nat) : List Byte := (List.range n).map fun i => Memory.get m (a + i)

/-- Writes bytes from an address upward. -/
def Memory.write : List Host.Cell → Nat → List Byte → List Host.Cell
  | m, _, [] => m
  | m, a, b :: bs => Memory.write (Memory.set m a b) (a + 1) bs

/-- The same in one pass over the cells; this is what compiled code runs. -/
def Memory.merge : List Host.Cell → Nat → List Byte → List Host.Cell
  | m, _, [] => m
  | [], a, b :: bs => if b = 0 then Memory.merge [] (a + 1) bs else (a, b) :: Memory.merge [] (a + 1) bs
  | (k, c) :: t, a, b :: bs =>
    if a < k then (if b = 0 then Memory.merge ((k, c) :: t) (a + 1) bs else (a, b) :: Memory.merge ((k, c) :: t) (a + 1) bs)
    else if a = k then (if b = 0 then Memory.merge t (a + 1) bs else (a, b) :: Memory.merge t (a + 1) bs)
    else (k, c) :: Memory.merge t a (b :: bs)
termination_by m _ bs => m.length + bs.length

/-- A cell below the bytes written stays as it is. -/
theorem Memory.write_cons_below {k : Nat} {c : Byte} {t : List Host.Cell} {a : Nat} (h : k < a) (bs : List Byte) :
    Memory.write ((k, c) :: t) a bs = (k, c) :: Memory.write t a bs := by
  induction bs generalizing t a with
  | nil => rfl
  | cons b bs ih =>
    simp only [Memory.write, Memory.set, if_neg (show ¬a < k by omega), if_neg (show ¬a = k by omega)]
    exact ih (by omega)

@[csimp] theorem Memory.write_eq_merge : @Memory.write = @Memory.merge := by
  funext m a bs
  induction m, a, bs using Memory.merge.induct with
  | case8 k c t a b bs h h' ih =>
    rw [Memory.write_cons_below (by omega), Memory.merge, if_neg h, if_neg h', ih]
  | _ => simp_all [Memory.write, Memory.set, Memory.merge, Memory.write_cons_below (Nat.lt_add_one _)]

/-- The 64 bytes of a line as a record. -/
def Memory.line (m : List Host.Cell) (ln : Nat) : Line := BitVec.ofNat 512 (ofBytes (Memory.read m (64 * ln) 64))
/-- Replaces a whole line. -/
def Memory.putLine (m : List Host.Cell) (ln : Nat) (d : Line) : List Host.Cell :=
  Memory.write m (64 * ln) (recBytes d)

/-- The lines that n bytes from a touch. -/
def linesOf (a n : Nat) : List Nat :=
  if n = 0 then [] else (List.range ((a + n - 1) / 64 - a / 64 + 1)).map (· + a / 64)

/-- A holder that takes part in coherence (R340); the Timetable holds tokens of header lines (R359, R383). -/
def State.joinedIn (s : State) : Holder → Bool
  | .cluster n => match s.clusters[n]? with | some c => c.joined | none => false
  | .pair p => !s.left.contains (.pair p)
  | .timetable => true

/-- The bytes a plain coherent read returns to a holder: the newest value (R322), or the copy that a discard by
another holder left it (R196). -/
def State.readPA (s : State) (h : Option Holder) (pa n : Nat) : List Byte :=
  match h with
  | none => Memory.read s.mem pa n
  | some hh =>
    if s.copies.isEmpty then Memory.read s.mem pa n
    else (List.range n).map fun i =>
      match s.copies.find? fun c => c.1 == (pa + i) / 64 && c.2.1 == hh with
      | some (_, _, d) => d.extractLsb' (8 * ((pa + i) % 64)) 8
      | none => Memory.get s.mem (pa + i)

/-- True when some line of the span is poisoned (R442). -/
def State.poisoned (s : State) (pa n : Nat) : Bool := (linesOf pa n).any fun l => s.poison.contains l

/-- Writes bytes without moving tokens. -/
def State.writeRaw (s : State) (pa : Nat) (bs : List Byte) : State := { s with mem := Memory.write s.mem pa bs }

/-- The bytes of a line record after bytes from pa upward are put into it. -/
def patchLine (ln : Nat) (d : Line) (pa : Nat) (bs : List Byte) : Line :=
  BitVec.ofNat 512 (ofBytes ((List.range 64).map fun i =>
    let a := 64 * ln + i
    if pa ≤ a && a < pa + bs.length then bs.getD (a - pa) 0
    else BitVec.ofNat 8 (d.extractLsb' (8 * i) 8).toNat))

/-- Writes bytes under a write grant: the home merges them by byte mask, also into the data that it holds of a line that
another holder has dirty in its ungranted bytes (R217, R338). -/
def State.writeGranted (s : State) (pa : Nat) (bs : List Byte) : State :=
  let ls := linesOf pa bs.length
  { s with mem := Memory.write s.mem pa bs
           dirty := s.dirty.map fun d => if ls.contains d.line then { d with home := patchLine d.line d.home pa bs } else d
           copies := s.copies.map fun c => if ls.contains c.1 then (c.1, c.2.1, patchLine c.1 c.2.2 pa bs) else c }

/-- The store of a core updates its own L1 copies (R324). -/
def State.updateL1 (s : State) (core pa : Nat) (bs : List Byte) : State :=
  if s.l1.isEmpty then s
  else { s with l1 := s.l1.map fun e =>
    if e.core == core && (linesOf pa bs.length).contains e.line then
      { e with data := patchLine e.line e.data pa bs }
    else e }

/-- A core's L1 drops every line (R324). -/
def State.invalidateL1 (s : State) (core : Nat) : State := { s with l1 := s.l1.filter fun e => e.core != core }

/-- What a plain load of a core reads: its L1 copy of the line where it holds one, else the coherent value (R324). -/
def State.readL1 (s : State) (core : Nat) (h : Option Holder) (pa n : Nat) : List Byte :=
  if s.l1.isEmpty then s.readPA h pa n
  else (List.range n).map fun i =>
    match s.l1.find? fun e => e.core == core && e.line == (pa + i) / 64 with
    | some e => BitVec.ofNat 8 (e.data.extractLsb' (8 * ((pa + i) % 64)) 8).toNat
    | none => (s.readPA h (pa + i) 1).headD 0

/-- Clears poison of the lines that a write covers whole (R341, R442). -/
def State.unpoison (s : State) (pa n : Nat) : State :=
  if s.poison.isEmpty then s
  else { s with poison := s.poison.filter fun l => !(decide (pa ≤ 64 * l) && decide (64 * l + 64 ≤ pa + n)) }

/-! ## Named updates -/

def State.setWave (s : State) (w : Nat) (f : Wave → Wave) : State := { s with waves := s.waves.modify w f }
def State.setCluster (s : State) (c : Nat) (f : Cluster → Cluster) : State := { s with clusters := s.clusters.modify c f }
def State.setLaunch (s : State) (l : Nat) (f : Launch → Launch) : State := { s with launches := s.launches.modify l f }
def State.setPart (s : State) (p : Nat) (f : Part → Part) : State := { s with parts := s.parts.modify p f }
def State.setCmd (s : State) (k : Nat) (f : Cmd → Cmd) : State := { s with cmds := s.cmds.modify k f }
def State.setQ (s : State) (q : Nat) (f : QEntry → QEntry) : State := { s with qtab := s.qtab.modify q f }
def State.setJob (s : State) (j : Nat) (f : Job → Job) : State :=
  { s with jobs := s.jobs.map fun e => if e.1 == j then (e.1, f e.2) else e }
def State.setInst (s : State) (j : Nat) (f : Instance → Instance) : State :=
  { s with insts := s.insts.map fun e => if e.job == j then f e else e }
def State.setGang (s : State) (l g : Nat) (f : Gang → Gang) : State :=
  s.setLaunch l fun x => { x with gangs := x.gangs.modify g f }
/-- The fragment in a slot of a wave. -/
def Wave.frag (wv : Wave) (slot : Nat) : Option Frag := if slot = 0 then wv.frag0 else wv.frag1
def Wave.setFrag (wv : Wave) (slot : Nat) (f : Option Frag) : Wave :=
  if slot = 0 then { wv with frag0 := f } else { wv with frag1 := f }
def State.modFrag (s : State) (w slot : Nat) (f : Frag → Frag) : State :=
  s.setWave w fun wv => wv.setFrag slot ((wv.frag slot).map f)

/-- Device time as a 64-bit count (R394). -/
def State.now (s : State) : Nat := s.clock.time
def State.job? (s : State) (j : Nat) : Option Job := s.jobs.lookup j
def State.inst? (s : State) (j : Nat) : Option Instance := s.insts.find? fun e => e.job == j

/-- The next free value and the state with the counter advanced (log entry 11). -/
def State.takeFree (s : State) : Word64 × State :=
  (Config.freeValue s.freeCtr, { s with freeCtr := s.freeCtr + 1 })

end Sys2Proof.Machine
end

