-- ==== Sys2Proof/Machine/Home.lean ====
section
/-!
DEFINITION. The home of a line: tokens and their holders (11 R335 to R337, R340; 10 R297), the slices of the system cache
(15 R392), and what the memory controllers count of write-backs (15 R399, R400).
-/

namespace Sys2Proof.Machine

/-! ## Budgets -/

/-- The card that governs an instance's job: the one its instance was released with (R362), else the loaded one. -/
def State.cardOf (s : State) (j : Nat) : BitVec 1024 :=
  match s.inst? j with
  | some i => i.card
  | none => match s.job? j with | some x => x.card | none => 0

/-- BUDGET and WINDOW of a job or class (R361, R403). -/
def State.budgetOf (s : State) (c : Charge) : Nat × Nat :=
  let cls := fun (i : Nat) => match s.classes[i]? with | some b => (b.budget.toNat, b.window.toNat) | none => (0, 10000)
  match c with
  | .job j => (field (s.cardOf j).toNat 256 64, max 1 (field (s.cardOf j).toNat 320 32))
  | .app => cls 0
  | .host => cls 1
  | .sensor => cls 2
  | .persist => cls 3

/-- The window of a party that holds a time (R400). -/
def windowStart (window t : Nat) : Nat := t - t % window

/-- A regulator's count of a party, zero where it has none yet. -/
def State.regCount (s : State) (g : Nat) (c : Charge) : RegCount :=
  (s.regs.find? fun r => r.g == g && decide (r.c = c)).getD
    { g := g, c := c, window := 0, count := 0, held := [], slice := [] }

def State.setRegCount (s : State) (r : RegCount) : State :=
  { s with regs := r :: s.regs.filter fun x => !(x.g == r.g && decide (x.c = r.c)) }

/-- The memory controller of a line; how lines spread over the 24 controllers is not stated (log entry 39). -/
def regulatorOf (ln : Nat) : Nat := Config.regulatorOf ln % 24

/-- A line written to LPDDR-6 is counted and never held (R400); for a job that is no longer loaded it counts for nothing
(R399).  A count of an earlier window starts again; one with held requests was rolled when TIME reached the window. -/
def State.tallyWrite (s : State) (ln : Nat) (c : Option Charge) : State :=
  match c with
  | none => s
  | some x =>
    let loaded := match x with | .job j => (match s.job? j with | some y => y.loaded | none => false) | _ => true
    if !loaded then s
    else
      let r := s.regCount (regulatorOf ln) x
      let ws := windowStart (s.budgetOf x).2 s.now
      s.setRegCount { r with window := ws, count := if r.window = ws then r.count + 64 else 64 }

/-- The reads of a party that has gone are waited for no longer. -/
def State.dropReads (s : State) (gone : Reader → Bool) : State :=
  if s.granted.isEmpty && s.regs.isEmpty then s
  else
    { s with granted := s.granted.filter fun q => !gone q.who
             regs := s.regs.map fun r => { r with held := r.held.filter fun q => !gone q.who,
                                                  slice := r.slice.filter fun q => !gone q.who } }

/-- The access that a party's admitted reads were for has been made. -/
def State.dropGranted (s : State) (who : Reader) : State := { s with granted := s.granted.filter fun q => q.who != who }

/-! ## The system cache -/

/-- The home slice of a line (R335). -/
def homeSlice (ln : Nat) : Nat := field ln 0 4 ^^^ field ln 4 4 ^^^ field ln 8 4 ^^^ field ln 12 4

/-- Two lines lie in one set of one slice: 8,192 sets of 24 ways make 12 MiB; which address bits select the set is not
stated (log entry 51). -/
def sameSysSet (a b : Nat) : Bool := homeSlice a == homeSlice b && a / 16 % 8192 == b / 16 % 8192

/-- The system cache holds the line. -/
def State.inSys (s : State) (ln : Nat) : Bool := s.sys.any fun e => e.line == ln

/-- The ways that a partition's requests may allocate into: its mask, or when that is zero the ways of no enabled
partition (R392). -/
def State.allocWays (s : State) (p : Nat) : BitVec 24 :=
  match s.parts[p]? with
  | none => 0
  | some pt =>
    if pt.ways != 0 then pt.ways
    else s.parts.foldl (fun m x => if x.en then m &&& ~~~x.ways else m) (BitVec.allOnes 24)

/-- Puts a line into a way of its set; a dirty line that it replaces is written to memory (R392, R399). -/
def State.sysPut (s : State) (ln way part : Nat) : State :=
  let gone := fun (e : SysLine) => sameSysSet e.line ln && e.way == way
  let s1 := (s.sys.filter fun e => gone e && e.dirty).foldl (fun st e => st.tallyWrite e.line e.charge) s
  { s1 with sys := { line := ln, way := way, part := part, dirty := false, charge := none } :: s1.sys.filter fun e => !gone e }

/-- A request that misses allocates its line into a way of its partition, a free one first; which line it replaces is not
stated (R392; log entries 11, 51).  A request without a PARTID allocates nothing. -/
def State.sysAlloc (s : State) (p : Option Nat) (ln : Nat) : State :=
  match p with
  | none => s
  | some q =>
    if s.inSys ln then s
    else
      let m := s.allocWays q
      let ws := (List.range 24).filter fun w => m.getLsbD w
      let used := s.sys.filter fun e => sameSysSet e.line ln
      if ws.isEmpty then s
      else
        match ws.find? fun w => !used.any fun e => e.way == w with
        | some w => s.sysPut ln w q
        | none => s.sysPut ln (ws.getD ((Config.freeValue (s.freeCtr * 2 ^ 64 + 2 ^ 62 + ln)).toNat % ws.length) 0) q

/-- Dirty data comes home: into the line of the system cache, or to memory, where it is counted (R392, R399). -/
def State.writeBack (s : State) (ln : Nat) (c : Option Charge) : State :=
  if s.inSys ln then
    { s with sys := s.sys.map fun e => if e.line == ln then { e with dirty := true, charge := c } else e }
  else s.tallyWrite ln c

/-- A write at the home by a request of a partition: into the system cache, which allocates unless the memory is uncached,
or to memory (R392, R399, R410). -/
def State.homeWrite (s : State) (p : Option Nat) (uncached : Bool) (c : Option Charge) (ln : Nat) : State :=
  (if uncached then s else s.sysAlloc p ln).writeBack ln c

/-! ## Range grants (R215, R216, R338) -/

/-- Byte a is an element byte of a grant (R215). -/
def Grant.covers (g : Grant) (a : Nat) : Bool :=
  if a < g.base then false
  else if g.stride = 0 then decide (a < g.base + g.width)
  else decide ((a - g.base) / g.stride < g.count) && decide ((a - g.base) % g.stride < g.width)

/-- The tokens of a granted byte that a grant holds: all 128 for a write grant, one for a read grant (R338). -/
def Grant.tokens (g : Grant) : Nat := if g.write then 128 else 1

/-- The tokens of a byte that the home holds beside the grants of other clusters than `cl` (R338). -/
def State.homeGrantTokens (s : State) (p : Nat) (cl : Option Nat) (a : Nat) : Nat :=
  128 - ((s.grants.filter fun g => g.part == p && some g.cl != cl && g.covers a).map Grant.tokens).foldl (· + ·) 0

/-- R338: another cluster's grant covers a byte of the access in a way that makes it wait: a write needs every token of
the byte, a read one. -/
def State.grantHolds (s : State) (p : Nat) (cl : Option Nat) (writes : Bool) (va n : Nat) : Bool :=
  !s.grants.isEmpty && (List.range n).any fun b =>
    if writes then s.homeGrantTokens p cl (va + b) != 128 else s.homeGrantTokens p cl (va + b) == 0

/-- The access lies wholly under grants of its own cluster that allow it (R216, R338). -/
def State.underGrant (s : State) (p cl : Nat) (writes : Bool) (va n : Nat) : Bool :=
  !s.grants.isEmpty && (List.range n).all fun b =>
    s.grants.any fun g => g.part == p && g.cl == cl && (g.write || !writes) && g.covers (va + b)

/-! ## Tokens -/

/-- The agent number of a holder (R398). -/
def agentOf : Holder → Nat
  | .cluster n => n
  | .pair p => 64 + p
  | .timetable => 102
/-- The generation of a line. -/
def State.gen (s : State) (line : Nat) : BitVec 16 := (s.gens.lookup line).getD 0
/-- The persistent request that the home of a line has active (R337). -/
def State.activeReq (s : State) (line : Nat) : Option TokReq := s.tokReqs.find? fun r => r.line == line && r.stage == 3
/-- The entry of a holder for a line. -/
def State.tokenHold (s : State) (h : Holder) (line : Nat) : Option TokenHold :=
  s.tokens.find? fun t => t.line == line && decide (t.holder = h)
/-- The tokens of a line at a holder. -/
def State.tokensAt (s : State) (h : Holder) (line : Nat) : Nat := match s.tokenHold h line with | some t => t.n | none => 0
/-- A holder has the owner token of a line. -/
def State.ownsAt (s : State) (h : Holder) (line : Nat) : Bool := match s.tokenHold h line with | some t => t.owner | none => false
/-- Tokens of a line in flight, of the current generation. -/
def State.tokensInFlight (s : State) (line : Nat) : Nat :=
  (s.tokMsgs.map fun m => match m with
    | .response l _ n _ g => if l = line ∧ g = s.gen line then n else 0 | .forward .. => 0).foldl (· + ·) 0
/-- The owner token of a line is in flight. -/
def State.ownerInFlight (s : State) (line : Nat) : Bool :=
  s.tokMsgs.any fun m => match m with | .response l _ _ o g => l == line && o && g == s.gen line | .forward .. => false
/-- Tokens of a line at the home: 128 less what the holders and the messages in flight carry (R335). -/
def State.homeTokens (s : State) (line : Nat) : Nat :=
  128 - ((s.tokens.filter fun t => t.line == line).map (·.n)).foldl (· + ·) 0 - s.tokensInFlight line
/-- The holder with the owner token of a line. -/
def State.ownerOf (s : State) (line : Nat) : Option TokenHold := s.tokens.find? fun t => t.line == line && t.owner
/-- The home has the owner token: no holder has it and no message of the current generation carries it. -/
def State.homeOwns (s : State) (line : Nat) : Bool := (s.ownerOf line).isNone && !s.ownerInFlight line
/-- The holders that take part in coherence. -/
def State.joinedHolders (s : State) : List Holder :=
  ((List.range 64).map Holder.cluster ++ (List.range 8).map Holder.pair ++ [Holder.timetable]).filter s.joinedIn

/-- What a place with n tokens, one of them the owner token or not, sends in answer to a request: tokens and whether the
owner token is among them (R336). -/
def tokenAnswer (n : Nat) (owner wr : Bool) : Nat × Bool :=
  if wr then (n, owner)
  else if owner then (if 1 < n then (1, false) else (n, true)) else (0, false)

/-- The ways of a cluster's cache: its CACHE banks (R297). -/
def State.cacheWays (s : State) (n : Nat) : List Nat :=
  match s.clusters[n]? with
  | some c => (List.range c.modes.length).filter fun b => c.modes.getD b .scratch == .cache
  | none => []

/-- Where a line goes in a holder's cache, and the line that it replaces, if any: a way of its set of 4,096 in a cluster
(R297); the 2 MiB of a pair's L2 hold 32,768 lines (R13).  Which line is replaced is not stated (log entry 51). -/
def State.roomFor (s : State) (h : Holder) (ln : Nat) : Nat × Option Nat :=
  let pick := (Config.freeValue (s.freeCtr * 2 ^ 64 + 2 ^ 61 + ln)).toNat
  match s.tokenHold h ln with
  | some t => (t.way, none)
  | none =>
    match h with
    | .cluster n =>
      let set := s.tokens.filter fun t => t.line % 4096 == ln % 4096 && decide (t.holder = h)
      match (s.cacheWays n).find? fun b => !set.any fun t => t.way == b with
      | some b => (b, none)
      | none => match set[pick % set.length]? with | some t => (t.way, some t.line) | none => (0, none)
    | .pair _ =>
      let mine := s.tokens.filter fun t => decide (t.holder = h)
      if mine.length < 32768 then (0, none)
      else match mine[pick % mine.length]? with | some t => (0, some t.line) | none => (0, none)
    | .timetable => (0, none)

/-- Sets the tokens of a holder in a way; none is no entry. -/
def State.setTokens (s : State) (h : Holder) (line n : Nat) (owner : Bool) (way : Nat) : State :=
  let rest := s.tokens.filter fun t => !(t.line == line && decide (t.holder = h))
  { s with tokens := if n = 0 then rest else { line := line, holder := h, n := n, owner := owner, way := way } :: rest }

/-- Sends tokens of a holder, or of the home, to a requester; dirty data travels with the owner token. -/
def State.sendTokens (s : State) (src : Option Holder) (line : Nat) (dst : Holder) (n : Nat) (owner : Bool) : State :=
  if n = 0 then s
  else
    let s1 := match src with
      | some h => s.setTokens h line (s.tokensAt h line - n) (s.ownsAt h line && !owner)
          (match s.tokenHold h line with | some t => t.way | none => 0)
      | none => s
    let moved := fun (d : DirtyLine) =>
      if d.line == line && owner && decide (some d.holder = src) then { d with holder := dst } else d
    { s1 with dirty := s1.dirty.map moved
              tokMsgs := s1.tokMsgs ++ [.response line (some dst) n owner (s.gen line)] }

/-- Tokens that reach the home while a persistent request is active go on to its requester (R337, R340). -/
def State.homecoming (s : State) (line : Nat) : State :=
  match s.activeReq line with
  | some r => s.sendTokens none line r.holder (s.homeTokens line) (s.homeOwns line)
  | none => s

/-- A holder gives up its tokens of a line and what it caches of it; dirty data comes home (R335). -/
def State.evictLine (s : State) (h : Holder) (ln : Nat) : State :=
  let s1 : State := { s with dirty := s.dirty.filter fun d => !(d.line == ln && decide (d.holder = h)),
                             tokens := s.tokens.filter fun t => !(t.line == ln && decide (t.holder = h)),
                             copies := s.copies.filter fun c => !(c.1 == ln && decide (c.2.1 = h)) }
  (match s.dirty.find? fun (d : DirtyLine) => d.line == ln && decide (d.holder = h) with
   | some d => s1.writeBack ln d.charge
   | none => s1).homecoming ln

/-- The tokens of a holder after a line has found its place in its cache (R297, R335). -/
def State.putTokens (s : State) (h : Holder) (line n : Nat) (owner : Bool) : State :=
  if n = 0 then s.setTokens h line 0 false 0
  else
    let r := s.roomFor h line
    (match r.2 with | some v => s.evictLine h v | none => s).setTokens h line n owner r.1

/-- The cluster gives up a line: dirty bytes take the value that the home holds, its tokens return, the core's L1 copy
goes; what another holder has of the line stays as it was (R196, R335). -/
def State.discardLine (s : State) (cl core ln : Nat) : State :=
  let s1 := match s.dirty.find? fun d => d.line == ln && decide (d.holder = Holder.cluster cl) with
    | none => s
    | some d =>
      let others := s.tokens.filter fun (t : TokenHold) => t.line == ln && !decide (t.holder = Holder.cluster cl) && decide (0 < t.n)
      let now := Memory.line s.mem ln
      { s with mem := Memory.putLine s.mem ln d.home,
               dirty := s.dirty.filter fun x => x.line != ln,
               copies := s.copies ++ others.map fun (t : TokenHold) => (ln, t.holder, now) }
  let s2 := s1.evictLine (.cluster cl) ln
  { s2 with l1 := s2.l1.filter fun e => !(e.core == core && e.line == ln) }

/-- The lines of which a holder has tokens or dirty data. -/
def State.heldLines (s : State) (h : Holder) : List Nat :=
  ((s.tokens.filter fun t => decide (t.holder = h)).map (·.line) ++
    (s.dirty.filter fun d => decide (d.holder = h)).map (·.line)).eraseDups

/-- The cache of a holder cleans and invalidates every line (R340). -/
def State.evictAll (s : State) (h : Holder) : State :=
  let s1 := (s.heldLines h).foldl (fun st ln => st.evictLine h ln) s
  { s1 with copies := s1.copies.filter fun c => !decide (c.2.1 = h) }

/-- Cluster n leaves coherence: it cleans, returns its tokens and sends leave messages (R340). -/
def State.clusterLeave (s : State) (n : Nat) : State :=
  let s1 := s.evictAll (.cluster n)
  { s1 with clusters := s1.clusters.modify n fun c => { c with joined := false } }

/-- Cluster n joins with no tokens (R340). -/
def State.clusterJoin (s : State) (n : Nat) : State :=
  { s with clusters := s.clusters.modify n fun c => { c with joined := true } }

/-- A bank that leaves CACHE is cleaned and invalidated: the lines of its way go home (R139, R297). -/
def State.evictWay (s : State) (n b : Nat) : State :=
  ((s.tokens.filter fun t => decide (t.holder = .cluster n) && t.way == b).map (·.line)).foldl
    (fun st ln => st.evictLine (.cluster n) ln) s

/-- A request of the holder for the line ends when its access is made; an active persistent one stays until it is
deactivated (R336, R337). -/
def State.requestMet (s : State) (h : Holder) (line : Nat) : State :=
  if s.tokReqs.isEmpty then s
  else { s with tokReqs := s.tokReqs.filter fun r => !(r.line == line && decide (r.holder = h) && r.stage < 3) }

/-- The requester lacks the tokens that its access needs; one without a cache of its own is served by the home
(R335, R340, R342). -/
def State.needsHome (s : State) (h : Option Holder) (writes : Bool) (ln : Nat) : Bool :=
  match h with
  | some x => if writes then s.tokensAt x ln != 128 else s.tokensAt x ln == 0
  | none => true

/-- The home answers a request for the line from LPDDR-6: it has the owner token and the system cache misses (R392,
R399). -/
def State.homeReads (s : State) (ln : Nat) : Bool := s.homeOwns ln && !s.inSys ln

/-- The dirty data of a line pass from one holder to another. -/
def State.moveDirty (s : State) (ln : Nat) (src dst : Holder) : State :=
  { s with dirty := s.dirty.map fun d => if d.line == ln && decide (d.holder = src) then { d with holder := dst } else d }

/-- The tokens of a line that a read needs reach the requester, or the home for one that it serves: one token with the
data, or the owner token alone, from the place with the owner token (R336, R342). -/
def State.collectRead (s : State) (h : Option Holder) (ln : Nat) : State :=
  match h with
  | some x =>
    if 0 < s.tokensAt x ln then s
    else if s.homeOwns ln then
      let a := tokenAnswer (s.homeTokens ln) true false
      (s.putTokens x ln a.1 a.2).requestMet x ln
    else
      (match s.ownerOf ln with
       | none => s
       | some o =>
         let a := tokenAnswer o.n true false
         let s1 := s.setTokens o.holder ln (o.n - a.1) (!a.2) o.way
         ((if a.2 then s1.moveDirty ln o.holder x else s1).putTokens x ln a.1 a.2).requestMet x ln)
  | none =>
    if 0 < s.homeTokens ln then s
    else match s.ownerOf ln with
    | none => s
    | some o =>
      if 1 < o.n then s.setTokens o.holder ln (o.n - 1) true o.way else s.evictLine o.holder ln

/-- A write of a line ends the reservations on it (R431). -/
def State.breakResv (s : State) (ln : Nat) : State :=
  if s.cores.all fun c => c.resv != some ln then s
  else { s with cores := s.cores.map fun c => if c.resv = some ln then { c with resv := none } else c }

/-- No holder keeps tokens, dirty data or copies of a line, and no message carries its tokens. -/
def State.clearLine (s : State) (ln : Nat) : State :=
  { s with
    dirty := s.dirty.filter fun d => d.line != ln
    tokens := s.tokens.filter fun t => t.line != ln
    copies := s.copies.filter fun x => x.1 != ln
    tokMsgs := s.tokMsgs.filter fun m => match m with | .response l _ _ _ _ => l != ln | .forward .. => true }

/-- A holder has all 128 tokens of a line and dirty data of it; `home` is what the home keeps. -/
def State.ownLine (s : State) (h : Holder) (ln : Nat) (home : Line) (c : Option Charge) (way : Nat) : State :=
  { s with dirty := { line := ln, holder := h, home := home, charge := c } :: s.dirty
           tokens := { line := ln, holder := h, n := 128, owner := true, way := way } :: s.tokens }

/-- The tokens and dirty data of a line after a write by an agent: a joined holder gathers all 128 tokens and its
data is dirty while the home keeps what it held; any other agent writes at the home, which then holds all tokens, or
passes them on to an active persistent request (R335 to R337, R342).  `c` is whom the write is charged to. -/
def State.noteWrite (s : State) (h : Option Holder) (p : Option Nat) (uncached : Bool) (c : Option Charge) (ln : Nat) :
    State :=
  let home := match s.dirty.find? fun d => d.line == ln with
    | some d => d.home
    | none => Memory.line s.mem ln
  let atHome := ((s.clearLine ln).homeWrite p uncached c ln).homecoming ln
  match h with
  | some hh =>
    if s.joinedIn hh then
      let r := s.roomFor hh ln
      (((match r.2 with | some v => s.evictLine hh v | none => s).clearLine ln).requestMet hh ln).ownLine hh ln home c r.1
    else atHome
  | none => atHome

/-- A copy of a line at a holder in a clean state after write-through (R452). -/
def State.noteThrough (s : State) (ln : Nat) : State :=
  { s with dirty := s.dirty.filter fun d => d.line != ln, copies := s.copies.filter fun c => c.1 != ln }

/-- Writes bytes to physical memory as a holder or, with none, at the home, for a partition and a party that is charged. -/
def State.writePA (s : State) (h : Option Holder) (p : Option Nat) (uncached : Bool) (c : Option Charge) (pa : Nat)
    (bs : List Byte) : State :=
  let s1 := (linesOf pa bs.length).foldl (fun st ln => (st.breakResv ln).noteWrite h p uncached c ln) s
  { s1 with mem := Memory.write s1.mem pa bs }

/-- A line is reached through a CK page (R451). -/
def State.seeCk (s : State) (ck : Bool) (ln : Nat) : State :=
  if ck && !s.ckSeen.contains ln then { s with ckSeen := ln :: s.ckSeen } else s

/-- An access of a requester takes what it needs of a line: the home allocates a line that it reads from LPDDR-6, and a
read collects its token; a write collects its tokens when it is made (R335, R336, R392). -/
def State.beginLine (s : State) (h : Option Holder) (p : Option Nat) (uncached writes : Bool) (ln : Nat) : State :=
  let s1 := if !uncached && s.needsHome h writes ln && s.homeReads ln then s.sysAlloc p ln else s
  if writes then s1 else s1.collectRead h ln

/-- The home forwards a transient request to every joined holder and answers from its own tokens, unless another
requester's persistent request is active (R336, R337). -/
def State.transient (s : State) (h : Holder) (line : Nat) (wr : Bool) : State :=
  let others := s.joinedHolders.filter fun x => x ≠ h
  let s1 : State := { s with tokMsgs := s.tokMsgs ++ others.map fun x => TokMsg.forward line x h wr (s.gen line) }
  let withheld := match s.activeReq line with | some r => decide (r.holder ≠ h) | none => false
  if withheld then s1
  else
    let a := tokenAnswer (s.homeTokens line) (s.homeOwns line) wr
    s1.sendTokens none line h a.1 a.2

/-- The system cache, or for a cluster the die-to-die link, is under restart: requests to the homes wait at their sources
(R471). -/
def State.homeStopped (s : State) (h : Option Holder) : Bool :=
  s.proctor.resets.contains 96 || (match h with | some (.cluster _) => s.proctor.resets.contains 101 | _ => false)

/-- A holder starts to collect tokens for an access that it cannot yet make: it sends a transient request (R336). -/
def State.requestTokens (s : State) (h : Holder) (line : Nat) (wr : Bool) : State :=
  if !s.joinedIn h || s.homeStopped (some h) || !s.needsHome (some h) wr line || s.tokReqs.any (fun r => r.line == line && decide (r.holder = h)) then s
  else
    let r : TokReq := { holder := h, line := line, write := wr, sent := s.now, last := s.now, failures := 0, stage := 0 }
    ({ s with tokReqs := s.tokReqs ++ [r] } : State).transient h line wr

/-- R336, R337, R471: the tokens that the access needs are in flight, or withheld for another's persistent request, or the
home does not answer. -/
def State.tokensHold (s : State) (h : Option Holder) (writes : Bool) (line : Nat) : Bool :=
  if s.tokReqs.isEmpty && s.tokMsgs.isEmpty && s.proctor.resets.isEmpty then false
  else if match h with | some x => !s.needsHome (some x) writes line | none => false then false
  else
    let other := match s.activeReq line with | some r => decide (some r.holder ≠ h) | none => false
    other || s.homeStopped h || (if writes then decide (0 < s.tokensInFlight line) else s.ownerInFlight line)

end Sys2Proof.Machine
end

