-- ==== Sys2Proof/Machine/Translate.lean ====
section
/-!
DEFINITION. Translation: page tables, the walk, cached translations and the access checks of check 4 of R180
(15 R386, R409 to R417; 16 R425; 18 R453).
-/

namespace Sys2Proof.Machine

/-- How an access uses a page (R413); the codes are ACC of R444. -/
inductive Acc where
  | read | write | atomic | fetch
  deriving DecidableEq, Repr

/-- ACC of R444 and KIND of R418. -/
def Acc.code : Acc → Nat
  | .read => 0 | .write => 1 | .atomic => 2 | .fetch => 3

/-- The outcome of a translation: the physical address with its leaf and the page it maps, or a fault cause with
MALF (R412). -/
inductive XRes where
  | ok (pa : Nat) (leaf : Word64) (vbase size : Nat)
  | fault (cause : Nat) (malf : Bool)
  deriving DecidableEq, Repr

/-- Address bits of a page of SIZE n; 0 for a reserved SIZE (R411). -/
def pageBits (n : Nat) : Nat := [12, 14, 16, 18, 20, 21, 24, 26, 28, 30].getD n 0
/-- The level of a SIZE (R411). -/
def pageLevel (n : Nat) : Nat := if n ≤ 4 then 4 else if n ≤ 8 then 3 else 2
/-- The run length of a SIZE (R411). -/
def runLen (n : Nat) : Nat := [1, 4, 16, 64, 256, 1, 8, 32, 128, 1].getD n 1
/-- The address bit at which a level's index starts (R409). -/
def levelShift (lv : Nat) : Nat := 48 - 9 * lv
/-- The index of an address at a level: an address of 2^56 or more is refused to a wave (R14), and of another agent the low
56 bits are walked, where the manual says nothing (log entry 40). -/
def levelIndex (lv va : Nat) : Nat := field va (levelShift lv) (if lv = 0 then 8 else 9)

/-- Fields of a leaf (R410). -/
def leafMT (e : Word64) : Nat := field e.toNat 6 2
def leafCK (e : Word64) : Bool := e.getLsbD 5
def leafCKD (e : Word64) : Nat := field e.toNat 52 3
def leafSize (e : Word64) : Nat := field e.toNat 8 4
def leafPA (e : Word64) : Nat := (field e.toNat 12 40) <<< 12

/-- The outbound range (R425). -/
def outbound (pa : Nat) : Bool := decide (0x0008000000000000 ≤ pa) && decide (pa ≤ 0x000FFEFFFFFFFFFF)
/-- The management range (R386). -/
def management (pa : Nat) : Bool := decide (0x000FFF0000000000 ≤ pa) && decide (pa ≤ 0x000FFF00004FFFFF)

/-- The recovery domain d of a partition, where the configuration defines it (R453). -/
def State.domain? (s : State) (p d : Nat) : Option Domain := s.domains.find? fun x => x.part == p && x.d == d

/-- R412: a valid entry that a walk of partition p at a level may not hold. -/
def State.malformed (s : State) (p lv : Nat) (e : Word64) : Bool :=
  let x := e.toNat
  if bitOf x 1 then lv == 4 || field x 2 10 != 0 || field x 52 12 != 0
  else
    let sz := leafSize e
    lv < 2 || 9 < sz || pageLevel sz != lv || leafPA e % 2 ^ pageBits sz != 0 || leafMT e == 3 ||
    (bitOf x 3 && !bitOf x 2) || field x 55 9 != 0 ||
    (leafCK e && (leafMT e != 0 || s.capacity < leafPA e + 2 ^ pageBits sz || (s.domain? p (leafCKD e)).isNone)) ||
    ((outbound (leafPA e) || outbound (leafPA e + 2 ^ pageBits sz - 1)) && (leafMT e != 2 || leafCK e))

/-- The 8-byte entry i of the table at a physical address, from the cells of that table. -/
def tableEntry (cells : List Host.Cell) (tbl i : Nat) : Word64 :=
  BitVec.ofNat 64 (ofBytes (Memory.read cells (tbl + 8 * i) 8))

/-- R411, R415: the indices of the entries that may translate an access through index i: i itself, and every entry of
an aligned group that covers i and holds a leaf of that group's size.  In an unbroken run all entries are equal. -/
def candidates (cells : List Host.Cell) (tbl lv i : Nat) : List Nat :=
  let e := tableEntry cells tbl i
  let group := fun (sz : Nat) => (List.range (runLen sz)).map fun k => i / runLen sz * runLen sz + k
  let isLeafOf := fun (sz : Nat) (x : Word64) => x.getLsbD 0 && !x.getLsbD 1 && leafSize x == sz
  let sizes := [1, 2, 3, 4, 6, 7, 8].filter fun sz =>
    pageLevel sz == lv && (group sz).any fun j => isLeafOf sz (tableEntry cells tbl j)
  i :: ((sizes.flatMap group).filter fun j => tableEntry cells tbl j != e)

/-- R411: entry i lies in a block of equal entries at least as long as its run, of which the aligned run around i is no
part: the run does not begin at a multiple of its length. -/
def misplacedRun (cells : List Host.Cell) (tbl i : Nat) : Bool :=
  let e := tableEntry cells tbl i
  let r := runLen (leafSize e)
  if !e.getLsbD 0 || e.getLsbD 1 || r ≤ 1 then false
  else
    let below := ((List.range (min i r)).takeWhile fun k => tableEntry cells tbl (i - 1 - k) == e).length
    let above := ((List.range (min (511 - i) r)).takeWhile fun k => tableEntry cells tbl (i + 1 + k) == e).length
    let whole := (List.range r).all fun k => tableEntry cells tbl (i / r * r + k) == e
    r ≤ below + above + 1 && !whole

/-- Walks from the table of level lv (R409, R412, R415).  An access through an entry of a misplaced run meets a malformed
entry (R411). -/
def State.walkFrom (s : State) (p va : Nat) : Nat → Nat → Nat → XRes
  | 0, _, _ => .fault 0x09 false
  | fuel + 1, lv, tbl =>
    let i := levelIndex lv va
    if s.poisoned (tbl + 8 * i) 8 then .fault 0x0E false
    else
      let cells := s.mem.filter fun c => decide (tbl ≤ c.1) && decide (c.1 < tbl + 4096)
      let cands := candidates cells tbl lv i
      let pick := if cands.length ≤ 1 || misplacedRun cells tbl i then i
        else cands.getD ((Config.freeValue (s.freeCtr * 2 ^ 64 + va)).toNat % cands.length) i
      let e := tableEntry cells tbl pick
      if !e.getLsbD 0 then .fault 0x09 false
      else if s.malformed p lv e || misplacedRun cells tbl pick then .fault 0x09 true
      else if e.getLsbD 1 then s.walkFrom p va fuel (lv + 1) (leafPA e)
      else
        let sz := 2 ^ pageBits (leafSize e)
        .ok (leafPA e + va % sz) e (va / sz * sz) sz

/-- The table entries that a walk reads: their physical addresses (R412). -/
def State.walkReads (s : State) (p va : Nat) : Nat → Nat → Nat → List Nat
  | 0, _, _ => []
  | fuel + 1, lv, tbl =>
    let a := tbl + 8 * levelIndex lv va
    let e := tableEntry s.mem tbl (levelIndex lv va)
    a :: (if e.getLsbD 0 && e.getLsbD 1 && !s.malformed p lv e && !s.poisoned a 8 then s.walkReads p va fuel (lv + 1) (leafPA e)
          else [])

/-- A cached leaf of one of the agents that maps the address (R416). -/
def State.tlbHit (s : State) (p : Nat) (agents : List Nat) (va : Nat) : Option TlbEntry :=
  s.tlb.find? fun t => t.part == p && agents.contains t.agent && t.vbase ≤ va && va < t.vbase + t.size

/-- Where a walk begins: the deepest cached table pointer of the agents, else PTROOT (R416). -/
def State.walkStart (s : State) (p : Nat) (agents : List Nat) (va : Nat) : Nat × Nat :=
  let ws := s.walks.filter fun w =>
    w.part == p && agents.contains w.agent && w.vbase == va >>> levelShift (w.level - 1) && 1 ≤ w.level
  let best := ws.foldl (fun (b : Option WalkEntry) w => match b with
    | none => some w
    | some x => if x.level < w.level then some w else some x) none
  match best with
  | some w => (w.level, w.table.toNat)
  | none => (0, match s.parts[p]? with | some pt => pt.ptroot.toNat | none => 0)

/-- The lines that translating an address reads: none where a cache holds the leaf (R412, R416). -/
def State.walkLines (s : State) (p : Nat) (agents : List Nat) (va : Nat) : List Nat :=
  match s.tlbHit p agents va with
  | some _ => []
  | none => let w := s.walkStart p agents va
            (s.walkReads p va (5 - w.1) w.1 w.2).map (· / 64)

/-- The translation of a virtual address of partition p by the caches of the given agents, else by a walk (R409,
R416). -/
def State.xlate (s : State) (p : Nat) (agents : List Nat) (va : Nat) : XRes :=
  match s.tlbHit p agents va with
  | some t => .ok (leafPA t.leaf + va % t.size) t.leaf t.vbase t.size
  | none =>
    if s.parts.length ≤ p then .fault 0x09 false
    else let w := s.walkStart p agents va
         s.walkFrom p va (5 - w.1) w.1 w.2

/-- R453: a physical write that the memory controllers refuse: into a log region, but for the REQ byte. -/
def State.logRefuses (s : State) (pa n : Nat) : Bool :=
  s.domains.any fun d => decide (pa < d.logbase + d.logsize) && decide (d.logbase < pa + n) &&
    !(pa == d.logbase + 40 && n == 1)

/-- Check 4 of R180 on a translated access of n bytes; `core` is true for an application core or the host, which may
reach the management range (R386, R413, R425, R453, R459).  An address above the installed capacity and below the outbound
range is served as memory, where the manual says nothing (log entry 5). -/
def State.permitted (s : State) (p : Nat) (kind : Acc) (core : Bool) (leaf : Word64) (pa n : Nat) : Bool :=
  let x := leaf.toNat
  let rights := match kind with
    | .read => bitOf x 2
    | .write => bitOf x 3
    | .atomic => bitOf x 2 && bitOf x 3 && leafMT leaf ≤ 1
    | .fetch => bitOf x 4
  let writes := kind == .write || kind == .atomic
  rights && (core || !management pa) && !(kind == .atomic && outbound pa) && !(writes && s.logRefuses pa n) &&
  !(writes && leafCK leaf && (match s.domain? p (leafCKD leaf) with | some d => d.state == 2 | none => false))

/-- Checks 3 and 4 of R180: the physical address and leaf of an access that lies in one page, or the cause. -/
def State.access (s : State) (p : Nat) (agents : List Nat) (kind : Acc) (core : Bool) (va n : Nat) : XRes :=
  match s.xlate p agents va with
  | .fault c m => .fault c m
  | .ok pa leaf vb sz => if s.permitted p kind core leaf pa n then .ok pa leaf vb sz else .fault 0x0A false

/-- The translation agents of a core, a cluster, and an agent of the I/O die by its number of R398 (R416). -/
def coreAgents (core : Nat) : List Nat := [core, 256 + core / 4]
def clusterAgents (cl : Nat) : List Nat := [256 + cl]
def ioAgents (agent : Nat) : List Nat := [320 + agent]
/-- The Timetable, which also writes the journal and the fault queue (log entry 40). -/
def dmaAgents : List Nat := ioAgents 102

/-- Reads n bytes at a virtual address as a DMA agent or engine: the bytes, or the cause, MALF and the faulting
address.  Outbound bytes come from the link (R425). -/
def State.readVA (s : State) (p : Nat) (agents : List Nat) (core : Bool) (va n : Nat) :
    Except (Nat × Bool × Nat) (List Byte) :=
  (pieces (n + 1) va n).foldl (fun acc pc =>
    match acc with
    | .error e => .error e
    | .ok bs =>
      match s.access p agents .read core pc.1 pc.2 with
      | .fault c m => .error (c, m, pc.1)
      | .ok pa _ _ _ =>
        if outbound pa then
          .ok (bs ++ (List.range pc.2).map fun i =>
            if s.pcie.up then Config.outboundByte (pa + i) else 0xFF)
        else if s.poisoned pa pc.2 then .error (0x0E, false, pc.1)
        else .ok (bs ++ Memory.read s.mem pa pc.2)) (.ok [])

/-- Records a CK write as pending at the persistence unit (R414, R452). -/
def State.noteCk (s : State) (p : Nat) (leaf : Word64) (wave : Option Nat) (pa n : Nat) : State :=
  (linesOf pa n).foldl (fun st ln =>
    { st.seeCk true ln with ckPend := st.ckPend ++
        [{ part := p, d := leafCKD leaf, line := ln, old := Memory.line st.mem ln, wave := wave }] }) s

/-- The content of a domain header (R454). -/
def Domain.header (d : Domain) : Nat :=
  d.rcp % 2 ^ 64 + putAt (d.openCk % 2 ^ 64) 64 + putAt d.state 128 + putAt (b2n d.noundo) 136 + putAt (b2n d.tornf) 137 +
  putAt (d.reason % 4) 138 + putAt (d.sealtime % 2 ^ 64) 192 + putAt (d.tornck % 2 ^ 64) 256 + putAt d.req.toNat 320 +
  putAt (b2n d.busy) 328

/-- Changes a recovery domain and writes its header as one 64-byte write, which its class pays for (R399, R454, R457). -/
def State.setDomain (s : State) (p d : Nat) (f : Domain → Domain) : State :=
  let ds := s.domains.map fun x => if x.part == p && x.d == d then f x else x
  match ds.find? fun x => x.part == p && x.d == d with
  | none => s
  | some x =>
    ({ s with domains := ds, mem := Memory.write s.mem x.logbase (bytesOf 64 x.header) } : State).tallyWrite
      (x.logbase / 64) (some .persist)

/-- An entry of the outbound write log (R458). -/
def outEntry (time addr size kind part port lost : Nat) : Nat :=
  time % 2 ^ 64 + putAt (addr % 2 ^ 64) 64 + putAt (size % 2 ^ 14) 128 + putAt (kind % 4) 142 + putAt (part % 64) 144 +
  putAt (port % 16) 150 + putAt (min lost (2 ^ 32 - 1)) 224

/-- Logs an event of a partition in the ring in the last quarter of its domain 0's log region, or counts it as lost
(R458). -/
def State.logOut (s : State) (p addr size kind port : Nat) : State :=
  match s.domain? p 0 with
  | none => s
  | some d =>
    let cap := d.logsize / 4 / 32
    let put := fun (f : Domain → Domain) =>
      { s with domains := s.domains.map fun x => if x.part == p && x.d == 0 then f x else x }
    if cap ≤ d.outlog.length then put fun x => { x with outlost := x.outlost + 1 }
    else
      let e := outEntry s.clock.time addr size kind p port d.outlost
      let s1 := put fun x => { x with outlog := x.outlog ++ [BitVec.ofNat 256 e], outlost := 0, outCount := x.outCount + 1 }
      let pa := d.logbase + d.logsize - d.logsize / 4 + 32 * (d.outCount % cap)
      (s1.writeRaw pa (bytesOf 32 e)).tallyWrite (pa / 64) (some .persist)

/-- R454, R459: writing 0x01 to REQ of a domain header starts a restore when every queue of the partition is disabled and
it has no running, recessing or resident instance; any other write is ignored.  REQ keeps the 1, where the manual names no
clearing of it (log entry 15). -/
def State.writeReq (s : State) (pa : Nat) (b : Byte) : State :=
  match s.domains.find? fun d => d.logbase + 40 == pa with
  | none => s
  | some d =>
    let pt := s.parts.getD d.part Part.reset
    let qsOff := (List.range 64).all fun q => !(pt.qmask.getLsbD q) || !(s.qtab.getD q QEntry.reset).en
    let jobsOf := s.jobs.filter fun j => field j.2.card.toNat 8 6 == d.part
    let idle := s.insts.all fun i =>
      !(jobsOf.any fun j => j.1 == i.job) || !(i.st == .running || i.st == .recessing) &&
      s.launches.all fun l => l.job != i.job || l.gangs.all fun g => !g.placed
    let go := b == 1 && qsOff && idle && !d.busy
    if go then s.setDomain d.part d.d fun x => { x with req := 1, busy := true, state := 2 } else s

/-- Writes bytes that one agent stores to a translated place: write-back or through-written memory, a CK page, the
outbound range, or a domain header's REQ byte (R338, R342, R410, R425, R452, R453).  `c` is whom it is charged to. -/
def State.storeAt (s : State) (p : Nat) (h : Option Holder) (c : Option Charge) (wave : Option Nat) (granted : Bool)
    (leaf : Word64) (pa : Nat) (bs : List Byte) : State :=
  if outbound pa then
    if s.pcie.up then
      let s1 := s.logOut p pa bs.length 0 0
      { s1 with pcie := { s1.pcie with sent := s1.pcie.sent ++
          ((List.range bs.length).map fun i => ((pa + i) % 2 ^ 51, bs.getD i 0)) } }
    else s
  else if s.domains.any fun d => d.logbase + 40 == pa then s.writeReq pa (bs.headD 0)
  else
    let s1 := s.unpoison pa bs.length
    if leafCK leaf then
      let s2 := s1.noteCk p leaf wave pa bs.length
      let s3 := (linesOf pa bs.length).foldl (fun st ln => (st.breakResv ln).noteThrough ln) s2
      s3.writeRaw pa bs
    else if granted then ((linesOf pa bs.length).foldl State.breakResv s1).writeGranted pa bs
    else s1.writePA (if leafMT leaf = 0 then h else none) (some p) (leafMT leaf == 2) c pa bs

/-- A holder's cluster writes under its own write grant (R216). -/
def State.grantedTo (s : State) (p : Nat) (h : Option Holder) (va n : Nat) : Bool :=
  match h with | some (.cluster cl) => s.underGrant p cl true va n | _ => false

/-- Writes bytes at a virtual address as a DMA agent or engine; nothing is written when some page faults. -/
def State.writeVA (s : State) (p : Nat) (agents : List Nat) (core : Bool) (h : Option Holder) (c : Option Charge) (va : Nat)
    (bs : List Byte) : Except (Nat × Bool × Nat) State :=
  let pcs := pieces (bs.length + 1) va bs.length
  let bad := pcs.filterMap fun pc =>
    match s.access p agents .write core pc.1 pc.2 with
    | .fault c m => some (c, m, pc.1)
    | .ok pa _ _ _ =>
      if (linesOf pa pc.2).any fun l => s.poison.contains l && !(decide (pa ≤ 64 * l) && decide (64 * l + 64 ≤ pa + pc.2))
      then some (0x0E, false, pc.1) else none
  match bad with
  | e :: _ => .error e
  | [] => .ok (pcs.foldl (fun st pc =>
      match s.access p agents .write core pc.1 pc.2 with
      | .fault _ _ => st
      | .ok pa leaf _ _ =>
        st.storeAt p h c none (st.grantedTo p h pc.1 pc.2) leaf pa ((bs.drop (pc.1 - va)).take pc.2)) s)

end Sys2Proof.Machine
end

