-- ==== Sys2Proof/Machine/Grid.lean ====
section
/-!
DEFINITION. The fields of a launch record and of a job card, and the grid cut from the work identifier
(09 R272 to R275; 14 R361, R363).
-/

namespace Sys2Proof.Machine

/-- A field of the launch record of a launch (R363). -/
def Launch.num (l : Launch) (lo n : Nat) : Nat := field l.record.toNat lo n
def Launch.kentry (l : Launch) : Nat := l.num 0 64
def Launch.hentry (l : Launch) : Nat := l.num 64 64
def Launch.slot (l : Launch) (i : Nat) : Nat := l.num (128 + 32 * i) 32
def Launch.rmode (l : Launch) : Nat := l.num 386 2
def Launch.nwf (l : Launch) : Nat := l.num 388 3
def Launch.wgf (l : Launch) : Nat := l.num 391 3
def Launch.ggf (l : Launch) : Nat := l.num 394 3
def Launch.checked (l : Launch) : Bool := l.num 397 1 == 1
def Launch.determ (l : Launch) : Bool := l.num 398 1 == 1
def Launch.ftz (l : Launch) : Bool := l.num 399 1 == 1
def Launch.bankctl (l : Launch) : Bool := l.num 400 1 == 1
def Launch.ckctl (l : Launch) : Bool := l.num 401 1 == 1
def Launch.vceil (l : Launch) : Nat := l.num 408 8
def Launch.sceil (l : Launch) : Nat := l.num 416 8
def Launch.stkres (l : Launch) : Nat := l.num 424 13
def Launch.scratch (l : Launch) : Nat := l.num 960 32
def Launch.priv (l : Launch) : Nat := l.num 1024 64
def Launch.privSize (l : Launch) : Nat := l.num 992 32
def Launch.npriv (l : Launch) : Nat := l.num 1088 32
def Launch.banks (l : Launch) : Nat := l.num 1120 32
def Launch.tlcsrc (l : Launch) (i : Nat) : Nat := l.num (1728 + 4 * i) 4
def Launch.acmBase (l : Launch) : Nat := l.num 1856 16
def Launch.acmLen (l : Launch) : Nat := l.num 1872 17
/-- Width and extent of field i of a launch record (R272). -/
def widthOf (r : Nat) (i : Nat) : Nat := field r (512 + 6 * i) 6
def extentOf (r : Nat) (i : Nat) : Nat := field r (576 + 64 * i) 64
/-- Offset of field i in the work identifier (R272). -/
def offsetOf (r : Nat) (i : Nat) : Nat := ((List.range i).map (widthOf r)).foldl (· + ·) 0
/-- The product of the extents of fields lo to hi - 1 (R273). -/
def extProd (r lo hi : Nat) : Nat := (((List.range hi).drop lo).map (extentOf r)).foldl (· * ·) 1

/-- The bits of the work identifier that fields lo to hi - 1 take at mixed-radix index x, lowest field least
significant (R273, R275). -/
def spread (r x lo hi : Nat) : Nat :=
  (((List.range hi).drop lo).foldl (fun (acc : Nat × Nat) i =>
    (acc.1 + (acc.2 % extentOf r i) <<< offsetOf r i, acc.2 / extentOf r i)) (0, x)).1

/-- Waves of a workgroup, workgroups of a gang, gangs of a grid (R273). -/
def Launch.waveCount (l : Launch) : Nat := extProd l.record.toNat 1 l.wgf
def Launch.wgCount (l : Launch) : Nat := extProd l.record.toNat l.wgf l.ggf
def gridGangs (r : Nat) : Nat := extProd r (field r 394 3) (field r 388 3)
/-- The lanes that every wave of the launch holds (R274). -/
def Launch.held (l : Launch) : Word32 := BitVec.ofNat 32 (2 ^ extentOf l.record.toNat 0 - 1)

/-- The base WID of gang g: fields h to n - 1; for a task, the entry number in those bits (R273, R366). -/
def Launch.gangWid (l : Launch) (g : Nat) : Nat :=
  let r := l.record.toNat
  let oh := offsetOf r l.ggf
  if l.task then (l.entry % 2 ^ (64 - oh)) <<< oh else spread r g l.ggf l.nwf
/-- The WID of lane 0 of a wave. -/
def Launch.waveWid (l : Launch) (g member widx : Nat) : Nat :=
  let r := l.record.toNat
  l.gangWid g + spread r member l.wgf l.ggf + spread r widx 1 l.wgf

/-- The bytes of a workgroup's region and of the set area above it (R298, R327). -/
def regionSize (scratch : Nat) : Nat := (scratch + 4095) / 4096 * 4096
def setAreaSize (checked : Bool) : Nat := if checked then 65536 else 0
/-- Bytes of a wave's private allocation (R305). -/
def Launch.privWave (l : Launch) : Nat := 32 * l.privSize + 64 * l.stkres

/-- The WID of a lane of a wave (R273). -/
def Wave.wid (wv : Wave) (lane : Nat) : Nat := (wv.widBase + lane) % 2 ^ 64
/-- The cluster of a wave. -/
def Wave.cluster (wv : Wave) : Nat := wv.core / 4
/-- LFLAGS (R42). -/
def Launch.lflags (l : Launch) (redund : Bool) : Nat :=
  b2n l.checked + 2 * b2n l.determ + 4 * b2n redund + 8 * b2n l.ftz + 16 * l.num 384 2

/-! ## Job cards (R361) -/

def cardNum (c : BitVec 1024) (lo n : Nat) : Nat := field c.toNat lo n
def cardPart (c : BitVec 1024) : Nat := cardNum c 8 6
def cardRmode (c : BitVec 1024) : Nat := cardNum c 16 2
def cardRedund (c : BitVec 1024) : Bool := cardNum c 18 1 == 1
def cardMiss (c : BitVec 1024) : Nat := cardNum c 19 2
def cardOvr (c : BitVec 1024) : Bool := cardNum c 21 1 == 1
def cardReplay (c : BitVec 1024) : Bool := cardNum c 22 1 == 1
def cardPool (c : BitVec 1024) : Nat := cardNum c 24 2
def cardQueue (c : BitVec 1024) : Nat := cardNum c 26 6
def cardMaxsp (c : BitVec 1024) : Nat := cardNum c 32 32
def cardPeriod (c : BitVec 1024) : Nat := cardNum c 64 64
def cardDeadline (c : BitVec 1024) : Nat := cardNum c 128 64
def cardFirst (c : BitVec 1024) : Nat := cardNum c 192 64
def cardBudget (c : BitVec 1024) : Nat := cardNum c 256 64
def cardWindow (c : BitVec 1024) : Nat := cardNum c 320 32
def cardSaveb (c : BitVec 1024) : Nat := cardNum c 352 32
def cardWdog (c : BitVec 1024) : Nat := cardNum c 384 64
def cardClmax (c : BitVec 1024) : Nat := cardNum c 448 7
def cardExq (c : BitVec 1024) : Nat := cardNum c 512 64
def cardExint (c : BitVec 1024) : Nat := cardNum c 576 8
def cardExpair (c : BitVec 1024) : Nat := cardNum c 584 8

/-- Integrity class redundant of a launch (R361, R42). -/
def State.redund (s : State) (l : Launch) : Bool := cardRedund (s.cardOf l.job)
/-- WSTATE.RECESS waits only under DECLARED and ANY (R375); the recess mode of a launch (R364). -/
def recessDeclared (l : Launch) : Bool := l.rmode == 0
def recessAny (l : Launch) : Bool := l.rmode == 1

end Sys2Proof.Machine
end

