-- ==== Sys2Proof/Machine/Ring.lean ====
section
/-!
DEFINITION. Rings behind headers of R212, journal events (15 R397, R398), exception records (14 R382, R383) and
fault records (15 R418).
-/

namespace Sys2Proof.Machine

/-- The content of a ring header (R212). -/
structure RingHdr where
  base : Nat
  cap  : Nat
  head : Nat
  tail : Nat
  tlc  : Nat
  tlcen : Bool
  deriving DecidableEq, Repr

/-- R212: the header in 64 bytes, or none where it is rejected. -/
def ringOf (x : Nat) : Option RingHdr :=
  let cap := field x 64 24
  if field x 88 40 != 0 || field x 261 251 != 0 || cap == 0 || 2 ^ 23 < cap || 2 ^ Nat.log2 cap != cap then none
  else some { base := field x 0 64, cap := cap, head := field x 128 64, tail := field x 192 64,
              tlc := field x 256 4, tlcen := bitOf x 260 }

/-- Reads and checks a header at a virtual address of a partition. -/
def State.ring (s : State) (p hdr : Nat) : Option RingHdr :=
  match s.readVA p dmaAgents false hdr 64 with
  | .ok bs => ringOf (ofBytes bs)
  | .error _ => none

/-- The Timetable takes one token of the line at a virtual address, where it translates (R359, R383). -/
def State.watchLine (s : State) (p va : Nat) : State :=
  match s.xlate p dmaAgents va with
  | .ok pa _ _ _ => s.collectRead (some .timetable) (pa / 64)
  | .fault _ _ => s

/-- The Timetable holds a token of the line at a virtual address: nothing has written it since it was watched. -/
def State.watches (s : State) (p va : Nat) : Bool :=
  match s.xlate p dmaAgents va with
  | .ok pa _ _ _ => decide (0 < s.tokensAt .timetable (pa / 64))
  | .fault _ _ => false

/-- The Timetable gives up its token of the line at a virtual address. -/
def State.unwatchLine (s : State) (p va : Nat) : State :=
  match s.xlate p dmaAgents va with
  | .ok pa _ _ _ => s.evictLine .timetable (pa / 64)
  | .fault _ _ => s

/-- The outcome of appending to a ring. -/
inductive Append where
  | done (s : State) | full | bad

/-- Appends an entry to the ring of a header: the entry, then TAIL with a release (R359, R383, R397). -/
def State.append (s : State) (p hdr : Nat) (entry : List Byte) : Append :=
  if hdr % 64 != 0 then .bad
  else match s.ring p hdr with
  | none => .bad
  | some r =>
    if r.cap + r.head ≤ r.tail then .full
    else
      match s.writeVA p dmaAgents false none none ((r.base + entry.length * (r.tail % r.cap)) % 2 ^ 64) entry with
      | .error _ => .bad
      | .ok s1 =>
        match s1.writeVA p dmaAgents false none none (hdr + 24) (bytesOf 8 (r.tail + 1)) with
        | .error _ => .bad
        | .ok s2 => .done s2

/-- An event handed to the journal of a partition (R397, R398). -/
def State.journal (s : State) (p agent kind : Nat) (payload : Nat) (time : Nat) : State :=
  s.setPart p fun x => { x with jq := x.jq ++
    [{ time := time, agent := agent, kind := kind, payload := BitVec.ofNat 896 payload }] }

/-- An event copied to the journal of every partition. -/
def State.journalAll (s : State) (agent kind payload time : Nat) : State :=
  (List.range 64).foldl (fun st p => st.journal p agent kind payload time) s

/-- PAYLOAD of KIND 0x02 to 0x04 (R398). -/
def jobPayload (j deadline : Nat) : Nat := j + putAt deadline 64

/-- The interrupt EXINT of an appended record and the MSI-X vector of the functions of the partition
(R383, R427, R431); both cores of a pair receive it (log entry 52), and identity 0 is none. -/
def State.interrupt (s : State) (card : BitVec 1024) : State :=
  let p := cardPart card
  let pairs := (List.range 8).filter fun i => bitOf (cardExpair card) i
  let v := cardExint card % 64
  let fns := s.pcie.fns.map fun f =>
    if f.part == p && f.msix && f.masked.getLsbD v then { f with pending := f.pending ||| BitVec.ofNat 64 (2 ^ v) } else f
  let sent := (s.pcie.fns.filter fun f => f.part == p && f.msix && !f.masked.getLsbD v).map fun f => (f.fn, v)
  let id := cardExint card
  let to_ := fun (e : AppCore × Nat) => if pairs.contains (e.2 / 2) then { e.1 with eip := e.1.eip ||| BitVec.ofNat 256 (2 ^ id) } else e.1
  { s with irqs := if id = 0 then s.irqs else s.irqs ++ pairs.map fun i => (i, BitVec.ofNat 8 id),
           cores := if id = 0 then s.cores else s.cores.zipIdx.map to_,
           pcie := { s.pcie with fns := fns, vectors := s.pcie.vectors ++ sent } }

/-- A host sets MSI-X enable and masks of a function: a vector whose Pending Bit is set is sent when it is no longer
masked, and the bit clears (R427; log entry 52). -/
def State.setMsix (s : State) (fn : Nat) (en : Bool) (masked : Word64) : State :=
  let due := fun (f : PcieFn) => if en then f.pending &&& ~~~masked else 0
  let sent := (s.pcie.fns.filter fun f => f.fn == fn).flatMap fun f =>
    ((List.range 64).filter fun v => (due f).getLsbD v).map fun v => (fn, v)
  { s with pcie := { s.pcie with
      fns := updWhere (fun f => f.fn == fn) (fun f => { f with msix := en, masked := masked, pending := f.pending &&& ~~~due f }) s.pcie.fns
      vectors := s.pcie.vectors ++ sent } }

/-- An exception record (R382). -/
def exRecord (ev cause job part queue action time rel dl seq wgdone wgtotal d0 d1 : Nat) : BitVec 512 :=
  BitVec.ofNat 512 (ev % 256 + putAt (cause % 256) 8 + putAt (job % 256) 16 + putAt (part % 64) 24 + putAt (queue % 64) 30 +
    putAt (action % 4) 36 + putAt (time % 2 ^ 64) 64 + putAt (rel % 2 ^ 64) 128 + putAt (dl % 2 ^ 64) 192 + putAt (seq % 2 ^ 64) 256 +
    putAt (wgdone % 2 ^ 32) 320 + putAt (wgtotal % 2 ^ 32) 352 + putAt (d0 % 2 ^ 64) 384 + putAt (d1 % 2 ^ 64) 448)

/-- All ones: no entry number. -/
def noSeq : Nat := 2 ^ 64 - 1

/-- While records of a job are held, the Timetable holds one token of the line of EXQ's HEAD (R383). -/
def State.watchHead (s : State) (j : Nat) : State :=
  match s.job? j with
  | some x =>
    if x.hold.isEmpty then s.unwatchLine (cardPart x.card) (cardExq x.card + 16)
    else s.watchLine (cardPart x.card) (cardExq x.card + 16)
  | none => s

/-- Delivers an exception record of a job: to the journal, then to EXQ with its interrupt, into the hold, or only to
the journal (R383, R427). -/
def State.deliver (s : State) (j : Nat) (card : BitVec 1024) (rec : BitVec 512) (time : Nat) : State :=
  let p := cardPart card
  let s1 := s.journal p 102 0x01 rec.toNat time
  if cardExq card = 0 then s1.interrupt card
  else match s1.job? j with
  | none =>
    match s1.append p (cardExq card) (recBytes rec) with
    | .done s2 => s2.interrupt card
    | _ => s1
  | some jb =>
    let abort := field rec.toNat 0 8 == 2
    if jb.overflow then (if abort && jb.hold.length = 16 then s1.setJob j fun x => { x with hold := x.hold ++ [rec] } else s1)
    else if jb.hold.isEmpty then
      match s1.append p (cardExq card) (recBytes rec) with
      | .done s2 => s2.interrupt card
      | _ => (s1.setJob j fun x => { x with hold := [rec] }).watchHead j
    else if jb.hold.length < 16 then s1.setJob j fun x => { x with hold := x.hold ++ [rec] }
    else s1.setJob j fun x => { x with overflow := true, hold := if abort then x.hold ++ [rec] else x.hold }

/-- Raises an event of a job with the fields of its instance (R382). -/
def State.raiseJob (s : State) (j ev cause action seq d0 d1 time : Nat) : State :=
  let card := s.cardOf j
  let (rel, dl, wd, wt) := match s.inst? j with
    | some i => (i.release, i.deadline, i.wgDone, i.wgTotal)
    | none => (0, 0, 0, 0)
  s.deliver j card (exRecord ev cause j (cardPart card) (cardQueue card) action time rel dl seq wd wt d0 d1) time

/-- SEQ of an event of an instance as a whole (R382). -/
def Instance.firstSeq (i : Instance) : Nat := if i.lo < i.hi then i.lo else noSeq

/-- Appends held records, oldest first, into the room of EXQ (R383); at most `fuel` of them. -/
def State.drainHold (s : State) (j : Nat) : Nat → State
  | 0 => s
  | fuel + 1 =>
    match s.job? j with
    | none => s
    | some jb =>
      match jb.hold with
      | [] => s
      | r :: rest =>
        match s.append (cardPart jb.card) (cardExq jb.card) (recBytes r) with
        | .done s2 =>
          ((s2.interrupt jb.card).setJob j fun x => { x with hold := rest }).drainHold j fuel
        | _ => s

/-- A fault record of R418. -/
def faultRecord (time va part job cl eng kind cause : Nat) (malf : Bool) (seq token rowprog : Nat) : BitVec 512 :=
  BitVec.ofNat 512 (time % 2 ^ 64 + putAt (va % 2 ^ 64) 64 + putAt (part % 64) 128 + putAt (job % 256) 134 + putAt (cl % 64) 142 +
    putAt eng 148 + putAt (kind % 4) 151 + putAt cause 160 + putAt (b2n malf) 168 + putAt (seq % 2 ^ 64) 192 +
    putAt (token % 2 ^ 16) 256 + putAt (rowprog % 2 ^ 128) 272)

/-- Appends a fault record to the fault queue and copies it to the journal; none when the queue has no room, and the
engine waits (R418).  Without a readable header the record reaches the journal only. -/
def State.faultAppend (s : State) (p agent : Nat) (rec : BitVec 512) : Option State :=
  let hdr := match s.parts[p]? with | some x => x.fqhdr.toNat | none => 0
  let j := fun (st : State) => st.journal p agent 0x05 rec.toNat s.now
  if hdr = 0 then some (j s)
  else match s.append p hdr (recBytes rec) with
  | .done s1 => some (j s1)
  | .full => none
  | .bad => some (j s)

end Sys2Proof.Machine
end

