-- ==== Sys2Proof/Machine/Race.lean ====
section
/-!
DEFINITION. Checked launches: epochs, read and write sets, races and serialisation (11 R325 to R329); the layers of
deterministic launches (11 R330 to R333; 07 R205).
-/

namespace Sys2Proof.Machine

/-- The launch of a wave. -/
def State.launchOf (s : State) (wv : Wave) : Option Launch := s.launches[wv.launch]?
/-- A report-card entry (R444). -/
def mkCard (cause lane acc : Nat) (more wbuf malf : Bool) (ioff wid addr info addr2 ioff2 time : Nat) : Card :=
  BitVec.ofNat 512 (cause % 256 + putAt (lane % 32) 8 + putAt (b2n more) 13 + putAt (b2n wbuf) 14 + putAt (b2n malf) 15 +
    putAt (acc % 4) 16 + putAt (ioff % 2 ^ 32) 32 + putAt (wid % 2 ^ 64) 64 + putAt (addr % 2 ^ 64) 128 +
    putAt (info % 2 ^ 64) 192 + putAt (addr2 % 2 ^ 64) 256 + putAt (ioff2 % 2 ^ 32) 320 + putAt (time % 2 ^ 64) 384)

/-- The key of a workgroup in its launch: gang and member. -/
def Wave.wgKey (wv : Wave) : Nat := 4 * wv.gang + wv.wg

/-! ## Read and write sets -/

/-- The entries of a workgroup's waves. -/
def State.setOf (s : State) (l : Launch) (key : Nat) : List SetEntry :=
  l.sets.filter fun e => match s.waves[e.wave]? with | some wv => wv.wgKey == key | none => false

/-- Adds the entry of one access of a wave's lane: one entry a wave, word, kind and epoch, with the lowest lane and the
first instruction (R327).  None when the workgroup's area of 4,096 entries is full. -/
def State.recordAccess (s : State) (w : Nat) (scratch : Bool) (word kind lane ioff : Nat) : Option State :=
  match s.waves[w]? with
  | none => some s
  | some wv =>
    match s.launchOf wv with
    | none => some s
    | some l =>
      if !l.checked || l.serial == some (wv.wgKey, true) then some s
      else
        let same := fun (e : SetEntry) =>
          e.wave == w && e.word == word && e.scratch == scratch && e.kind == kind && e.epoch == wv.epoch && e.stop.isNone
        if l.sets.any same then
          some (s.setLaunch wv.launch fun x =>
            { x with sets := x.sets.map fun e => if same e then { e with lane := min e.lane lane } else e })
        else if 4096 ≤ (s.setOf l wv.wgKey).length then none
        else some (s.setLaunch wv.launch fun x => { x with sets := x.sets ++
          [{ scratch := scratch, word := word, kind := kind, lane := lane, wave := w, epoch := wv.epoch, ioff := ioff,
             start := wv.epochStart, stop := none }] })

/-- Two entries form a reported pair (R328): same word, different waves, not both reads and not both atomics, epochs
concurrent; `stop` of the open one is `now`. -/
def racePair (now : Nat) (a b : SetEntry) : Bool :=
  a.scratch == b.scratch && a.word == b.word && a.wave != b.wave &&
  !(a.kind == 0 && b.kind == 0) && !(a.kind == 2 && b.kind == 2) &&
  decide (a.start < b.stop.getD now) && decide (b.start < a.stop.getD now)

/-- The pairs that the end of wave w's epoch finds: its open entries against the ended epochs of other waves, lowest
word first, but for those already reported (R328). -/
def State.racePairs (s : State) (w : Nat) : List (SetEntry × SetEntry) :=
  match s.waves[w]? with
  | none => []
  | some wv =>
    match s.launchOf wv with
    | none => []
    | some l =>
      let mine := l.sets.filter fun e => e.wave == w && e.stop.isNone
      let others := l.sets.filter fun e => e.wave != w && e.stop.isSome
      let ps := mine.flatMap fun a => (others.filter fun b => racePair s.now a b).map fun b => (a, b)
      let fresh := ps.filter fun p => !wv.raceSeen.contains p
      fresh.mergeSort fun p q => decide (p.1.word ≤ q.1.word)

/-- The report-card entries of pairs, the first 32 of them: both WIDs, both addresses, both instruction addresses, and in the
last whether more were found (R328, R444). -/
def State.raceCards (s : State) (v : Wave) (ps : List (SetEntry × SetEntry)) : List Card :=
  (ps.take 32).zipIdx.map fun p =>
    let a := p.1.1
    let b := p.1.2
    let other := match s.waves[b.wave]? with | some u => u.wid b.lane | none => 0
    mkCard 0x0B a.lane (if a.kind = 0 then 0 else if a.kind = 1 then 1 else 2) (decide (32 < ps.length) && p.2 == 31) false false
      a.ioff (v.wid a.lane) (4 * a.word) other (4 * b.word) b.ioff s.now

/-- A wave later in work-identifier order ended its epoch of a pair at this very time: it would count as the later one
(R328). -/
def State.raceTie (s : State) (w : Nat) : Bool :=
  let wid := fun (v : Nat) => match s.waves[v]? with | some x => x.widBase | none => 0
  (s.racePairs w).any fun p => p.2.stop == some s.now && decide (wid w < wid p.2.wave)

/-- Drops the entries of ended epochs with which no open epoch of the launch is concurrent (R327). -/
def State.pruneSets (s : State) (l : Nat) : State :=
  let opens := s.waves.filter fun v => v.launch == l && v.epochOpen && v.status == .resident
  s.setLaunch l fun x => { x with sets := x.sets.filter fun e =>
    match e.stop with
    | none => true
    | some t => opens.any fun v => decide (v.epochStart < t) }

/-- Ends the epoch of a wave at this time (R325). -/
def State.closeEpoch (s : State) (w : Nat) : State :=
  match s.waves[w]? with
  | none => s
  | some wv =>
    let s1 := s.setLaunch wv.launch fun x =>
      { x with sets := x.sets.map fun e => if e.wave == w && e.stop.isNone then { e with stop := some s.now } else e }
    (s1.setWave w fun v => { v with epochOpen := false, raceSeen := [] }).pruneSets wv.launch

/-- Starts the next epoch of a wave (R325). -/
def State.openEpoch (s : State) (w : Nat) : State :=
  s.setWave w fun v => { v with epochOpen := true, epochStart := s.now, epoch := v.epoch + 1 }

/-! ## Layers -/

/-- A byte of a view: the newest buffered byte, else the base. -/
def viewByte (base : Nat → Byte) (ov : List Host.Cell) (a : Nat) : Byte := (ov.lookup a).getD (base a)

/-- Applies buffered operations in order to a view (R330, R331). -/
def applyOps (base : Nat → Byte) : List LayerOp → List Host.Cell → List Host.Cell
  | [], ov => ov
  | .store a _ _ b :: ops, ov => applyOps base ops ((a, b) :: ov)
  | .atomic k sg a _ _ n x c :: ops, ov =>
    let old := ofBytes ((List.range n).map fun i => viewByte base ov (a + i))
    let (new, wr) := atomNew k sg n old x.toNat c.toNat
    applyOps base ops (if wr then ((List.range n).zip (bytesOf n new)).map (fun p => (a + p.1, p.2)) ++ ov else ov)

/-- The operations a wave reads through: its gang's layer, its workgroup's, its own (R330). -/
def State.viewOps (s : State) (wv : Wave) : List LayerOp :=
  match s.launchOf wv with
  | none => []
  | some l => (l.gangLayers.lookup wv.gang).getD [] ++ (l.wgLayers.lookup wv.wgKey).getD [] ++ wv.layer

/-- Bytes that the wave's view holds at a physical address (R330). -/
def State.readView (s : State) (wv : Wave) (pa n : Nat) : List Byte :=
  match s.launchOf wv with
  | none => []
  | some l =>
    let base := Memory.get l.snap
    let ov := applyOps base (s.viewOps wv) []
    (List.range n).map fun i => viewByte base ov (pa + i)

/-- The bytes that a unit's operations store plainly, and those that its atomics touch. -/
def plainBytes (ops : List LayerOp) : List Nat := ops.filterMap fun o => match o with | .store a _ _ _ => some a | _ => none
def atomBytes (ops : List LayerOp) : List Nat :=
  ops.flatMap fun o => match o with | .atomic _ _ a _ _ n _ _ => (List.range n).map (a + ·) | _ => []
/-- The bytes on which two units conflict (R332). -/
def clashBytes (a b : List LayerOp) : List Nat :=
  let pa := plainBytes a
  let aa := atomBytes a
  (plainBytes b).eraseDups.filter (fun x => pa.contains x || aa.contains x) ++
  (atomBytes b).eraseDups.filter fun x => pa.contains x
/-- The virtual address at which some operation of a unit reached a byte. -/
def vaOfByte (ops : List LayerOp) (x : Nat) : Nat :=
  (ops.findSome? fun o => match o with
    | .store a va _ _ => if a = x then some va else none
    | .atomic _ _ a va _ n _ _ => if a ≤ x ∧ x < a + n then some (va + (x - a)) else none).getD 0
/-- The conflicts among units in order: the index of the later unit, of the other, and the byte's virtual address in
the later one. -/
def layerConflicts (us : List (List LayerOp)) : List (Nat × Nat × Nat) :=
  (List.range us.length).flatMap fun j => (List.range j).filterMap fun i =>
    match clashBytes (us.getD i []) (us.getD j []) with
    | a :: _ => some (j, i, vaOfByte (us.getD j []) a)
    | [] => none
/-- The recovery domain under which a unit reached a byte. -/
def ckOfByte (ops : List LayerOp) (x : Nat) : Option Nat :=
  (ops.findSome? fun o => match o with
    | .store a _ ck _ => if a = x then some ck else none
    | .atomic _ _ a _ ck n _ _ => if a ≤ x ∧ x < a + n then some ck else none).getD none
/-- Units merged in order over the view they share; on a byte of conflict the later unit's view takes precedence
(R331, R332). -/
def mergeUnits (base : Nat → Byte) (under : List LayerOp) : List (List LayerOp) → List LayerOp → List LayerOp
  | [], acc => acc
  | u :: us, acc =>
    match clashBytes acc u with
    | [] => mergeUnits base under us (acc ++ u)
    | xs =>
      let own := applyOps base (under ++ u) []
      let fix := xs.map fun x => LayerOp.store x (vaOfByte u x) (ckOfByte u x) (viewByte base own x)
      mergeUnits base under us (acc ++ u ++ fix)

/-- Bytes of write-buffer area that the operations of one layer take: 128 a line, 32 an atomic (R333).  Lines are counted
by virtual address (log entry 28). -/
def bufferNeed (ops : List LayerOp) : Nat :=
  128 * (ops.filterMap fun o => match o with | .store _ va _ _ => some (va / 64) | _ => none).eraseDups.length +
  32 * (ops.filter fun o => match o with | .atomic _ _ _ _ _ _ _ _ => true | _ => false).length

/-- The write-buffer bytes of a workgroup: its merged layer and its waves' own (R333). -/
def State.wgNeed (s : State) (li : Nat) (l : Launch) (key : Nat) : Nat :=
  bufferNeed ((l.wgLayers.lookup key).getD []) +
  ((s.waves.filter fun v => v.launch == li && v.wgKey == key).map fun v => bufferNeed v.layer).foldl (· + ·) 0
/-- The write-buffer bytes of a gang: its merged layer and its workgroups'. -/
def State.gangNeed (s : State) (li : Nat) (l : Launch) (g : Nat) : Nat :=
  bufferNeed ((l.gangLayers.lookup g).getD []) +
  ((List.range l.wgCount).map fun m => s.wgNeed li l (4 * g + m)).foldl (· + ·) 0

/-- The leaf that a buffered operation is performed under. -/
def ckLeaf (ck : Option Nat) : Word64 := match ck with | none => 0 | some d => BitVec.ofNat 64 (2 ^ 5 + putAt d 52)

/-- Performs one buffered operation of a job on memory (R331). -/
def State.performOp (s : State) (p j : Nat) : LayerOp → State
  | .store a _ ck b => s.storeAt p none (some (.job j)) none false (ckLeaf ck) a [b]
  | .atomic k sg a _ ck n x c =>
    let (new, wr) := atomNew k sg n (ofBytes (Memory.read s.mem a n)) x.toNat c.toNat
    if wr then s.storeAt p none (some (.job j)) none false (ckLeaf ck) a (bytesOf n new) else s

/-- The layer of each wave position of a workgroup, in WAVEIDX order (R331). -/
def State.waveUnits (s : State) (li g m : Nat) (l : Launch) : List (List LayerOp) :=
  (List.range l.waveCount).map fun i =>
    (s.waves.filter fun v => v.launch == li && v.gang == g && v.wg == m && v.widx == i).flatMap (·.layer)

/-- What the workgroups of a gang still hold beside its gang layer: each one's layer, then its waves', in work-identifier order
(R331). -/
def State.wgUnits (s : State) (l : Nat) (x : Launch) (g : Nat) : List (List LayerOp) :=
  (List.range x.wgCount).map fun m => (x.wgLayers.lookup (4 * g + m)).getD [] ++ (s.waveUnits l g m x).flatten

/-- All operations of a gang of a deterministic launch at the final merge: its gang layer, then what its workgroups
and waves still hold, in work-identifier order (R331). -/
def State.gangOps (s : State) (l : Nat) (x : Launch) (g : Nat) : List LayerOp :=
  (x.gangLayers.lookup g).getD [] ++ (s.wgUnits l x g).flatten

/-- The conflicts of the final merge: between waves of a workgroup, between workgroups of a gang, between gangs; each with
the WID of the later unit, that of the other, and the byte's address (R332). -/
def State.finalConflicts (s : State) (l : Nat) (x : Launch) : List (Nat × Nat × Nat) :=
  let gs := List.range x.gangs.length
  (gs.flatMap fun g => (List.range x.wgCount).flatMap fun m =>
    (layerConflicts (s.waveUnits l g m x)).map fun c => (x.waveWid g m c.1, x.waveWid g m c.2.1, c.2.2)) ++
  (gs.flatMap fun g =>
    (layerConflicts (s.wgUnits l x g)).map fun c => (x.waveWid g c.1 0, x.waveWid g c.2.1 0, c.2.2)) ++
  (layerConflicts (gs.map fun g => s.gangOps l x g)).map fun c => (x.gangWid c.1, x.gangWid c.2.1, c.2.2)

end Sys2Proof.Machine
end

