-- ==== Sys2Proof/Machine/Cluster.lean ====
section
/-!
DEFINITION. Clusters: bank modes and the launch distributor's banks (05 R139; 10 R296 to R301), engine contexts and
the publication of retirements (08 R224, R232), and the end of waves and gangs (09 R286, R290; 18 R445).
-/

namespace Sys2Proof.Machine

/-! ## Banks -/

/-- The bytes of a bank in the scratch space (R298). -/
def bankBytes : Nat := 262144

/-- The effect of a mode change on a bank (R139, R297): discarded contents, a fresh bank, and leaving or joining
coherence with the last or first CACHE bank. -/
def State.setBank (s : State) (cl b : Nat) (m : BankMode) : State :=
  match s.clusters[cl]? with
  | none => s
  | some c =>
    if c.modes.getD b .cache == m then s
    else
      let modes := c.modes.set b m
      let inBank := fun (a : Nat) => a / bankBytes == b
      let s0 := if c.modes.getD b .cache == .cache then s.evictWay cl b else s
      let s1 := s0.setCluster cl fun c =>
        { c with modes := modes, scratch := c.scratch.filter fun x => !inBank x.1,
                 spoison := c.spoison.filter fun w => !inBank (8 * w), fifos := assocDel c.fifos b,
                 fpoison := c.fpoison.filter (· != b) }
      let had := c.modes.contains .cache
      let has := modes.contains .cache
      if had && !has then s1.clusterLeave cl
      else if !had && has && c.selfTest && !c.isolated then s1.clusterJoin cl
      else s1

/-- Workgroups that hold a cluster: their waves are resident there or commands of theirs have not retired (R291). -/
def State.launchOnCluster (s : State) (cl l : Nat) : Bool :=
  (s.waves.any fun v => v.launch == l && v.status == .resident && v.cluster == cl) ||
  (match s.clusters[cl]? with | some c => c.regions.any fun r => r.launch == l | none => false)

/-- A bank reserved to a launch other than `l` on a cluster (R300); `l` none asks for any launch. -/
def State.bankReserved (s : State) (cl b : Nat) : Bool :=
  (List.range s.launches.length).any fun i =>
    s.launchOnCluster cl i && (match s.launches[i]? with | some x => bitOf x.banks b | none => false) ||
    (match s.clusters[cl]? with | some c => c.changed.contains (b, i) && s.launchOnCluster cl i | none => false)

/-- A region lies in a bank. -/
def Region.inBank (r : Region) (b : Nat) : Bool :=
  decide (0 < r.size + r.area) && decide (r.wsb < bankBytes * (b + 1)) && decide (bankBytes * b < r.wsb + r.size + r.area)

/-- The lowest WSB at which n banks in a row are in SCRATCH, hold no region and are not reserved (R299). -/
def State.findRegion (s : State) (cl n : Nat) : Option Nat :=
  match s.clusters[cl]? with
  | none => none
  | some c =>
    let ok := fun (b : Nat) => c.modes.getD b .cache == .scratch && b < c.modes.length &&
      !s.bankReserved cl b && !c.regions.any fun r => r.inBank b
    ((List.range c.modes.length).find? fun b => (List.range n).all fun k => ok (b + k)).map (· * bankBytes)

/-- R300: converts managed CACHE banks to SCRATCH, highest first, until a region of n banks fits. -/
def State.convertFor (s : State) (cl n : Nat) : List Nat → Option (State × Nat)
  | [] => none
  | b :: bs =>
    let c := s.clusters.getD cl (Cluster.reset cl)
    let convertible := c.modes.getD b .cache == .cache && !s.bankReserved cl b && !(c.locks.any fun k => k.bank == b)
    let s1 := if convertible then s.setBank cl b .scratch else s
    match s1.findRegion cl n with
    | some a => some (s1, a)
    | none => s1.convertFor cl n bs

/-- Places a region of `bytes` bytes: its WSB, converting banks where needed (R299, R300). -/
def State.placeRegion (s : State) (cl bytes : Nat) : Option (State × Nat) :=
  let n := (bytes + bankBytes - 1) / bankBytes
  if n = 0 then some (s, 0)
  else match s.findRegion cl n with
  | some a => some (s, a)
  | none => s.convertFor cl n (List.range (bankCount cl)).reverse

/-- R300: returns managed SCRATCH banks that hold no region to CACHE, and drops the marks of launches that have left. -/
def State.returnBanks (s : State) (cl : Nat) : State :=
  let s0 := s.setCluster cl fun c => { c with changed := c.changed.filter fun x => s.launchOnCluster cl x.2 }
  (List.range (bankCount cl)).foldl (fun st b =>
    let c := st.clusters.getD cl (Cluster.reset cl)
    if c.modes.getD b .cache == .scratch && !st.bankReserved cl b && !(c.regions.any fun r => r.inBank b) &&
        !(c.locks.any fun k => k.bank == b)
    then st.setBank cl b .cache else st) s0

/-! ## Engine contexts -/

/-- The value of a timeline counter of a launch (R224, R367). -/
def State.tlcVal (s : State) (l c : Nat) : Nat :=
  match s.launches[l]? with
  | none => 0
  | some x =>
    let src := x.tlcsrc c
    if src = 0 then (x.tlc.toList.getD c 0).toNat
    else match s.streams[src - 1]? with | some p => p.prod.toNat | none => 0

/-- Adds to a timeline counter of a launch. -/
def State.tlcAdd (s : State) (l c n : Nat) : State :=
  s.setLaunch l fun x => { x with tlc := Vector.ofFn fun i => if i.val = c then x.tlc[i] + BitVec.ofNat 64 n else x.tlc[i] }

/-- A command that has not retired. -/
def Cmd.live (c : Cmd) : Bool := c.st != .retired
/-- A command that still has work to do. -/
def Cmd.unfinished (c : Cmd) : Bool := c.st != .retired && c.st != .finished

/-- Publishes the retirement of command k when every command accepted before it on its counter has been published:
TLC := TLC + 1 (R224). -/
def State.publishOne (s : State) (k : Nat) : State :=
  match s.cmds[k]? with
  | none => s
  | some c =>
    if c.st == .finished && (s.cmds.take k).all fun d => !(d.launch == c.launch && d.tick == c.tick && d.live) then
      (s.setCmd k fun x => { x with st := .retired }).tlcAdd c.launch c.tick 1
    else s

/-- A command retires with its code; one that is not KILLED leaves TRACE on its gang (R446). -/
def State.traceCmd (s : State) (c : Cmd) : State :=
  if c.code = 7 then s else s.setGang c.launch c.gang fun g => { g with trace := true }

/-- Publishes every retirement that can be published, in acceptance order. -/
def State.publish (s : State) : State := (List.range s.cmds.length).foldl State.publishOne s

/-- STATUS of R228. -/
def statusWord (code detail count : Nat) : Nat := code % 256 + putAt (detail % 256) 8 + putAt (count % 2 ^ 32) 16

/-- The partition of a launch. -/
def State.partOf (s : State) (l : Nat) : Nat := match s.launches[l]? with | some x => x.part | none => 0

/-- A command with a descriptor whose STATUS field is written (R227, R228): not `lr.flush`, no record. -/
def Cmd.hasStatus (c : Cmd) : Bool :=
  match c.word with
  | .lrFlush _ => false
  | .mxPost _ => false
  | _ => true

/-- The holder of a cluster's cache. -/
def clHolder (cl : Nat) : Option Holder := some (.cluster cl)
/-- The holder that serves a wave's accesses: its cluster's cache while that takes part in coherence (R340). -/
def State.holderOf (s : State) (cl : Nat) : Option Holder := if s.joinedIn (.cluster cl) then clHolder cl else none
/-- Whom the accesses of a launch's waves and commands are charged to: its job (R399). -/
def State.chargeOf (s : State) (l : Nat) : Option Charge := (s.launches[l]?).map fun x => .job x.job

/-- Writes STATUS of a command; the error of its translation or of a poisoned line (R228). -/
def State.writeStatus (s : State) (c : Cmd) : Except (Nat × Bool × Nat) State :=
  if c.hasStatus then
    s.writeVA (s.partOf c.launch) (clusterAgents c.cl) false (s.holderOf c.cl) (s.chargeOf c.launch) (c.daddr + 16)
      (bytesOf 8 (statusWord c.code c.detail c.count))
  else .ok s

/-- The locks and lock requests of a command end, in whichever clusters they lie (R310, R311). -/
def State.freeLocks (s : State) (k : Nat) : State :=
  { s with clusters := s.clusters.map fun x =>
      { x with locks := x.locks.filter fun l => l.cmd != k, lockReqs := x.lockReqs.filter fun l => l.1 != k } }

/-- A command as the reader of its reads (R401). -/
def Cmd.reader (c : Cmd) : Reader := .cmd (c.wave * 2 ^ 64 + c.seq)

/-- Frees what a command holds: locks, lock requests, row-progress registers, its fault token and its held reads (R310,
R401, R420, R422). -/
def State.releaseCmd (s : State) (k : Nat) : State :=
  match s.cmds[k]? with
  | none => s
  | some c =>
    let s1 := (s.freeLocks k).setCluster c.cl fun x => { x with rowprog := x.rowprog.filter fun r => r.cmd != k }
    (s1.setPart (s.partOf c.launch) fun p => { p with faults := p.faults.filter fun f => f.cmd != k }).dropReads
      fun r => r == c.reader

/-- The accumulator region of a record: first element and count (R243). -/
def Cmd.region (c : Cmd) : Nat × Nat :=
  let d := c.desc.toNat
  (field d 128 16, (field d 64 8 + 1) * (field d 72 8 + 1))
/-- OP of a record. -/
def Cmd.op (c : Cmd) : Nat := field c.desc.toNat 0 8
/-- A record with an accumulator region: `mm`, `mmz`, `cvacc`, and every `ewise` but CONVERT (R243, R248). -/
def Cmd.hasRegion (c : Cmd) : Bool :=
  c.eng == .tsq && (c.op == 1 || c.op == 2 || c.op == 3 || (c.op == 4 && field c.desc.toNat 120 8 != 0))
/-- A tile-sequencer record. -/
def Cmd.isRecord (c : Cmd) : Bool := c.eng == .tsq

/-- An accumulator element of a cluster; unlisted elements are zero. -/
def Cluster.acmGet (c : Cluster) (i : Nat) : Nat := ((c.acm.lookup i).getD 0).toNat
/-- Zeroes accumulator elements lo to lo + n - 1. -/
def State.acmZero (s : State) (cl lo n : Nat) : State :=
  s.setCluster cl fun c => { c with acm := c.acm.filter fun e => !(decide (lo ≤ e.1) && decide (e.1 < lo + n)) }
/-- Writes an accumulator element; zero elements are not listed. -/
def State.acmSet (s : State) (cl i v : Nat) : State :=
  s.setCluster cl fun c =>
    let rest := assocDel c.acm i
    { c with acm := if v % 2 ^ 32 = 0 then rest else (i, BitVec.ofNat 32 v) :: rest }

/-- A traversal command advances TAIL over its last records when it ends (R256). -/
def State.killTail (s : State) (c : Cmd) : State :=
  match c.tv with
  | some t =>
    if t.tail = 0 then s
    else
      let at_ := field c.desc.toNat 384 64 + 24
      let s1 := match s.writeVA (s.partOf c.launch) (clusterAgents c.cl) false (s.holderOf c.cl) (s.chargeOf c.launch) at_ (bytesOf 8 t.qtail) with
        | .ok x => x
        | .error _ => s
      (match t.tlc with | some i => s1.tlcAdd c.launch i t.tail | none => s1)
  | none => s

/-- Kills one command: it stops, its record's region reads zero, STATUS says KILLED; a STATUS write whose translation
fails waits for its retirement (R228, R232, R445 step 3). -/
def State.killCmd (s : State) (k : Nat) : State :=
  match s.cmds[k]? with
  | none => s
  | some c =>
    if !c.unfinished then s
    else
      let s1 := s.releaseCmd k
      let s2 := if c.hasRegion then s1.acmZero c.cl c.region.1 c.region.2 else s1
      let c2 := { c with code := 7, detail := 0 }
      let s2 := s2.killTail c
      let ended := fun (st : State) => st.setCmd k fun x => { x with code := 7, detail := 0, st := .finished, out := [] }
      match s2.writeStatus c2 with
      | .ok s3 => ended s3
      | .error (cause, _, _) =>
        if cause = 0x0E then ended s2
        else s2.setCmd k fun x =>
          { x with code := 7, detail := 0, st := .started, begun := true, ran := true, wstat := true, todo := [], out := [] }

/-! ## The end of a wave and of a gang -/

/-- The physical lines of a wave's private memory and stack area, where they translate (R287, R305). -/
def State.allocLines (s : State) (v : Wave) (l : Launch) : List Nat :=
  (pieces (l.privWave + 1) (l.priv + v.priv * l.privWave) l.privWave).flatMap fun pc =>
    match s.xlate l.part (coreAgents v.core) pc.1 with
    | .ok pa _ _ _ => linesOf pa pc.2
    | .fault _ _ => []

/-- R289, R290, R307: a wave's private memory and stack area go from its L1 and its cluster's cache without write-back. -/
def State.dropAlloc (s : State) (w : Nat) : State :=
  match s.waves[w]? with
  | none => s
  | some v =>
    match s.launches[v.launch]? with
    | none => s
    | some l => if l.privWave = 0 then s else (s.allocLines v l).foldl (fun st ln => st.discardLine v.cluster v.core ln) s

/-- R290: a wave's resources are released: its registers, pending results, grants, reads that wait for a regulator, and its
private memory. -/
def State.endWave (s0 : State) (w : Nat) : State :=
  let s := (s0.dropAlloc w).dropReads fun r => match r with | .frag x _ => x == w | _ => false
  let s1 := s.setWave w fun v =>
    { v with status := .retired, frag0 := none, frag1 := none, split := none, pend := [], pendTrap := none,
             deferred := [], vregs := [], sregs := [], hmode := false, recess := false, epochOpen := false }
  { s1 with grants := s1.grants.filter fun g => g.wave != w }

/-- Drops the cluster saves of a launch that no recessed gang needs any more, but for those of a recess under way. -/
def State.dropSaves (s : State) (l : Nat) : State :=
  s.setLaunch l fun x =>
    let n := match s.inst? x.job with | some i => i.recesses | none => 0
    { x with csaves := x.csaves.filter fun c => decide (n ≤ c.key / 64) || x.gangs.any fun g => g.savedOn.contains c.key }

/-- Steps 1 to 6 of R445 on a gang: its fragments, commands and records end, its grants close, its regions are
released and its layers are discarded. -/
def State.killGang (s : State) (l g : Nat) : State :=
  let ws := (List.range s.waves.length).filter fun w =>
    match s.waves[w]? with | some v => v.launch == l && v.gang == g && v.status != .retired | none => false
  let ks := (List.range s.cmds.length).filter fun k =>
    match s.cmds[k]? with | some c => c.launch == l && c.gang == g && c.unfinished | none => false
  let drop := fun (v : Wave) => if v.launch == l && v.gang == g then { v with layer := [] } else v
  let s0 := ws.foldl State.endWave s
  let s1 : State := { s0 with waves := s0.waves.map drop }
  let s2 := (ks.foldl State.killCmd s1).publish
  let freed := fun (c : Cluster) => { c with regions := c.regions.filter fun r => !(r.launch == l && r.wg / 4 == g) }
  let s3 := { s2 with clusters := s2.clusters.map freed }
  let s4 := s3.setLaunch l fun x =>
    { x with wgLayers := x.wgLayers.filter fun e => e.1 / 4 != g, gangLayers := x.gangLayers.filter fun e => e.1 != g,
             sets := x.sets.filter fun e => !ws.contains e.wave,
             serial := match x.serial with | some (k, _) => if k / 4 == g then none else x.serial | none => none }
  (s4.setGang l g fun x => { x with placed := false, recessed := false, saved := [], savedOn := [] }).dropSaves l

end Sys2Proof.Machine
end

