-- ==== Sys2Proof/Machine/Sched.lean ====
section
/-!
DEFINITION. The Timetable: admission (14 R364 to R371), releases and instances (R372, R373), the decision (R374),
recess requests (R375 to R377), retirement (09 R290, R291; 14 R373), containment and relaunch (18 R445 to R447), and
the placement of gangs (09 R292, R293; 10 R299, R305; 14 R380).
-/

namespace Sys2Proof.Machine

/-! ## Admission -/

/-- The lengths of the runs of banks that a launch's BANKS mask leaves managed, in a cluster of n banks (R300). -/
def managedRuns (banks n : Nat) : List Nat :=
  let r := (List.range n).foldl (fun (acc : List Nat × Nat) b =>
    if bitOf banks b then (if acc.2 = 0 then acc.1 else acc.2 :: acc.1, 0) else (acc.1, acc.2 + 1)) ([], 0)
  if r.2 = 0 then r.1 else r.2 :: r.1

/-- Banks that a workgroup's region and set area take (R298, R299, R327). -/
def regionBanks (r : Nat) : Nat :=
  (regionSize (field r 960 32) + setAreaSize (bitOf r 397) + bankBytes - 1) / bankBytes

/-- Banks of the cluster kind against which a pool is judged (R365). -/
def poolBanks (pool : Nat) : Nat := if pool = 0 then 32 else 16

/-- How many workgroups of a launch record an empty cluster of the pool's kind holds (R365). -/
def wgPerCluster (r pool : Nat) : Nat :=
  let w := extProd r 1 (field r 391 3)
  let vc := field r 408 8
  let sc := field r 416 8
  let perCore := if w = 0 then 0 else min (32 / w) (min (1024 / (w * vc)) (2048 / (w * sc)))
  let n := regionBanks r
  let fit := if n = 0 then 4 * perCore else ((managedRuns (field r 1120 32) (poolBanks pool)).map (· / n)).foldl (· + ·) 0
  min (4 * perCore) fit

/-- The clusters of the pool's kind that a 2 × 2 block of the mesh holds: four M-clusters, or two G-clusters, whose columns
are not neighbours (R12, R293). -/
def blockClusters (pool : Nat) : Nat := if pool = 0 then 4 else 2

/-- R365: the progress check. -/
def progressOk (r pool clmax : Nat) : Bool :=
  let m := extProd r (field r 391 3) (field r 394 3)
  let w := extProd r 1 (field r 391 3)
  let c := wgPerCluster r pool
  let gangs := gridGangs r
  let b := blockClusters pool
  if field r 384 2 = 0 then
    decide (gangs ≤ clmax / b * (b * c / m) + clmax % b * c / m) && decide (gangs * m * w ≤ field r 1088 32)
  else decide (m ≤ c) && decide (m * w ≤ field r 1088 32)

/-- The tests of R364 on a launch record, each with the 64-bit word that it names; `part` owns the queue. -/
def State.recordFaults (s : State) (card : BitVec 1024) (part r : Nat) : List (Nat × Bool) :=
  let rmode := field r 386 2
  let n := field r 388 3
  let g := field r 391 3
  let h := field r 394 3
  let ws := (List.range n).map (widthOf r)
  let sum := fun (lo hi : Nat) => ((((List.range hi).drop lo).map (widthOf r)).foldl (· + ·) 0 : Nat)
  let widOk := 1 ≤ n && n ≤ 6 && 1 ≤ g && g ≤ h && h ≤ n
  let predPart := match s.parts[part]? with | some x => x.qmask.getLsbD (field r 1536 6) | none => false
  [(0, field r 0 64 % 8 != 0), (1, field r 64 64 % 8 != 0),
   (6, field r 384 2 == 3), (6, rmode == 3), (6, rmode != cardRmode card), (6, !widOk), (6, field r 402 6 != 0),
   (6, !(1 ≤ field r 408 8 && field r 408 8 ≤ 136)), (6, !(1 ≤ field r 416 8 && field r 416 8 ≤ 72)),
   (6, field r 424 13 % 16 != 0 || 4096 < field r 424 13), (6, field r 437 11 != 0),
   (6, bitOf r 398 && rmode != 2), (6, field r 64 64 == 0 && rmode != 2),
   (7, if rmode = 0 then decide (cardMaxsp card < field r 448 32) else field r 448 32 != 0),
   (7, rmode != 2 && field r 480 32 != 0),
   (8, widOk && (widthOf r 0 != 5 || ws.any (fun w => w == 0 || 59 < w) || 64 < sum 0 n || 5 < sum 1 g || 2 < sum g h)),
   (8, field r 548 28 != 0)] ++
  ((List.range 6).map fun i =>
    (9 + i, if i < n then extentOf r i == 0 || decide (2 ^ widthOf r i < extentOf r i) || (i == 0 && 32 < extentOf r 0)
            else extentOf r i != 0)) ++
  [(15, decide (poolBanks (cardPool card) < regionBanks r)), (15, field r 992 32 % 4 != 0),
   (16, field r 1024 64 % 128 != 0),
   (17, !((managedRuns (field r 1120 32) (poolBanks (cardPool card))).any fun k => regionBanks r ≤ k) && regionBanks r != 0),
   (18, field r 1152 64 % 64 != 0), (19, field r 1240 40 != 0),
   (22, field r 1440 32 != 0), (24, bitOf r 1542 && !predPart), (24, field r 1543 57 != 0),
   (25, field r 1600 64 % 64 != 0),
   (26, 16 < field r 1664 5 || (field r 1600 64 == 0 && field r 1664 5 != 0)), (26, field r 1669 59 != 0),
   (27, (List.range 16).any fun i => 0xC < field r (1728 + 4 * i) 4), (28, field r 1792 64 % 4096 != 0),
   (29, 65536 < field r 1872 17 || 65536 < field r 1856 16 + field r 1872 17), (29, field r 1889 31 != 0),
   (30, field r 1920 64 != 0), (31, field r 1984 64 != 0)]

/-- R364: the first faulty word of a launch record, 0xFFFD for the progress check, none for a record in order. -/
def State.checkRecord (s : State) (card : BitVec 1024) (part r : Nat) : Option Nat :=
  match (s.recordFaults card part r).find? fun x => x.2 with
  | some x => some x.1
  | none => if progressOk r (cardPool card) (cardClmax card) then none else some 0xFFFD

/-- R368: a declared region that breaks its table.  A dimension within ND may have extent 0, and the region no byte. -/
def regionFaulty (d : Nat) : Bool :=
  let nd := field d 65 2
  field d 56 8 != 0 || field d 67 29 != 0 || field d 96 32 == 0 || field d 416 96 != 0 ||
  (List.range 3).any fun i =>
    let k := i + 1
    nd < k && (field d (96 + 32 * k) 32 != 0 || field d (160 + 64 * k) 64 != 0)

/-- The first bytes of the rows of a declared region (R368). -/
def regionRows (d : Nat) : List Int :=
  let ext := fun (k : Nat) => if field d 65 2 < k then 1 else field d (96 + 32 * k) 32
  let str := fun (k : Nat) => sgn 64 (field d (160 + 64 * k) 64)
  (List.range (ext 3)).flatMap fun (i3 : Nat) => (List.range (ext 2)).flatMap fun (i2 : Nat) =>
    (List.range (ext 1)).map fun (i1 : Nat) =>
    (field d 0 64 : Int) + (i1 : Int) * str 1 + (i2 : Int) * str 2 + (i3 : Int) * str 3

/-- R369: two declared regions share a byte and one of them is written. -/
def regionsMeet (a b : Nat) : Bool :=
  (bitOf a 64 || bitOf b 64) && (regionRows a).any fun x => (regionRows b).any fun y =>
    decide (x < y + (field b 96 32 : Int)) && decide (y < x + (field a 96 32 : Int))

/-- R369: launch record b is ordered after the earlier launch a. -/
def orderedAfter (a b : List (BitVec 512)) : Bool :=
  a.isEmpty || b.isEmpty || a.any fun x => b.any fun y => regionsMeet x.toNat y.toNat

/-- An unplaced gang. -/
def Gang.fresh : Gang where
  cls := []
  placed := false
  recessed := false
  done := false
  wgsDone := []
  relaunches := 0
  trace := false
  saved := []
  savedOn := []

/-- A newly admitted launch or task (R367). -/
def Launch.admitted (part job q entry : Nat) (record : BitVec 2048) (declared : List (BitVec 512)) (task : Bool)
    (gangs : Nat) (after : List Nat) : Launch where
  part := part
  job := job
  q := q
  entry := entry
  record := record
  declared := declared
  task := task
  tlc := Vector.replicate 16 0
  acnt := Vector.replicate 16 0
  gangs := List.replicate gangs Gang.fresh
  after := after
  retired := false
  killed := false
  started := false
  snap := []
  snapTaken := false
  wgLayers := []
  gangLayers := []
  sets := []
  csaves := []
  serial := none

/-- Reads the declared regions of a record: their records, or the index of the first faulty one (R368). -/
def State.readRegions (s : State) (part r : Nat) : Except Nat (List (BitVec 512)) :=
  (List.range (field r 1664 5)).foldl (fun acc i =>
    match acc with
    | .error e => .error e
    | .ok ds =>
      match s.readVA part dmaAgents false (field r 1600 64 + 64 * i) 64 with
      | .error _ => .error i
      | .ok bs => if regionFaulty (ofBytes bs) then .error i else .ok (ds ++ [BitVec.ofNat 512 (ofBytes bs)])) (.ok [])

/-- The owner partition of a queue: the partition whose QMASK names it (R388). -/
def State.queuePart (s : State) (q : Nat) : Option Nat :=
  (List.range 64).find? fun p => match s.parts[p]? with | some x => x.en && x.qmask.getLsbD q | none => false

/-- The Timetable takes one token of the line of TAIL of an enabled queue (R359). -/
def State.watchTail (s : State) (q part : Nat) : State :=
  let qe := s.qtab.getD q QEntry.reset
  if qe.en then s.watchLine part (qe.hdr.toNat + 24) else s

/-- The Timetable is done with an entry: HEAD in memory, whose line it goes on watching, and in its own count (R359). -/
def State.writeHead (s : State) (q part head : Nat) : State :=
  let qe := s.qtab.getD q QEntry.reset
  let s1 := match s.writeVA part dmaAgents false none none ((qe.hdr.toNat + 16) % 2 ^ 64) (bytesOf 8 head) with
    | .ok x => x.watchTail q part
    | .error _ => s
  s1.setQ q fun x => { x with head := head }

/-- An entry counts as retired without having run: DONE and the instance's count (R358, R364). -/
def State.countDone (s : State) (q j : Nat) : State :=
  (s.setQ q fun x => { x with done := x.done + 1 }).setInst j fun i => { i with done := i.done + 1 }

/-- The watchdog of job j's instance counts from now (R384). -/
def State.restartWatch (s : State) (j : Nat) : State :=
  s.setInst j fun x => { x with progress := s.now, elapsed := 0 }

/-- Admits or rejects the next owned entry of job j's instance, or passes one that an abort has discarded (R359, R364, R366,
R367).  A launch, not a task, restarts the watchdog (R384). -/
def State.admitOne (s : State) (j : Nat) : State :=
  match s.inst? j with
  | none => s
  | some i =>
    let q := cardQueue i.card
    let part := cardPart i.card
    let qe := s.qtab.getD q QEntry.reset
    let e := i.next
    let size := if qe.kind then 32 else 256
    let bytes : Option (List Byte) := match s.ring part qe.hdr.toNat with
      | none => none
      | some r =>
        match s.readVA part dmaAgents false ((r.base + size * (e % r.cap)) % 2 ^ 64) size with
        | .ok bs => some bs
        | .error _ => none
    let s1 := (s.setInst j fun x => { x with next := e + 1 }).writeHead q part (e + 1)
    let reject := fun (d : Nat) => (s1.raiseJob j 1 0 0 e d 0 s.now).countDone q j
    if qe.dropped.contains e then s1.setQ q fun x => { x with dropped := x.dropped.filter fun d => d != e }
    else match bytes with
    | none => reject 0xFFFE
    | some bs =>
      let rec_ : BitVec 2048 := if qe.kind then qe.tmpl else BitVec.ofNat 2048 (ofBytes bs)
      match (if qe.kind then none else s.checkRecord i.card part rec_.toNat) with
      | some w => reject w
      | none =>
        match (if qe.kind then .ok [] else s.readRegions part rec_.toNat) with
        | .error k => reject (0x100 + k)
        | .ok ds =>
          let gangs := if qe.kind then 1 else gridGangs rec_.toNat
          let after := if qe.kind then [] else (List.range s.launches.length).filter fun a =>
            match s.launches[a]? with
            | some x => x.q == q && !x.task && !x.retired && orderedAfter x.declared ds
            | none => false
          let l := Launch.admitted part j q e rec_ ds qe.kind gangs after
          let s2 : State := { s1 with launches := s1.launches ++ [l] }
          let s3 := s2.setInst j fun x => { x with wgTotal := x.wgTotal + gangs * l.wgCount }
          (if qe.kind then s3 else s3.restartWatch j).setJob j fun x => { x with lastCkctl := l.ckctl }

/-- Admits the owned entries that wait, at most n of them; none after a record that overflowed the hold (R383). -/
def State.admitMany (s : State) (j : Nat) : Nat → State
  | 0 => s
  | n + 1 =>
    match s.inst? j with
    | none => s
    | some i =>
      let over_ := match s.job? j with | some x => x.overflow | none => false
      if over_ then s
      else if i.next < i.hi then (s.admitOne j).admitMany j n
      else if i.spawned.contains i.hi then
        ((s.setInst j fun x => { x with hi := x.hi + 1, spawned := x.spawned.filter fun e => e != x.hi }).admitOne j).admitMany j n
      else s

/-- Admits what the instance may admit now: launches when it is READY or later, tasks while it runs (R359). -/
def State.admitOwned (s : State) (j : Nat) : State :=
  match s.inst? j with
  | none => s
  | some i =>
    let qe := s.qtab.getD (cardQueue i.card) QEntry.reset
    let fenced := match s.parts[cardPart i.card]? with | some x => x.fenced | none => false
    if !qe.en || fenced || qe.overCap || s.ttDown then s
    else if qe.kind && !(i.st == .running || i.st == .recessing) then s
    else s.admitMany j (i.hi - i.next + i.spawned.length)

/-! ## Releases -/

/-- The job whose card names a queue (R362). -/
def State.queueJob (s : State) (q : Nat) : Option Nat :=
  (s.jobs.find? fun e => e.2.loaded && cardQueue e.2.card == q).map (·.1)

/-- The first entry after those that an instance owns in a row; spawned entries are listed as they rise. -/
def Instance.top (i : Instance) : Nat := i.spawned.foldl (fun h e => if e = h then h + 1 else h) i.hi

/-- The first entry of a queue that no instance owns (R372). -/
def State.unowned (s : State) (q j : Nat) : Nat :=
  let qe := s.qtab.getD q QEntry.reset
  let a := match s.inst? j with | some i => i.top | none => 0
  let b := match s.job? j with
    | some x => (x.deferred.map fun d => match d.own with | some o => if o.1 < o.2 then o.2 else 0 | none => 0).foldl max 0
    | none => 0
  max qe.head (max a b)

/-- A decision is due (R374). -/
def State.due (s : State) : State := { s with undecided := true }

/-- Starts the instance of a release with entries lo to hi - 1 at a device time; one that owns none completes then (R372). -/
def State.startInst (s : State) (j : Nat) (d : Deferred) (lo hi time : Nat) : State :=
  if hi ≤ lo then s.due.journal (cardPart d.card) 102 0x03 (jobPayload j d.deadline) time
  else
    let i : Instance :=
      { job := j, st := .ready, release := d.release, deadline := d.deadline, card := d.card, lo := lo, hi := hi,
        spawned := [], next := lo, done := 0, wgDone := 0, wgTotal := 0, recesses := 0, reqTime := none, bound := 0, cause := none,
        progress := s.now, elapsed := 0, missed := d.missed }
    ({ s with insts := s.insts ++ [i], undecided := true } : State).admitOwned j

/-- Deferred releases of job j that own nothing yet take the entries up to TAIL, in their order (R359, R372). -/
def State.takeOwnership (s : State) (q j : Nat) : Nat → State
  | 0 => s
  | n + 1 =>
    match s.job? j with
    | none => s
    | some jb =>
      match jb.deferred.findIdx? fun d => d.own.isNone with
      | none => s
      | some k =>
        let lo := s.unowned q j
        let hi := max lo (s.qtab.getD q QEntry.reset).tail
        (s.setJob j fun x => { x with deferred := x.deferred.modify k fun d => { d with own := some (lo, hi) } }).takeOwnership q j n

/-- Re-reads TAIL of a queue, and watches its line; reports once each time the count goes over CAP; a read that finds the
count within CAP gives the releases deferred for it their entries (R359, R372). -/
def State.readTail (s : State) (q : Nat) : State :=
  let qe := s.qtab.getD q QEntry.reset
  match s.queuePart q with
  | none => s
  | some p =>
    match s.ring p qe.hdr.toNat with
    | none => s
    | some r =>
      let past := decide (r.cap + qe.head < r.tail)
      let s1 := (s.setQ q fun x => { x with tail := r.tail, overCap := past }).watchTail q p
      match s.queueJob q with
      | some j =>
        if past then (if qe.overCap then s1 else s1.raiseJob j 1 0 0 noSeq 0xFFFF 0 s.now)
        else s1.takeOwnership q j (match s1.job? j with | some x => x.deferred.length | none => 0)
      | none => s1

/-- A release of job j at a device time: its instance starts, or waits for the one before it, whose watchdog starts again,
or waits for TAIL - HEAD to come within CAP (R372, R373, R359, R384).  The Timetable decides at every release (R374). -/
def State.release (s : State) (j rel : Nat) : State :=
  match s.job? j with
  | none => s
  | some jb =>
    if !jb.loaded then s
    else
      let q := cardQueue jb.card
      let dl := rel + cardDeadline jb.card
      let s0 := ((s.journal (cardPart jb.card) 102 0x02 (jobPayload j dl) rel).restartWatch j).due
      let s1 := if (s.qtab.getD q QEntry.reset).en then s0.readTail q else s0
      let qe := s1.qtab.getD q QEntry.reset
      let lo := s1.unowned q j
      let hi := if qe.en then max lo qe.tail else lo
      let d : Deferred := { release := rel, deadline := dl, card := jb.card, own := some (lo, hi), missed := false,
                            aborted := false }
      if qe.en && qe.overCap then s1.setJob j fun x => { x with deferred := x.deferred ++ [{ d with own := none }] }
      else if (s1.inst? j).isSome || !jb.deferred.isEmpty then
        s1.setJob j fun x => { x with deferred := x.deferred ++ [d] }
      else s1.startInst j d lo hi rel

/-- Starts deferred releases while the job holds no instance; at most n of them (R373, R359).  HEAD passes the entries
of one that was aborted while it waited. -/
def State.startDeferred (s : State) (j : Nat) : Nat → State
  | 0 => s
  | n + 1 =>
    match s.job? j, s.inst? j with
    | some jb, none =>
      match jb.deferred with
      | [] => s
      | d :: rest =>
        let q := cardQueue d.card
        let s1 := s.setJob j fun x => { x with deferred := rest }
        match d.own with
        | some (lo, hi) =>
          if d.aborted then ((if lo < hi then s1.writeHead q (cardPart d.card) hi else s1)).startDeferred j n
          else (s1.startInst j d lo hi s.now).startDeferred j n
        | none => s
    | _, _ => s

/-- An instance completes: its request is withdrawn, its clusters are freed, and a release that waited for it starts
(R373, R375). -/
def State.completeInst (s : State) (j : Nat) : State :=
  match s.inst? j with
  | none => s
  | some i =>
    let s1 := s.journal (cardPart i.card) 102 0x03 (jobPayload j i.deadline) s.now
    let ofJob := fun (v : Wave) => match s.launches[v.launch]? with | some l => l.job == j | none => false
    let s2 : State := { s1 with
      undecided := true,
      insts := s1.insts.filter fun e => e.job != j,
      waves := s1.waves.map fun v => if ofJob v then { v with recess := false } else v,
      clusters := s1.clusters.map fun c => if c.job == some j then { c with job := none } else c }
    s2.startDeferred j (match s2.job? j with | some x => x.deferred.length | none => 0)

/-- Launches of a job that have not retired, by index. -/
def State.jobLaunches (s : State) (j : Nat) : List Nat :=
  (List.range s.launches.length).filter fun l =>
    match s.launches[l]? with | some x => x.job == j && !x.retired | none => false

/-- Kills every gang of a job and drops its launches as retired (R381, R446). -/
def State.killJob (s : State) (j : Nat) : State :=
  (s.jobLaunches j).foldl (fun st l =>
    match st.launches[l]? with
    | none => st
    | some x =>
      let st1 := (List.range x.gangs.length).foldl (fun t g => t.killGang l g) st
      ((st1.setLaunch l fun y => { y with retired := true, killed := true }).countDone x.q j)) s

/-- An instance is aborted: gangs killed, owned entries not yet admitted discarded as retired, EVENT 0x02, complete
(R381, R446).  HEAD does not pass an entry that nothing owns, so one that lies before spawned entries is left, and they are
passed over later. -/
def State.abortInst (s : State) (j : Nat) : State :=
  match s.inst? j with
  | none => s
  | some i =>
    let q := cardQueue i.card
    let s1 := s.killJob j
    let rest := i.hi - i.next
    let gone := fun (x : QEntry) =>
      { x with done := x.done + BitVec.ofNat 64 (rest + i.spawned.length), dropped := x.dropped ++ i.spawned }
    let s2 := if rest = 0 then s1.setQ q gone else (s1.setQ q gone).writeHead q (cardPart i.card) i.hi
    ((s2.raiseJob j 2 0 0 i.firstSeq 0 0 s.now)).completeInst j

/-- A deferred release of job j ends aborted before it starts: its entries count as retired (R373, R450). -/
def State.abortDeferred (s : State) (j k : Nat) : State :=
  match (s.job? j).bind fun x => x.deferred[k]? with
  | none => s
  | some d =>
    if d.aborted then s
    else
      let (lo, hi) := d.own.getD (0, 0)
      let rec_ := exRecord 2 0 j (cardPart d.card) (cardQueue d.card) 0 s.now d.release d.deadline
        (if lo < hi then lo else noSeq) 0 0 0 0
      let s1 := (s.deliver j d.card rec_ s.now).setQ (cardQueue d.card) fun x =>
        { x with done := x.done + BitVec.ofNat 64 (hi - lo) }
      (s1.setJob j fun x =>
        { x with deferred := x.deferred.modify k fun y => { y with own := some (lo, hi), missed := true, aborted := true } }).journal
          (cardPart d.card) 102 0x03 (jobPayload j d.deadline) s.now

/-- The deadline test of the instance of job j at device time t; the count of recesses saturates (R381, R439). -/
def State.missInst (s : State) (t j : Nat) : State :=
  match s.inst? j with
  | none => s
  | some i =>
    if i.missed || t < i.deadline then s
    else
      let m := cardMiss i.card
      let s1 := (s.setInst j fun x => { x with missed := true }).raiseJob j 0 0x12 m i.firstSeq (min i.recesses (2 ^ 64 - 1)) 0
        i.deadline
      if m = 1 then s1.abortInst j
      else if m = 2 then s1.setJob j fun x => { x with skipNext := true }
      else s1

/-- The deadline test of a deferred release at device time t (R381). -/
def State.missDeferred (s : State) (t j k : Nat) : State :=
  match (s.job? j).bind fun x => x.deferred[k]? with
  | none => s
  | some d =>
    if d.missed || t < d.deadline then s
    else
      let m := cardMiss d.card
      let (lo, hi) := d.own.getD (0, 0)
      let rec_ := exRecord 0 0x12 j (cardPart d.card) (cardQueue d.card) m d.deadline d.release d.deadline
        (if lo < hi then lo else noSeq) 0 0 0 0
      let s1 := (s.setJob j fun x => { x with deferred := x.deferred.modify k fun y => { y with missed := true } }).deliver j
        d.card rec_ d.deadline
      if m = 1 then s1.abortDeferred j k
      else if m = 2 then s1.setJob j fun x => { x with skipNext := true }
      else s1

/-- The deadline tests of a job: its instance, then the releases that wait (R374, R381). -/
def State.missJob (s : State) (t j : Nat) : State :=
  let n := match s.job? j with | some x => x.deferred.length | none => 0
  ((List.range n).foldl (fun st k => st.missDeferred t j k) (s.missInst t j)).missInst t j

/-- The deadline tests of every job at device time t. -/
def State.missAll (s : State) (t : Nat) : State :=
  let s1 := (s.insts.map (·.job)).foldl (State.missInst · t) s
  (s1.jobs.filter fun e => !e.2.deferred.isEmpty).foldl (fun st e => st.missJob t e.1) s1

/-! ## Containment -/

/-- DETAIL0 of a containment record (R447). -/
def containDetail (action relaunches : Nat) (trace discard : Bool) (nent : Nat) : Nat :=
  action + putAt (relaunches % 256) 8 + putAt (b2n trace) 16 + putAt (b2n discard) 17 + putAt (nent % 2 ^ 16) 32

/-- R446: whether a contained gang is relaunched. -/
def relaunchAllowed (determ replay trace : Bool) (made : Nat) : Bool :=
  if 3 ≤ made then false else if determ then replay || !trace else replay

/-- Relaunch of a gang from its retained record, or abort of its job (R446). -/
def State.afterContain (s : State) (l g : Nat) (relaunch : Bool) : State :=
  match s.launches[l]? with
  | none => s
  | some x =>
    if relaunch then
      let n := match x.gangs[g]? with | some y => y.wgsDone.length | none => 0
      (s.setGang l g fun y => { y with relaunches := y.relaunches + 1, trace := false, wgsDone := [], cls := [] }).setInst
        x.job fun i => { i with wgDone := i.wgDone - n }
    else s.abortInst x.job

/-- Containment of a gang with a cause, DETAIL0 given by the layout of R447 or fixed by the rule that raises it (R471):
steps 1 to 8 of R445 with the cards of the wave that met it, the record of
R447 and what R446 decides; what follows in the Timetable is `settle`. -/
def State.containCore (s : State) (l g cause cl : Nat) (cards : List Card) (fixed : Option Nat) : State :=
  match s.launches[l]? with
  | none => s
  | some x =>
    match x.gangs[g]? with
    | none => s
    | some gg =>
      let s1 := s.killGang l g
      let s2 := cards.foldl (fun st c => st.journal x.part cl 0x0A c.toNat s.now) s1
      let draining := match s.parts[x.part]? with | some p => p.drain.isSome | none => false
      if draining || x.killed then s2
      else
        let replay := cardReplay (s.cardOf x.job)
        let go := relaunchAllowed x.determ replay gg.trace gg.relaunches
        let d0 := fixed.getD (containDetail (if go then 1 else 2) (gg.relaunches + b2n go) gg.trace x.determ cards.length)
        let s3 := s2.raiseJob x.job 0 cause 0 x.entry d0 (x.gangWid g) s.now
        s3.afterContain l g go

/-- The gangs of a job that are placed or recessed. -/
def State.jobGangs (s : State) (j : Nat) : List (Nat × Nat) :=
  (s.jobLaunches j).flatMap fun l =>
    match s.launches[l]? with
    | some x => ((List.range x.gangs.length).filter fun g =>
        match x.gangs[g]? with | some y => y.placed || y.recessed | none => false).map fun g => (l, g)
    | none => []

/-- A save that reaches past the context save area, or whose write faults, ends the recess: the job's gangs are contained
with OUT_OF_RANGE (R379). -/
def State.saveFails (s : State) (j : Nat) : State :=
  (s.jobGangs j).foldl (fun st p =>
    let cl := match (st.launches[p.1]?).bind fun x => x.gangs[p.2]? with | some y => y.cls.headD 0 | none => 0
    st.containCore p.1 p.2 0x08 cl [] none) s

/-! ## The context save area (R376, R378, R379) -/

/-- S of R379: the scratchpad bytes of a workgroup, rounded up. -/
def Launch.saveS (l : Launch) : Nat := regionSize l.scratch

/-- A cluster's part of the context save area, the bound of R379 over CLMAX. -/
def Launch.saveStride (l : Launch) : Nat :=
  128 * (8192 + l.saveS) + 4 * l.acmLen + 8192 + bankBytes * popcount (BitVec.ofNat 32 l.banks)

/-- A save writes n bytes of the context save area.  How the area lays out what it holds is not stated: the bytes are free
values, and what they stand for is kept beside them (log entry 51).  None where the write faults. -/
def State.saveBytes (s : State) (li off n : Nat) : Option State :=
  match s.launches[li]? with
  | none => none
  | some l =>
    let a := l.num 1792 64 + off
    let bs := (List.range n).map fun i => BitVec.ofNat 8 (Config.freeValue (s.freeCtr * 2 ^ 64 + 2 ^ 60 + a + i)).toNat
    match s.writeVA l.part dmaAgents false none (s.chargeOf li) a bs with
    | .ok x => some x
    | .error _ => none

/-- The save of a cluster by the present recess of a launch, made where there is none: the lowest free part of the area,
which has one for each of CLMAX clusters (R379). -/
def State.openSave (s : State) (li cl : Nat) : Option (ClusterSave × State) :=
  match s.launches[li]? with
  | none => none
  | some l =>
    let n := match s.inst? l.job with | some i => i.recesses | none => 0
    match l.csaves.find? fun c => c.key == 64 * n + cl with
    | some c => some (c, s)
    | none =>
      match (List.range (cardClmax (s.cardOf l.job))).find? fun k => !l.csaves.any fun c => c.slot == k with
      | none => none
      | some k =>
        let c : ClusterSave := { key := 64 * n + cl, slot := k, acm := none, banks := none }
        some (c, s.setLaunch li fun x => { x with csaves := x.csaves ++ [c] })

/-- Keeps what a cluster save holds. -/
def State.setSave (s : State) (li key : Nat) (f : ClusterSave → ClusterSave) : State :=
  s.setLaunch li fun x => { x with csaves := updWhere (fun c => c.key == key) f x.csaves }

/-- ACCUMULATOR_SAVE: the tile sequencer writes the accumulator save set of a launch in a cluster (R376). -/
def State.saveAcm (s : State) (li cl : Nat) : Option State :=
  match s.openSave li cl, s.launches[li]?, s.clusters[cl]? with
  | some (c, s1), some l, some x =>
    if c.acm.isSome then some s1
    else
      let acm := x.acm.filter fun e => decide (l.acmBase ≤ e.1) && decide (e.1 < l.acmBase + l.acmLen)
      (s1.saveBytes li (l.saveStride * c.slot + 128 * (8192 + l.saveS)) (4 * l.acmLen)).map fun t =>
        t.setSave li c.key fun y => { y with acm := some acm }
  | _, _, _ => none

/-- The accumulator save sets of the launches that a job runs in a cluster (R376). -/
def State.saveAcms (s : State) (j cl : Nat) : Option State :=
  ((s.jobLaunches j).filter fun l => s.waves.any fun v => v.launch == l && v.status == .resident && v.cluster == cl).foldl
    (fun st l => st.bind fun x => x.saveAcm l cl) (some s)

/-- The banks of the BANKS mask in SCRATCH or FIFO mode, with FIFO occupancy (R378). -/
def Cluster.bankSaves (c : Cluster) (l : Launch) : List BankSave :=
  ((List.range c.modes.length).filter fun b => bitOf l.banks b && c.modes.getD b .cache != .cache).map fun b =>
    { bank := b, mode := c.modes.getD b .cache, cells := c.scratch.filter fun y => y.1 / bankBytes == b,
      poison := c.spoison.filter fun w => 8 * w / bankBytes == b, fifo := (c.fifos.lookup b).getD [],
      fpoison := c.fpoison.contains b }

/-- The hardware saves a cluster for a launch of which no wave is resident there any more: the accumulator save set where
the sequencer has not saved it, the BANKS banks, and the unstarted records by address and SEQ (R378). -/
def State.saveCluster (s : State) (li cl : Nat) : Option State :=
  match (s.saveAcm li cl).bind fun t => t.openSave li cl, s.launches[li]?, s.clusters[cl]? with
  | some (c, s1), some l, some x =>
    if c.banks.isSome then some s1
    else
      let bs := x.bankSaves l
      (s1.saveBytes li (l.saveStride * c.slot + 128 * (8192 + l.saveS) + 4 * l.acmLen) (8192 + bankBytes * bs.length)).map
        fun t => t.setSave li c.key fun y => { y with banks := some bs }
  | _, _, _ => none

/-- Where the area holds what a wave of a launch saves: its cluster's part, by its slot (R379). -/
def State.waveSaveAt (s : State) (v : Wave) : Option (Nat × State) :=
  match s.openSave v.launch v.cluster, s.launches[v.launch]? with
  | some (c, s1), some l => some (l.saveStride * c.slot + (8192 + l.saveS) * (v.core % 4 * 32 + v.wslot), s1)
  | _, _ => none

/-- The hardware saves the control state of R123 and the handler-bank registers of a wave (R378). -/
def State.saveWave (s : State) (v : Wave) : Option State :=
  (s.waveSaveAt v).bind fun p => p.2.saveBytes v.launch p.1 8192

/-! ## Retirement -/

/-- A workgroup has retired: all its waves have, and every command they posted (R291). -/
def State.wgRetired (s : State) (l g m : Nat) : Bool :=
  (s.waves.any fun v => v.launch == l && v.gang == g && v.wg == m) &&
  (s.waves.all fun v => !(v.launch == l && v.gang == g && v.wg == m) || v.status == .retired) &&
  s.cmds.all fun c => !(c.launch == l && c.live &&
    (match s.waves[c.wave]? with | some v => v.gang == g && v.wg == m | none => false))

/-- Releases the region of a workgroup (R299). -/
def State.freeRegion (s : State) (l key : Nat) : State :=
  let f := fun (c : Cluster) => { c with regions := c.regions.filter fun r => !(r.launch == l && r.wg == key) }
  { s with clusters := s.clusters.map f }

/-- The region of a workgroup as a recess saves it (R378). -/
def Cluster.regionSave (c : Cluster) (cl m : Nat) (r : Region) : RegionSave where
  wg := m
  cl := cl
  wsb := r.wsb
  size := r.size
  cells := (c.scratch.filter fun x => decide (r.wsb ≤ x.1) && decide (x.1 < r.wsb + r.size)).map fun x => (x.1 - r.wsb, x.2)
  poison := (c.spoison.filter fun w => decide (r.wsb ≤ 8 * w) && decide (8 * w < r.wsb + r.size)).map fun w => w - r.wsb / 8

/-- The cluster and the region of a workgroup. -/
def State.regionOf (s : State) (li key : Nat) : Option (Nat × Cluster × Region) :=
  (List.range s.clusters.length).findSome? fun cl =>
    match s.clusters[cl]? with
    | some c => (c.regions.find? fun r => r.launch == li && r.wg == key).map fun r => (cl, c, r)
    | none => none

/-- Saves and releases the region of a workgroup that has no resident wave left, into the context save area; a save that
fails ends the recess (R299, R378, R379). -/
def State.saveRegion (s : State) (li g m : Nat) : State :=
  if s.waves.any fun v => v.launch == li && v.gang == g && v.wg == m && v.status == .resident then s
  else
    let key := 4 * g + m
    match s.regionOf li key, s.launches[li]? with
    | some (cl, c, r), some l =>
      let wave := s.waves.find? fun v => v.launch == li && v.gang == g && v.wg == m
      let kept := fun (t : State) => (t.setGang li g fun y =>
        { y with saved := c.regionSave cl m r :: y.saved.filter fun e => e.wg != m }).freeRegion li key
      if r.size = 0 then kept s
      else match (wave.bind s.waveSaveAt).bind fun p => p.2.saveBytes li (p.1 + 8192) r.size with
      | some t => kept t
      | none => s.saveFails l.job
    | _, _ => s

/-- Retires the workgroups of a placed gang that are finished, then the gang (R291). -/
def State.retireGang (s : State) (l g : Nat) : State :=
  match s.launches[l]? with
  | none => s
  | some x =>
    match x.gangs[g]? with
    | none => s
    | some gg =>
      if !gg.placed then s
      else
        let done := (List.range x.wgCount).filter fun m => !gg.wgsDone.contains m && s.wgRetired l g m
        let s1 := done.foldl (fun st m =>
          ((st.freeRegion l (4 * g + m)).setGang l g fun y => { y with wgsDone := y.wgsDone ++ [m] }).setInst x.job
            fun i => { i with wgDone := i.wgDone + 1, progress := s.now, elapsed := 0 }) s
        if gg.wgsDone.length + done.length = x.wgCount then
          s1.setGang l g fun y => { y with done := true, placed := false, cls := [] }
        else s1

/-- The final merge of a deterministic launch, as one step: a conflict merges nothing and is reported with the report-card
entry that a wave would have received (R331, R332; log entry 54). -/
def State.finalMerge (s : State) (l : Nat) (x : Launch) : State :=
  match s.finalConflicts l x with
  | (later, other, a) :: _ =>
    let card := mkCard 0x0C 0 1 false false false 0 later a other 0 0 s.now
    (s.journal x.part 102 0x0A card.toNat s.now).raiseJob x.job 0 0x0C 0 x.entry a later s.now
  | [] => ((List.range x.gangs.length).flatMap fun g => s.gangOps l x g).foldl (fun st o => st.performOp x.part x.job o) s

/-- R371: no earlier deterministic launch of the queue has started and not merged. -/
def State.mergeAllowed (s : State) (l : Nat) (x : Launch) : Bool :=
  (s.launches.take l).all fun y => !(y.q == x.q && y.determ && y.started && !y.retired)

/-- Retires a launch whose gangs are all done (R291, R331, R371).  A decision is due where another
launch waits for its queue's DONE (R370, log entry 35). -/
def State.retireLaunch (s : State) (l : Nat) : State :=
  match s.launches[l]? with
  | none => s
  | some x =>
    if x.retired || !(x.gangs.all fun g => g.done) || (x.determ && !s.mergeAllowed l x) then s
    else
      let s1 := if x.determ then s.finalMerge l x else s
      let heir := fun (y : Launch) => !y.retired && y.num 1542 1 == 1 && y.num 1536 6 == x.q
      let s2 := if s1.launches.any heir then s1.due else s1
      (s2.setLaunch l fun y => { y with retired := true }).countDone x.q x.job

/-- Retires everything that has finished. -/
def State.retireAll (s : State) : State :=
  let ls := List.range s.launches.length
  let s1 := ls.foldl (fun st l =>
    match st.launches[l]? with
    | some x => if x.retired then st else (List.range x.gangs.length).foldl (fun t g => t.retireGang l g) st
    | none => st) s
  ls.foldl State.retireLaunch s1

/-- The entries that an instance owns and has not admitted yet. -/
def Instance.waiting (i : Instance) : Nat := i.hi - i.next + i.spawned.length

/-- Completes the instances whose owned entries have all retired (R373). -/
def State.completeAll (s : State) : State :=
  (s.insts.map (·.job)).foldl (fun st j =>
    match st.inst? j with
    | some i =>
      if i.waiting = 0 ∧ (st.jobLaunches j).isEmpty then st.completeInst j else st
    | none => st) s

/-- A cluster holds work: a resident workgroup, or a command, record or lock of its job (R374). -/
def State.clusterBusy (s : State) (cl : Nat) : Bool :=
  (s.waves.any fun v => v.status == .resident && v.cluster == cl) ||
  (s.cmds.any fun c => c.cl == cl && c.live && (match s.launches[c.launch]? with
    | some x => (match x.gangs[c.gang]? with | some g => !g.recessed | none => true)
    | none => false)) ||
  (match s.clusters[cl]? with | some c => !c.locks.isEmpty || !c.regions.isEmpty | none => false)

/-- The launches that a launch is ordered after have retired (R369). -/
def State.afterRetired (s : State) (x : Launch) : Bool :=
  x.after.all fun a => match s.launches[a]? with | some y => y.retired | none => true

/-- The launch waits for DONE of its predecessor's queue (R370). -/
def State.predWaits (s : State) (x : Launch) : Bool :=
  x.num 1542 1 == 1 && decide ((s.qtab.getD (x.num 1536 6) QEntry.reset).done.toNat ≤ x.num 1472 64)

/-- A gang that its job could place now: dependences have retired (R369, R370). -/
def State.gangReady (s : State) (l : Nat) : Bool :=
  match s.launches[l]? with
  | none => false
  | some x => !x.retired && s.afterRetired x && !s.predWaits x

/-- The clusters that gs gangs of a record's grid can use (R374). -/
def gangClusters (r pool gs : Nat) : Nat :=
  let m := extProd r (field r 391 3) (field r 394 3)
  let c := wgPerCluster r pool
  let b := blockClusters pool
  let up := fun (n d : Nat) => if d = 0 then 0 else (n + d - 1) / d
  if field r 384 2 == 0 then (if m ≤ c then up gs (c / m) else b * up gs (b * c / m)) else up (gs * m) c

/-- Unplaced workgroups of a job, as clusters they can use: those of its launches, and those of the tasks that it owns, which
are admitted only when it runs (R366, R374). -/
def State.wantClusters (s : State) (j pool : Nat) : Nat :=
  let tasks := match s.inst? j with
    | some i =>
      let qe := s.qtab.getD (cardQueue i.card) QEntry.reset
      if qe.kind && qe.en then gangClusters qe.tmpl.toNat pool i.waiting else 0
    | none => 0
  ((s.jobLaunches j).map fun l =>
    match s.launches[l]? with
    | some x =>
      if s.gangReady l then gangClusters x.record.toNat pool (x.gangs.filter fun g => !g.placed && !g.done).length else 0
    | none => 0).foldl (· + ·) tasks

/-- The job has a launch that only a predecessor of another queue holds back (R370). -/
def State.predHeld (s : State) (j : Nat) : Bool :=
  (s.jobLaunches j).any fun l => match s.launches[l]? with | some x => s.afterRetired x && s.predWaits x | none => false

/-- An instance keeps a cluster that holds nothing: one it runs on while it has a workgroup to place there, and during
a drain of its partition one it has not left by recess or completion (R374, R478). -/
def State.keepsCluster (s : State) (i : Instance) : Bool :=
  let fenced := match s.parts[cardPart i.card]? with | some p => p.fenced | none => false
  (i.st == .running && 0 < s.wantClusters i.job (cardPool i.card)) || (fenced && (i.st == .running || i.st == .recessing))

/-- Frees the clusters that hold nothing and that their job cannot use any more, applies pool changes that wait for
a free cluster (R374, R390), and returns banks (R300). -/
def State.freeClusters (s : State) : State :=
  (List.range 64).foldl (fun st cl =>
    match st.clusters[cl]? with
    | none => st
    | some c =>
      let keep := match c.job with
        | none => false
        | some j => (match st.inst? j with | some i => st.keepsCluster i | none => false)
      let st1 := if c.job.isSome && !keep && !st.clusterBusy cl then st.setCluster cl fun x => { x with job := none } else st
      let free := (match st1.clusters[cl]? with | some x => x.job.isNone && x.drain.isNone | none => false) &&
        !st1.clusterBusy cl
      let st2 := match st1.poolNext.lookup cl with
        | some p =>
          if free then { st1 with pool := st1.pool.set cl p, poolNext := assocDel st1.poolNext cl, undecided := true } else st1
        | none => st1
      if c.regions.isEmpty && c.changed.isEmpty && !c.modes.contains .scratch then st2 else st2.returnBanks cl) s

/-! ## Recess -/

/-- The waves of a job. -/
def State.waveOfJob (s : State) (j : Nat) (v : Wave) : Bool :=
  match s.launches[v.launch]? with | some l => l.job == j | none => false

/-- L of R377, to the next whole ns: MAXSP × 0.625 ns is rounded up. -/
def State.preemptBound (s : State) (i : Instance) : Nat :=
  let m := cardRmode i.card
  let sp := if m = 0 then (cardMaxsp i.card * 5 + 7) / 8
    else if m = 1 then 0
    else ((s.waves.filter fun v => v.status == .resident && s.waveOfJob i.job v).map fun v =>
      match s.launches[v.launch]? with | some l => l.num 480 32 | none => 0).foldl max 0
  sp + cardSaveb i.card + 2000

/-- A record that holds a pending fault counts as unstarted for a recess: it waits to be replayed from its progress, an
element whose write failed being done again (R422). -/
def Cmd.park (c : Cmd) : Cmd :=
  { c with st := .queued, parked := true, todo := [], prog := if c.op = 3 ∨ c.op = 4 then c.prog - c.todo.length else c.prog }

/-- Records of a job that hold a pending fault when a recess request comes: their tokens, row-progress registers and
locks go, their progress stays (R422). -/
def State.saveFaulted (s : State) (j : Nat) : State :=
  (List.range s.cmds.length).foldl (fun st k =>
    match st.cmds[k]? with
    | some c =>
      let ofJob := (match st.launches[c.launch]? with | some l => l.job == j | none => false)
      (match c.st with
       | .faulted _ =>
         if c.isRecord && ofJob then (st.releaseCmd k).setCmd k Cmd.park else st
       | _ => st)
    | none => st) s

/-- Posts a recess request to a job, on behalf of another (R375). -/
def State.recessRequest (s : State) (j : Nat) (cause : Option Nat) : State :=
  match s.inst? j with
  | none => s
  | some i =>
    let s1 := s.setInst j fun x =>
      { x with st := .recessing, reqTime := some s.now, bound := s.preemptBound i, cause := cause }
    let mark := fun (v : Wave) => if s.waveOfJob j v && v.status == .resident then { v with recess := true } else v
    let s2 : State := if cardRmode i.card = 2 then s1 else { s1.saveFaulted j with waves := s1.waves.map mark }
    s2.journal (cardPart i.card) 102 0x04 (jobPayload j i.deadline) s.now

/-- A command of a gang that a recess waits for: it has started, and is no `rckpt` (R232, R376). -/
def Cmd.holdsRecess (c : Cmd) : Bool := c.live && c.st != .queued && !(c.isRecord && c.op == 6)

/-- A gang has recessed when no wave of it is resident, no command of it runs, and it has a recessed wave or an unstarted
record left: its regions are saved, and what its clusters hold for it is left to their saves (R376, R378). -/
def State.recessGang (s : State) (l g : Nat) : State :=
  match s.launches[l]? with
  | none => s
  | some x =>
    match x.gangs[g]? with
    | none => s
    | some gg =>
      let mine := s.waves.filter fun v => v.launch == l && v.gang == g
      let cmds := s.cmds.filter fun c => c.launch == l && c.gang == g
      if !gg.placed || mine.any (fun v => v.status == .resident) || cmds.any Cmd.holdsRecess ||
          !(mine.any (fun v => v.status == .recessed) || cmds.any Cmd.unfinished) then s
      else
        let n := match s.inst? x.job with | some i => i.recesses | none => 0
        let mineCmd := fun (k : Nat) => match s.cmds[k]? with | some c => c.launch == l && c.gang == g | none => false
        let s1 : State := { s with clusters := s.clusters.map fun c =>
          { c with lockReqs := c.lockReqs.filter fun r => !mineCmd r.1 } }
        let s2 := (List.range x.wgCount).foldl (fun st m => st.saveRegion l g m) s1
        s2.setGang l g fun y =>
          if y.placed then { y with placed := false, recessed := true, savedOn := gg.cls.map fun c => 64 * n + c } else y

/-- Saves the clusters that recessed gangs of a launch have left and where no wave of it is resident any more (R378); a
save that fails ends the recess (R379). -/
def State.saveClusters (s : State) (l : Nat) : State :=
  match s.launches[l]? with
  | none => s
  | some x =>
    let n := match s.inst? x.job with | some i => i.recesses | none => 0
    let cls := ((x.gangs.filter (·.recessed)).flatMap (·.savedOn)).eraseDups.filter fun k => k / 64 == n
    cls.foldl (fun st k =>
      if st.waves.any fun v => v.launch == l && v.status == .resident && v.cluster == k % 64 then st
      else match st.saveCluster l (k % 64) with
      | some t => t
      | none => st.saveFails x.job) s

/-- Recess arrivals: an instance whose request is posted and that has no resident wave is RECESSED (R373); one whose
partition's drain has killed it is not (R450). -/
def State.recessArrivals (s : State) : State :=
  let killed := fun (i : Instance) => match s.parts[cardPart i.card]? with
    | some p => (match p.drain with | some (step, _, _) => 2 ≤ step | none => false)
    | none => false
  (s.insts.filter fun i => i.st == .recessing && !killed i).foldl (fun st i =>
    let st1 := (st.jobLaunches i.job).foldl (fun t l =>
      match t.launches[l]? with
      | some x => ((List.range x.gangs.length).foldl (fun u g => u.recessGang l g) t).saveClusters l
      | none => t) st
    let busy := st1.waves.any fun v => v.status == .resident && st1.waveOfJob i.job v
    let live := st1.cmds.any fun c => (match st1.launches[c.launch]? with | some x => x.job == i.job | none => false) &&
      c.holdsRecess
    if busy || live || (st1.inst? i.job).isNone then st1
    else
      let s2 := st1.setInst i.job fun x =>
        { x with st := .recessed, recesses := x.recesses + 1, reqTime := none,
                 elapsed := x.elapsed + (s.now - x.progress) }
      { s2 with
        undecided := true
        clusters := s2.clusters.map fun c => if c.job == some i.job then { c with job := none } else c }) s

/-! ## The decision -/

/-- The clusters that a job holds. -/
def State.held (s : State) (j : Nat) : List Nat :=
  (List.range 64).filter fun c => match s.clusters[c]? with | some x => x.job == some j | none => false

/-- A cluster that the decision may assign: free, in the pool, tested, neither isolated nor withheld
(R374, R464, R467, R473). -/
def State.assignable (s : State) (pool cl : Nat) : Bool :=
  match s.clusters[cl]? with
  | some c => c.job.isNone && c.drain.isNone && (s.pool.getD cl 3).toNat == pool && c.selfTest && !c.isolated && !c.withheld &&
      !s.clusterBusy cl
  | none => false

/-- The exit latency of a power state, in ns (R472). -/
def Power.exitTime : Power → Nat
  | .active => 0
  | .clockGated => 100
  | .powerGated => 10000
  | .retain => 200000
  | .off => 2000000

/-- R374 inner loop for one instance: the lowest free clusters, until it holds enough; an assigned cluster wakes (R472).
An instance that only a predecessor holds back runs, so that its watchdog counts, and leaves free clusters free, since it
can place nothing there (R370, R384; log entry 35). -/
def State.assign (s : State) (j pool : Nat) (i : Instance) : State :=
  let busy := (s.held j).filter fun c => s.clusterBusy c
  let target := min (cardClmax i.card) (busy.length + s.wantClusters j pool)
  let need := target - (s.held j).length
  let got := ((List.range 64).filter fun c => s.assignable pool c).take need
  let s1 := got.foldl (fun st c => st.setCluster c fun x =>
    { x with job := some j, restored := [], power := .active, awakeAt := s.now + x.power.exitTime, joined := x.joined || (x.modes.contains .cache) }) s
  let waits := s.wantClusters j pool = 0 && s.predHeld j && (List.range 64).any fun c => s.assignable pool c
  if (i.st == .ready || i.st == .recessed) && (!(s1.held j).isEmpty || waits) then
    (s1.setInst j fun x => { x with st := .running, progress := s.now }).admitOwned j
  else s1

/-- The instances of a pool, by absolute deadline, then lower JOBID; fenced partitions are outside (R374, R478). -/
def State.poolInsts (s : State) (pool : Nat) : List Instance :=
  let mine := s.insts.filter fun i => cardPool i.card == pool &&
    !(match s.parts[cardPart i.card]? with | some x => x.fenced | none => false)
  mine.mergeSort fun a b => decide (a.deadline < b.deadline) || (a.deadline == b.deadline && decide (a.job ≤ b.job))

/-- The decision of one pool (R374). -/
def State.decidePool (s : State) (pool : Nat) : State :=
  let q := (s.poolInsts pool).filter fun i => i.st != .recessing
  let s1 := q.foldl (fun st i => match st.inst? i.job with | some x => st.assign i.job pool x | none => st) s
  let starved := q.find? fun i => (s1.held i.job).isEmpty && 0 < s1.wantClusters i.job pool
  match starved with
  | none => s1
  | some j =>
    if (s1.poolInsts pool).any fun i => i.st == .recessing then s1
    else
      let vs := (s1.poolInsts pool).filter fun i => i.st == .running
      match vs.getLast? with
      | some v => if j.deadline < v.deadline then s1.recessRequest v.job (some j.job) else s1
      | none => s1

/-- The decision of every pool; a restarting Timetable decides nothing (R374, R471). -/
def State.decision (s : State) : State :=
  if s.ttDown || s.insts.isEmpty then s else ((s.decidePool 0).decidePool 1).decidePool 2

/-- Jobs whose hold overflowed are unloaded and aborted (R383). -/
def State.overflowAll (s : State) : State :=
  (s.jobs.filter fun e => e.2.overflow && e.2.loaded).foldl (fun st e =>
    let s1 := st.setJob e.1 fun x => { x with loaded := false }
    match s1.inst? e.1 with
    | some _ => s1.abortInst e.1
    | none => if e.2.hold.length = 16 then s1.raiseJob e.1 2 0 0 noSeq 0 0 s1.now else s1) s

/-- What follows from a change of the Timetable's state, in the order of R374: deadline tests, completions, recess
arrivals, and the decision where one is due. -/
def State.settle (s : State) : State :=
  let s1 := (s.missAll s.now).retireAll
  let s2 := s1.completeAll
  let s3 := s2.recessArrivals
  let s4 := s3.freeClusters
  let s5 := if s4.jobs.any (fun e => e.2.overflow && e.2.loaded) then s4.overflowAll else s4
  if s5.undecided && !s5.ttDown then { s5.decision with undecided := false } else s5

/-! ## Containment and the kill of R377 -/

/-- Containment of a gang (R445 to R447) and what follows in the Timetable. -/
def State.containGang (s : State) (l g cause cl : Nat) (cards : List Card) (fixed : Option Nat := none) : State :=
  (s.containCore l g cause cl cards fixed).settle

/-- The kill of R377, at the time it was due: WATCHDOG with DETAIL0 = 1, then relaunch or abort of each gang, placed or
recessed, with TRACE taken as 1. -/
def State.boundKill (s : State) (j time : Nat) : State :=
  match s.inst? j with
  | none => s
  | some i =>
    let gs := s.jobGangs j
    let s1 := gs.foldl (fun st p => st.killGang p.1 p.2) s
    let s2 := s1.raiseJob j 0 0x13 0 i.firstSeq 1 0 time
    let abort := gs.any fun p => match s.launches[p.1]? with
      | some x => (match x.gangs[p.2]? with
        | some y => !relaunchAllowed x.determ (cardReplay i.card) true y.relaunches
        | none => false)
      | none => false
    if abort then (s2.abortInst j).settle
    else (gs.foldl (fun st p => st.afterContain p.1 p.2 true) s2).settle

/-! ## Placement -/

/-- Registers and wave slots that resident waves of a core hold (R30, R292). -/
def State.coreLoad (s : State) (core : Nat) : Nat × Nat × Nat :=
  (s.waves.filter fun v => v.status == .resident && v.core == core).foldl (fun (a : Nat × Nat × Nat) v =>
    match s.launches[v.launch]? with
    | some l => (a.1 + 1, a.2.1 + l.vceil, a.2.2 + l.sceil)
    | none => (a.1 + 1, a.2.1, a.2.2)) (0, 0, 0)

/-- The lowest free wave slots of a core. -/
def State.freeSlots (s : State) (core : Nat) : List Nat :=
  (List.range 32).filter fun k => !s.waves.any fun v => v.status == .resident && v.core == core && v.wslot == k

/-- The k-th index not in an ascending list. -/
def kthFree : List Nat → Nat → Nat
  | [], k => k
  | u :: us, k => if u ≤ k then kthFree us (k + 1) else k

/-- A free private index of a launch; which one is not defined (R305). -/
def State.privIndex (s : State) (l n : Nat) : Option (Nat × State) :=
  let used := ((s.waves.filter fun v => v.launch == l && v.status != .retired).map (·.priv)).mergeSort (· ≤ ·)
  let free := n - used.length
  if free = 0 then none
  else if free = 1 then some (kthFree used 0, s)
  else
    let (v, s1) := s.takeFree
    some (kthFree used (v.toNat % free), s1)

/-- Private memory and the stack area read zero at a wave's first residency, whatever a cache holds of them (R307): the
bytes of its allocation that translate. -/
def State.zeroPrivate (s : State) (part base n : Nat) : State :=
  (pieces (n + 1) base n).foldl (fun st pc =>
    match st.xlate part dmaAgents pc.1 with
    | .ok pa _ _ _ =>
      let ls := linesOf pa pc.2
      let zero := List.replicate pc.2 (0 : Byte)
      { st with mem := st.mem.filter fun c => !(decide (pa ≤ c.1) && decide (c.1 < pa + pc.2))
                l1 := st.l1.filter fun e => !ls.contains e.line
                copies := st.copies.filter fun c => !ls.contains c.1
                dirty := st.dirty.map fun d => if ls.contains d.line then { d with home := patchLine d.line d.home pa zero } else d }
    | .fault _ _ => st) s

/-- The fragment a wave starts with (R276). -/
def Frag.initial (pc : Word64) (held : Word32) : Frag where
  pc := pc
  exec := held
  owned := held
  st := .ready
  held := false
  stack := []
  spilled := 0
  skip := 0
  restart := false
  age := 0
  yielded := false
  passed := []

/-- Fault registers at wave start (log entry 8). -/
def FaultRegs.zero : FaultRegs where
  fcause := 0
  fpc := 0
  flanes := 0
  finst := 0
  ftime := 0
  cards := []

/-- A wave at its start (R276). -/
def Wave.initial (l : Launch) (li g m i core slot priv now : Nat) : Wave where
  launch := li
  gang := g
  wg := m
  widx := i
  widBase := l.waveWid g m i
  core := core
  wslot := slot
  status := .resident
  lanes := l.held
  exited := 0
  vregs := []
  sregs := []
  masks := Vector.replicate 16 0
  rngkey := BitVec.ofNat 64 (l.num 1280 64)
  rngctr := Vector.replicate 32 0
  fpflags := 0
  fregs := FaultRegs.zero
  hmode := false
  hslot := 0
  recess := false
  frag0 := some (Frag.initial (BitVec.ofNat 64 l.kentry) l.held)
  frag1 := none
  split := none
  seq := 0
  priv := priv
  pend := []
  pendTrap := none
  deferred := []
  raceSeen := []
  epoch := 0
  epochStart := now
  epochOpen := true
  layer := []
  detSeen := false

/-- Adds the waves of a workgroup on a core, one for each slot given. -/
def State.addWaves (s : State) (li : Nat) (l : Launch) (g m core : Nat) : List Nat → Nat → Option State
  | [], _ => some s
  | slot :: slots, i =>
    match s.privIndex li l.npriv with
    | none => none
    | some (pv, s1) =>
      let s2 := s1.zeroPrivate l.part (l.priv + pv * l.privWave) l.privWave
      let s3 : State := { s2 with waves := s2.waves ++ [Wave.initial l li g m i core slot pv s.now] }
      s3.addWaves li l g m core slots (i + 1)

/-- A recessed wave becomes resident again: handler mode, at the instruction after its `recessok` (R123, R380). -/
def Wave.resume (v : Wave) (core slot : Nat) : Wave :=
  let up := fun (k : Nat) (f : Frag) =>
    if k = v.hslot then { f with pc := f.pc + 8, st := .ready, held := false } else f
  { v with status := .resident, core := core, wslot := slot, hmode := true, recess := false,
           deferred := v.deferred.filter fun e => e.1 != 0x10,
           frag0 := v.frag0.map (up 0), frag1 := v.frag1.map (up 1) }

/-- Resumes the recessed waves of a workgroup on the slots of a core (R380); their L1 is fresh (R324), and in a checked
launch a new epoch starts (R325). -/
def State.resumeWaves (s : State) (l : Launch) (core : Nat) (ws slots : List Nat) : State :=
  let one := fun (st : State) (p : Nat × Nat) =>
    let st1 := st.setWave p.1 fun v => v.resume core p.2
    if l.checked then st1.openEpoch p.1 else st1
  ((ws.zip slots).foldl one s).invalidateL1 core

/-- Places or resumes workgroup m of gang g on the first core of a cluster that can hold it (R292, R299). -/
def State.placeWg (s : State) (li g m cl : Nat) : Option State :=
  match s.launches[li]? with
  | none => none
  | some l =>
    let old := (List.range s.waves.length).filter fun w => match s.waves[w]? with
      | some v => v.launch == li && v.gang == g && v.wg == m && v.status == .recessed | none => false
    let recessed := match l.gangs[g]? with | some x => x.recessed | none => false
    let n := if recessed then old.length else l.waveCount
    let cores := (List.range 4).map (4 * cl + ·)
    let fits := fun (core : Nat) =>
      let (k, v, sc) := s.coreLoad core
      k + n ≤ 32 && v + n * l.vceil ≤ 1024 && sc + n * l.sceil ≤ 2048
    match cores.find? fits with
    | none => none
    | some core =>
      let size := regionSize l.scratch
      let area := setAreaSize l.checked
      match s.placeRegion cl (size + area) with
      | none => none
      | some (s1, wsb) =>
        let key := 4 * g + m
        let saved : Option RegionSave := (l.gangs[g]?).bind fun x => x.saved.find? fun e => e.wg == m
        let cells := match saved with | some e => e.cells | none => []
        let bad := match saved with | some e => e.poison.map (· + wsb / 8) | none => []
        let put := fun (c : Cluster) =>
          let clear := c.scratch.filter fun x => !(decide (wsb ≤ x.1) && decide (x.1 < wsb + size))
          { c with regions := { launch := li, wg := key, wsb := wsb, size := size, area := area } :: c.regions,
                   scratch := cells.foldl (fun t x => Memory.set t (wsb + x.1) x.2) clear,
                   spoison := (c.spoison.filter fun w => !(decide (wsb ≤ 8 * w) && decide (8 * w < wsb + size))) ++ bad }
        let s2 := s1.setCluster cl put
        let slots := (s2.freeSlots core).take n
        if recessed then some (s2.resumeWaves l core old slots)
        else s2.addWaves li l g m core slots 0

/-- The clusters that a gang may lie on, in order of preference: one cluster, else a 2 × 2 block of the mesh
(R293). -/
def gangSites (held : List Nat) : List (List Nat) :=
  held.map (fun c => [c]) ++
  ((List.range 49).map fun k =>
    let b := k / 7 * 8 + k % 7
    [b, b + 1, b + 8, b + 9].filter fun c => held.contains c).filter fun bs => 2 ≤ bs.length

/-- Places the workgroups m to n - 1 of a gang on the first cluster of the site that takes each. -/
def State.placeOn (s : State) (li g : Nat) (site : List Nat) : List Nat → List Nat → Option (State × List Nat)
  | [], used => some (s, used)
  | m :: ms, used =>
    match site.findSome? fun cl => (s.placeWg li g m cl).map fun t => (t, cl) with
    | none => none
    | some (t, cl) => t.placeOn li g site ms (if used.contains cl then used else used ++ [cl])

/-- A record that had not started, or counted as unstarted, is read again from its saved address and checked again (R378,
R422); one that cannot be read holds operation 0, which R243 rejects. -/
def State.rereadRecord (s : State) (cl : Nat) (c : Cmd) : Cmd :=
  if c.isRecord && c.st == .queued then
    let d := match s.readVA (s.partOf c.launch) (clusterAgents cl) false c.daddr 64 with
      | .ok bs => BitVec.ofNat 1024 (ofBytes bs)
      | .error _ => 0
    { c with desc := d, begun := false, parked := false }
  else c

/-- Puts a saved bank back into a cluster (R378). -/
def State.restoreBank (s : State) (cl : Nat) (b : BankSave) : State :=
  (s.setBank cl b.bank b.mode).setCluster cl fun c =>
    { c with scratch := b.cells.foldl (fun t y => Memory.set t y.1 y.2) c.scratch,
             spoison := c.spoison ++ b.poison,
             fifos := if b.fifo.isEmpty then c.fifos else assocSet c.fifos b.bank b.fifo,
             fpoison := if b.fpoison then b.bank :: c.fpoison else c.fpoison }

/-- Puts a cluster save of a launch back into a cluster, once: the accumulator save set, with zero in every other element
where no other wave is resident, and the BANKS banks (R378). -/
def State.restoreCluster (s : State) (li key cl : Nat) : State :=
  match s.launches[li]?, s.clusters[cl]? with
  | some l, some c =>
    (match l.csaves.find? fun e => e.key == key with
     | none => s
     | some e =>
       if c.restored.contains (li, key) then s
       else
         let fresh := c.restored.isEmpty && !s.waves.any fun v => v.status == .resident && v.cluster == cl && v.launch != li
         let s1 := s.setCluster cl fun x =>
           { x with acm := if fresh then [] else x.acm, restored := (li, key) :: x.restored }
         let s2 := (e.acm.getD []).foldl (fun st y => st.acmSet cl y.1 y.2.toNat) s1
         (e.banks.getD []).foldl (fun st b => st.restoreBank cl b) s2)
  | _, _ => s

/-- A span of an unstarted command after its gang has moved: with the region of its workgroup, or with the cluster of a bank
(R308, R380). -/
def State.moveSpan (s : State) (li g : Nat) (saved : List RegionSave) (cls : List (Nat × Nat)) (x : MemSpan) : MemSpan :=
  match x.cl with
  | none => x
  | some cl =>
    match saved.find? fun r => r.cl == cl && decide (r.wsb ≤ x.base) && decide (x.base < r.wsb + r.size) with
    | some r =>
      (match s.regionOf li (4 * g + r.wg) with
       | some (to_, _, q) => { x with cl := some to_, base := x.base - r.wsb + q.wsb }
       | none => x)
    | none => { x with cl := some ((cls.lookup cl).getD cl) }

/-- Restores the saves and the unstarted commands of a resumed gang on its new clusters, and retires the `rckpt` records
that stopped its waves (R249, R308, R378, R380).  A replayed record walks the tables again (R422). -/
def State.restoreGang (s : State) (li g : Nat) (gg : Gang) (cls : List Nat) : State :=
  let to_ := fun (i : Nat) => cls.getD i (cls.headD 0)
  let s1 := gg.savedOn.zipIdx.foldl (fun st e => st.restoreCluster li e.1 (to_ e.2)) s
  let part := s.partOf li
  let agents := cls.flatMap clusterAgents
  let s2 : State := if s1.cmds.any (fun c => c.launch == li && c.gang == g && c.parked) then
      { s1 with tlb := s1.tlb.filter fun t => !(t.part == part && agents.contains t.agent)
                walks := s1.walks.filter fun w => !(w.part == part && agents.contains w.agent) }
    else s1
  let home := fun (c : Cmd) => match s2.waves[c.wave]? with
    | some v => if v.status == .resident then v.core else 4 * cls.headD 0 + c.core % 4
    | none => 4 * cls.headD 0 + c.core % 4
  let moved := gg.savedOn.zipIdx.map fun e => (e.1 % 64, to_ e.2)
  let move := fun (c : Cmd) =>
    if c.launch == li && c.gang == g && c.unfinished then
      let c1 := { c with cl := home c / 4, core := home c, spans := c.spans.map (s2.moveSpan li g gg.saved moved) }
      if c.isRecord && c.op == 6 && c.st == .started then { c1 with st := .finished } else s2.rereadRecord (home c / 4) c1
    else c
  let s3 : State := { s2 with cmds := s2.cmds.map move }
  s3.publish

/-- The clusters that a job holds and that have left their power states: a placement waits for the exit (R472). -/
def State.awake (s : State) (j : Nat) : List Nat :=
  (s.held j).filter fun c => match s.clusters[c]? with | some x => decide (x.awakeAt ≤ s.now) | none => false

/-- Places gang g of a launch on clusters that its job holds (R293, R380, R472). -/
def State.placeOne (s : State) (li g : Nat) : Option State :=
  match s.launches[li]? with
  | none => none
  | some x =>
    match x.gangs[g]? with
    | none => none
    | some gg =>
      let left := (List.range x.wgCount).filter fun m => !gg.wgsDone.contains m
      match (gangSites (s.awake x.job)).findSome? fun site => s.placeOn li g site left [] with
      | none => none
      | some (s1, cls) =>
        let s2 := if gg.recessed then s1.restoreGang li g gg cls else s1
        let s3 := s2.setLaunch li fun y =>
          { y with started := true, snapTaken := true, snap := if x.determ && !x.snapTaken then s.mem else y.snap }
        let s4 := (s3.setGang li g fun y =>
          { y with placed := true, recessed := false, cls := cls, saved := [], savedOn := [] }).dropSaves li
        some (if x.task && !x.started then s4.restartWatch x.job else s4)

/-- Places every gang of a list, or none of them. -/
def State.placeEach (s : State) (li : Nat) : List Nat → Option State
  | [] => some s
  | g :: gs => match s.placeOne li g with
    | some s1 => s1.placeEach li gs
    | none => none

/-- WORKGROUP_PLACEMENT of gang g of a launch: when its job runs, its dependences have retired and it is the first of
its launch in work-identifier order, its workgroups become resident on clusters of the job; a CONCURRENT launch places
every gang that is left, or none (R293, R294, R369 to R371, R374, R380). -/
def State.placeGang (s : State) (li g : Nat) : State :=
  match s.launches[li]? with
  | none => s
  | some x =>
    match x.gangs[g]?, s.inst? x.job with
    | some gg, some i =>
      let first := (x.gangs.take g).all fun y => y.placed || y.done
      if gg.placed || gg.done || !first || !(i.st == .running) || !s.gangReady li || x.serial.isSome || s.ttDown then s
      else
        let gs := if x.num 384 2 == 0 then (List.range x.gangs.length).filter fun k =>
            match x.gangs[k]? with | some y => !y.placed && !y.done | none => false
          else [g]
        (s.placeEach li gs).getD s
    | _, _ => s

end Sys2Proof.Machine
end

