-- ==== Sys2Proof/Machine/Ops.lean ====
section
/-!
DEFINITION. The named operations over registers, the issuing fragment, and taking an exception: TRAP_ENTRY and the
return from it (02 R27 to R37, R44, R46, R47; 05 R126; 09 R279, R284; 18 R443, R444).
-/

namespace Sys2Proof.Machine

/-! ## The issuing fragment -/

/-- The issuing fragment with its wave and launch. -/
structure Ctx where
  w    : Nat
  slot : Nat
  wv   : Wave
  fr   : Frag
  l    : Launch

/-- The context of a fragment. -/
def State.ctxOf (s : State) (w slot : Nat) : Option Ctx :=
  match s.waves[w]? with
  | none => none
  | some wv =>
    match wv.frag slot, s.launches[wv.launch]? with
    | some fr, some l => some { w := w, slot := slot, wv := wv, fr := fr, l := l }
    | _, _ => none

/-- The context of the fragment that issues in this step. -/
def State.ctx? (s : State) : Option Ctx := match s.cur with | some (w, slot) => s.ctxOf w slot | none => none

/-- The meaning of a SIMT instruction: a state computed from the issuing fragment. -/
def simt (s : State) (f : Ctx → State) : Host.Outcome State Fault Refusal :=
  match s.ctx? with
  | some k => .next (f k)
  | none => .fault .noIssuingFragment

/-- The fragment runs its wave's handler (R46). -/
def Ctx.inHandler (k : Ctx) : Bool := k.wv.hmode && k.wv.hslot == k.slot
/-- The wave has two fragments (R26). -/
def Wave.isSplit (wv : Wave) : Bool := wv.frag0.isSome && wv.frag1.isSome
def Ctx.cl (k : Ctx) : Nat := k.wv.cluster
def Ctx.part (k : Ctx) : Nat := k.l.part
/-- Instruction address minus the kernel entry, in 8-byte words (R444). -/
def Ctx.ioff (k : Ctx) : Nat := (k.fr.pc.toNat + 2 ^ 64 - k.l.kentry) % 2 ^ 64 / 8 % 2 ^ 32

/-- The active mask before a skip: EXEC, EXEC AND Kp, or EXEC AND NOT Kp (R25). -/
def Ctx.predMask (k : Ctx) (pk : BitVec 4) (np : Bool) : Word32 :=
  if pk = 0 then k.fr.exec
  else
    let m := k.wv.masks.toList.getD pk.toNat 0
    k.fr.exec &&& (if np then ~~~m else m)
/-- The active mask of a lane-wise instruction, without the lanes that `rfe` skips (R25, R126). -/
def Ctx.active (k : Ctx) (pk : BitVec 4) (np : Bool) : Word32 := k.predMask pk np &&& ~~~k.fr.skip

/-- K0 reads as EXEC (R18). -/
def Ctx.kread (k : Ctx) (n : Nat) : Word32 := if n = 0 then k.fr.exec else k.wv.masks.toList.getD n 0
/-- Writes the bits `m` of K1 to K15, in a split wave only those of owned lanes (R27). -/
def Wave.kwrite (wv : Wave) (owned : Word32) (n : Nat) (m v : Word32) : Wave :=
  let m2 := if wv.isSplit then m &&& owned else m
  { wv with masks := Vector.ofFn fun i =>
      if i.val = n ∧ n ≠ 0 then (wv.masks[i] &&& ~~~m2) ||| (v &&& m2) else wv.masks[i] }

/-! ## Vector and scalar registers -/

/-- The physical name that a V or S name selects (R46). -/
def Ctx.vname (k : Ctx) (n : Nat) : Nat := if k.inHandler && 120 ≤ n then n + 8 else n
def Ctx.sname (k : Ctx) (n : Nat) : Nat := if k.inHandler && 56 ≤ n then n + 8 else n

/-- An unmapped name reads zero and is never empty (R28). -/
def VReg.zero : VReg := { val := Vector.replicate 32 0, empty := 0 }
def SReg.zero : SReg := { val := 0, empty := false }
def Wave.vget (wv : Wave) (n : Nat) : VReg := (wv.vregs.lookup n).getD VReg.zero
def Wave.sget (wv : Wave) (n : Nat) : SReg := (wv.sregs.lookup n).getD SReg.zero

/-- Writes the lanes of m, allocating an unmapped name with every lane zero; under an empty mask nothing happens
(R28, R37, R38). -/
def Wave.vput (wv : Wave) (n : Nat) (m : Word32) (f : Nat → Word32) : Wave :=
  if m = 0 then wv
  else
    let old := wv.vget n
    let r : VReg := { old with val := lanesFn fun i => if m.getLsbD i then f i else laneAt old.val i }
    { wv with vregs := assocSet wv.vregs n r }
/-- Marks lanes empty, allocating an unmapped name (R32). -/
def Wave.vmark (wv : Wave) (n : Nat) (m : Word32) : Wave :=
  if m = 0 then wv
  else
    let old := wv.vget n
    { wv with vregs := assocSet wv.vregs n { old with empty := old.empty ||| m } }
/-- Writes a scalar register (R28). -/
def Wave.sput (wv : Wave) (n : Nat) (v : Word64) : Wave :=
  { wv with sregs := assocSet wv.sregs n { val := v, empty := false } }
/-- Marks a scalar register empty. -/
def Wave.smark (wv : Wave) (n : Nat) : Wave :=
  { wv with sregs := assocSet wv.sregs n { (wv.sget n) with empty := true } }
/-- Adds sticky flags to FPFLAGS (R41). -/
def Wave.flag (wv : Wave) (fl : Nat) : Wave := { wv with fpflags := wv.fpflags ||| BitVec.ofNat 32 fl }

/-! ## The register checks at issue -/

/-- A register source: whether it is a vector name, the physical name, its source control, the lanes it reads. -/
structure RegUse where
  isV  : Bool
  n    : Nat
  ctl  : BitVec 2
  mask : Word32

/-- A register destination: the lanes that would be written (any for a scalar). -/
structure RegDst where
  isV  : Bool
  n    : Nat
  mask : Word32

/-- A source is empty (R33). -/
def Wave.useEmpty (wv : Wave) (u : RegUse) : Bool :=
  if u.isV then (wv.vget u.n).empty &&& u.mask != 0 else (wv.sget u.n).empty
/-- A last-read source that is going to be unmapped has lanes on their way: it waits until none is (R34). -/
def Wave.usePending (wv : Wave) (u : RegUse) : Bool :=
  !wv.isSplit && u.isV && u.ctl.getLsbD 1 && (wv.vget u.n).empty != 0
/-- A destination has empty lanes that would be written (R34). -/
def Wave.dstEmpty (wv : Wave) (d : RegDst) : Bool :=
  if d.isV then (wv.vget d.n).empty &&& d.mask != 0 else (wv.sget d.n).empty

/-- The last-read sources whose names are freed: none in a split wave (R28, R29). -/
def Wave.freed (wv : Wave) (us : List RegUse) (v : Bool) : List Nat :=
  if wv.isSplit then [] else (us.filter fun u => u.isV == v && u.ctl.getLsbD 1).map (·.n)
/-- The wave with its last-read sources unmapped (R28). -/
def Wave.freeUses (wv : Wave) (us : List RegUse) : Wave :=
  { wv with vregs := wv.vregs.filter fun e => !(wv.freed us true).contains e.1,
            sregs := wv.sregs.filter fun e => !(wv.freed us false).contains e.1 }
/-- Names that the destinations would map (R31). -/
def newNames (mapped : List Nat) (ds : List RegDst) (v : Bool) : Nat :=
  (((ds.filter fun d => d.isV == v && (!v || d.mask != 0)).map (·.n)).eraseDups.filter fun n => !mapped.contains n).length

/-- The outcome of the register checks: go on with last-read sources freed, wait, or trap. -/
inductive Pro where
  | go (wv : Wave) | wait | trap (cause : Nat)

/-- The scalar name that the instruction a fragment waits in is going to write (R282). -/
def Frag.waitDst (f : Frag) : Option Nat :=
  let d := fun (i : Instr) => let x := field i.baseWord.toNat 35 8; if 128 ≤ x ∧ x < 192 then some (x - 128) else none
  match f.st with
  | .unit i _ => d i
  | .sleep i _ => d i
  | _ => none

/-- The physical scalar name that the other fragment's earlier instruction is going to write (R46, R282). -/
def Ctx.mateDst (k : Ctx) : Option Nat :=
  let other := 1 - k.slot
  match (k.wv.frag other).bind Frag.waitDst with
  | some n => some (if k.wv.hmode && k.wv.hslot == other && 56 ≤ n then n + 8 else n)
  | none => none

/-- The fragment is at issue, and not at the end of a wait, whose operands were read at issue (R278, R282). -/
def Ctx.atIssue (k : Ctx) : Bool := k.fr.st == .ready || k.fr.st == .opwait

/-- A scalar source or destination waits for the other fragment's write (R282). -/
def Ctx.interlocked (k : Ctx) (us : List RegUse) (ds : List RegDst) : Bool :=
  match k.mateDst with
  | some n => (us.any fun u => !u.isV && u.n == n) || ds.any fun d => !d.isV && d.n == n
  | none => false

/-- Mask bits that the other fragment's waiting `xvote` is going to write: an instruction that reads the whole of that
mask waits for them (R164, R282).  A cross-lane instruction does not, since it is what ends the wait (R163). -/
def Ctx.maskHeld (k : Ctx) (n : Nat) : Bool :=
  k.atIssue && (match k.wv.frag (1 - k.slot) with
    | some g => (match g.st with
      | .rollcall (.xvote f) m _ => f.d.toNat == n && m &&& g.owned != 0
      | _ => false)
    | none => false)

/-- Checks 5 and 6 of R36 and the waits of R33, R34 and R282, for a wave under the ceilings of its launch. -/
def Ctx.checkRegs (k : Ctx) (us : List RegUse) (ds : List RegDst) : Pro :=
  let wv := k.wv
  if k.atIssue && us.any fun u => u.ctl.getLsbD 0 && wv.useEmpty u then .trap 0x03
  else
    let w2 := wv.freeUses us
    let v := w2.vregs.length + newNames (w2.vregs.map (·.1)) ds true
    let sc := w2.sregs.length + newNames (w2.sregs.map (·.1)) ds false
    if (wv.vregs.length < v && k.l.vceil < v) || (wv.sregs.length < sc && k.l.sceil < sc) then .trap 0x04
    else if k.atIssue && (us.any wv.useEmpty || us.any wv.usePending || ds.any wv.dstEmpty || k.interlocked us ds) then .wait
    else .go w2

/-! ## Report cards and traps -/

/-- What a trap delivers (R44, R443). -/
structure Trap where
  cause : Nat
  lanes : Word32
  first : Nat
  multi : Bool
  count : Nat
  pc    : Word64
  inst  : Word64
  cards : List Card

/-- FCAUSE (R44). -/
def fcauseWord (cause first : Nat) (multi : Bool) (count : Nat) : Word32 :=
  BitVec.ofNat 32 (cause % 256 + putAt (first % 32) 8 + putAt (b2n multi) 13 + putAt (count % 256) 16)

/-- The fault registers and report card of a trap (R443, R444). -/
def Trap.regs (t : Trap) (time : Nat) : FaultRegs where
  fcause := fcauseWord t.cause t.first t.multi t.count
  fpc := t.pc
  flanes := t.lanes
  finst := t.inst
  ftime := BitVec.ofNat 64 time
  cards := t.cards.take 32

/-- A fragment's wait in roll call is withdrawn: the lanes it marked empty are full again (R165). -/
def Wave.withdrawRoll (wv : Wave) (slot : Nat) : Wave :=
  match wv.frag slot with
  | some f =>
    match f.st with
    | .rollcall _ m dst =>
      let clear := fun (e : Nat × VReg) =>
        if dst.contains e.1 then (e.1, { e.2 with empty := e.2.empty &&& ~~~(m &&& f.owned) }) else e
      { wv with vregs := wv.vregs.map clear }.setFrag slot (some { f with st := .ready })
    | _ => wv
  | none => wv

/-- The fragment that traps enters the handler at HENTRY; the other fragment is held at its next boundary, withdrawn
from a roll call (R46, R165, R279).  A skip that `rfe` has armed and no instruction has yet used is dropped, where the manual
says nothing (log entry 50). -/
def Wave.enterHandler (wv : Wave) (slot : Nat) (hentry : Nat) (r : FaultRegs) : Wave :=
  let trapped := fun (f : Frag) =>
    { f with pc := BitVec.ofNat 64 hentry, st := .ready, held := false, skip := 0, restart := false }
  let other := fun (f : Frag) => { f with held := true, st := if f.st == .opwait then .ready else f.st }
  let w0 := (wv.withdrawRoll 0).withdrawRoll 1
  { w0 with
      hmode := true, hslot := slot, fregs := r
      frag0 := w0.frag0.map (if slot = 0 then trapped else other)
      frag1 := w0.frag1.map (if slot = 0 then other else trapped) }

/-- A trap of the held fragment is kept pending; the wait in which it arose is over (R284). -/
def Wave.keepTrap (wv : Wave) (slot : Nat) (r : FaultRegs) : Wave :=
  { wv.setFrag slot ((wv.frag slot).map fun (f : Frag) => { f with st := .ready, held := true }) with
      pendTrap := some (slot, r) }

/-- Takes a trap of a fragment: TRAP_ENTRY of R46; a trap of the held fragment is kept pending (R284);
DATA_UNCORRECTABLE and PIPE_MISMATCH, a trap in the handler, and a launch without a handler contain the gang
(R47, R182, R445). -/
def State.takeTrap (s : State) (w slot : Nat) (t : Trap) : State :=
  match s.ctxOf w slot with
  | none => s
  | some k =>
    let contains := t.cause == 0x0E || t.cause == 0x0F || k.l.hentry == 0
    if contains || k.inHandler then s.containGang k.wv.launch k.wv.gang t.cause k.cl t.cards
    else if k.wv.hmode then s.setWave w fun v => v.keepTrap slot (t.regs s.now)
    else s.setWave w fun v => v.enterHandler slot k.l.hentry (t.regs s.now)

/-- The lanes of a trap of the instruction as a whole: EXEC, without the lanes that `rfe` skips (R44, R126). -/
def Ctx.wholeLanes (k : Ctx) : Word32 := k.fr.exec &&& ~~~k.fr.skip
/-- The fragment at a boundary where no instruction is issued: nothing is skipped (R126). -/
def Ctx.unskip (k : Ctx) : Ctx := { k with fr := { k.fr with skip := 0 } }

/-- A trap of an instruction as a whole: FLANES = EXEC, one report-card entry with ADDR 0 (R44, R444). -/
def Ctx.whole (k : Ctx) (s : State) (cause : Nat) (inst : Word64) (addr : Nat := 0) (acc : Nat := 0) (info : Nat := 0) :
    Trap where
  cause := cause
  lanes := k.wholeLanes
  first := lowestLane k.wholeLanes
  multi := false
  count := 0
  pc := k.fr.pc
  inst := inst
  cards := [mkCard cause (lowestLane k.wholeLanes) acc false false false k.ioff (k.wv.wid (lowestLane k.wholeLanes)) addr
    info 0 0 s.now]

/-- Traps the issuing fragment on its instruction as a whole. -/
def State.trapWhole (s : State) (k : Ctx) (cause : Nat) (i : Instr) : State :=
  s.takeTrap k.w k.slot (k.whole s cause i.baseWord)

/-- The return from the handler (R126): the other fragment is released, the PC becomes FPC, and lanes may be skipped by
the next instruction.  A trap kept pending for the other fragment is taken by `Wave.takeKept` (R284). -/
def Wave.leaveHandler (wv : Wave) (slot : Nat) (skip : Word32) : Wave :=
  let back := fun (f : Frag) => { f with pc := wv.fregs.fpc, st := .ready, skip := skip, restart := true }
  let other := fun (f : Frag) => { f with held := false }
  { wv with
      hmode := false
      frag0 := wv.frag0.map (if slot = 0 then back else other)
      frag1 := wv.frag1.map (if slot = 0 then other else back) }

/-- The trap kept pending is taken when `rfe` releases its fragment, before that fragment issues anything (R284). -/
def Wave.takeKept (wv : Wave) (hentry : Nat) : Wave :=
  match wv.pendTrap with
  | some (slot, r) => { wv.enterHandler slot hentry r with pendTrap := none }
  | none => wv

/-- A fragment that waits: its wave is resident, for a recess keeps the wait as it stands (R285). -/
def State.waiter (s : State) (w slot : Nat) : Option Ctx :=
  (s.ctxOf w slot).filter fun k => k.wv.status == .resident

/-! ## Ending an issue -/

/-- The fragment has completed an instruction of n bytes (R78). -/
def Frag.after (f : Frag) (n : Nat) : Frag :=
  { f with pc := f.pc + BitVec.ofNat 64 n, st := .ready, skip := 0, restart := false }
/-- The fragment goes on at an address. -/
def Frag.goto (f : Frag) (pc : Word64) : Frag := { f with pc := pc, st := .ready, skip := 0, restart := false }

/-- Puts a wave back with its issuing fragment past the instruction. -/
def State.commit (s : State) (k : Ctx) (wv : Wave) (n : Nat) : State :=
  s.setWave k.w fun _ => wv.setFrag k.slot ((wv.frag k.slot).map (·.after n))

/-- The fragment waits for an operand (R33, R34, R278). -/
def State.opwait (s : State) (k : Ctx) : State := s.modFrag k.w k.slot fun f => { f with st := .opwait }
/-- The fragment waits in a unit with its operands as of issue (R278). -/
def State.unitWait (s : State) (k : Ctx) (i : Instr) (u : UnitWait) : State :=
  s.modFrag k.w k.slot fun f => { f with st := .unit i u }

/-- Runs the register checks and then the effect, on the wave with its last-read sources freed; a register read with an
uncorrectable error contains the gang (R441). -/
def State.issueRegs (s : State) (k : Ctx) (i : Instr) (us : List RegUse) (ds : List RegDst) (f : Wave → State) : State :=
  match k.checkRegs us ds with
  | .trap c => s.trapWhole k c i
  | .wait => s.opwait k
  | .go wv => if s.upset && !us.isEmpty then s.trapWhole k 0x0E i else f wv

/-- The wave has stored or posted something that has not been performed: in this model every access of a wave is
performed when it issues, so only pending results and CK writes are outstanding (log entry 4). -/
def State.pendingResults (s : State) (w : Nat) : Bool :=
  match s.waves[w]? with | some v => !v.pend.isEmpty | none => false
/-- CK writes of a wave that the persistence unit has not accepted (R200, R452). -/
def State.ckOutstanding (s : State) (w : Nat) : Bool := s.ckPend.any fun x => x.wave == some w

/-- Marks destinations empty and puts a long-latency result on its way (R32); an empty result leaves nothing pending. -/
def Wave.later (wv : Wave) (vec : List (Nat × Word32 × Lanes)) (sca : Option (Nat × Word64)) (flags : Nat)
    (poison : Option (Word64 × FaultRegs)) : Wave :=
  let w1 := vec.foldl (fun (x : Wave) e => x.vmark e.1 e.2.1) wv
  let w2 := match sca with | some e => w1.smark e.1 | none => w1
  { w2 with pend := w2.pend ++ [{ vec := vec, sca := sca, flags := BitVec.ofNat 32 flags, poison := poison }] }

/-- A result arrives: lanes are written and become full, flags are set (R32, R141); lanes that have exited meanwhile are
written like the rest and never read again (R118). -/
def Wave.arrive (wv : Wave) (p : Pending) : Wave :=
  let w1 := p.vec.foldl (fun (x : Wave) e =>
    match x.vregs.lookup e.1 with
    | none => x
    | some r =>
      let r2 : VReg := { val := lanesFn fun i => if e.2.1.getLsbD i then laneAt e.2.2 i else laneAt r.val i,
                         empty := r.empty &&& ~~~e.2.1 }
      { x with vregs := assocSet x.vregs e.1 r2 }) wv
  let w2 := match p.sca with
    | none => w1
    | some (n, v) => match w1.sregs.lookup n with | none => w1 | some _ => w1.sput n v
  { w2 with fpflags := w2.fpflags ||| p.flags }

end Sys2Proof.Machine
end

