-- ==== Sys2Proof/Machine/Regulator.lean ====
section
/-!
DEFINITION. Bandwidth regulators (15 R399 to R404): windows, holds, and the reads that an access waits for.
-/

namespace Sys2Proof.Machine

/-- The status of a job (R404). -/
def State.regStat (s : State) (j : Nat) : RegStat :=
  (s.regStats.find? fun r => r.job == j).getD { job := j, ovcnt := 0, lasth := 0, win := none }

def State.setRegStat (s : State) (r : RegStat) : State :=
  { s with regStats := r :: s.regStats.filter fun x => x.job != r.job }

/-- The first hold of a job in a window: OVCNT, LASTH, the journal entry and, under OVR, BUDGET_OVERRUN (R402, R404). -/
def State.holdNoted (s : State) (g : Nat) (c : Charge) (window : Nat) : State :=
  match c with
  | .job j =>
    let r := s.regStat j
    if r.win == some window then s
    else
      let card := s.cardOf j
      let cnt := if r.ovcnt = BitVec.allOnes 32 then r.ovcnt else r.ovcnt + 1
      let s1 := (s.setRegStat { r with ovcnt := cnt, lasth := s.now, win := some window }).journal (cardPart card) (72 + g) 0x06
        (j + putAt g 64 + putAt window 128) s.now
      if cardOvr card then s1.raiseJob j 0 0x11 0 noSeq g 0 s.now else s1
  | _ => s

/-- Takes requests again in arrival order (R401): the count after them, those that are admitted, and those that are not. -/
def retake (budget : Nat) : Nat → List ReadReq → Nat × List ReadReq × List ReadReq
  | n, [] => (n, [], [])
  | n, r :: rs =>
    if budget = 0 ∨ n < budget then
      let x := retake budget (n + 64) rs
      (x.1, r :: x.2.1, x.2.2)
    else (n, [], r :: rs)

/-- The hold entries that a regulator keeps for a job or class (R401). -/
def holdEntries : Nat := 32

/-- A fragment whose read has been admitted can issue again (R278, R401). -/
def State.wakeReader (s : State) (r : ReadReq) : State :=
  match r.who with
  | .frag w slot => s.modFrag w slot fun f => if f.st == .opwait then { f with st := .ready } else f
  | _ => s

/-- A regulator enters the window that holds TIME, if it is not in it: its held requests are taken again, then those that
wait at their slices (R400, R401). -/
def State.rollWindow (s : State) (g : Nat) (c : Charge) : State :=
  let (budget, window) := s.budgetOf c
  let ws := windowStart window s.now
  let r := s.regCount g c
  if r.window = ws then s
  else
    let x := retake budget 0 (r.held ++ r.slice)
    let s1 := s.setRegCount { r with window := ws, count := x.1, held := x.2.2.take holdEntries, slice := x.2.2.drop holdEntries }
    let s2 : State := x.2.1.foldl State.wakeReader { s1 with granted := s1.granted ++ x.2.1 }
    if x.2.2.isEmpty then s2 else s2.holdNoted g c ws

/-- Every regulator enters the window of the present TIME (R400). -/
def State.rollAll (s : State) : State := s.regs.foldl (fun st r => st.rollWindow r.g r.c) s

/-- A read request at a regulator: admitted and counted, or held, or waiting at its slice for a hold entry (R400, R401);
a party with BUDGET 0 is not regulated. -/
def State.readRequest (s : State) (g : Nat) (c : Charge) (r : ReadReq) : State × Bool :=
  let (budget, window) := s.budgetOf c
  if budget = 0 then (s, true)
  else
    let s1 := s.rollWindow g c
    let x := s1.regCount g c
    if x.count < budget then (s1.setRegCount { x with count := x.count + 64 }, true)
    else
      let y := if x.held.length < holdEntries then { x with held := x.held ++ [r] } else { x with slice := x.slice ++ [r] }
      ((s1.setRegCount y).holdNoted g c (windowStart window s1.now), false)

/-- The reads of lines from LPDDR-6 that one access of a party needs are asked for, but for those asked for already: true
when every one has been admitted; else the access waits (R399 to R401).  A memory controller under restart admits none
(R471). -/
def State.readLines (s : State) (who : Reader) (c : Option Charge) (lines : List Nat) : State × Bool :=
  match c with
  | none => (s, true)
  | some x =>
    lines.foldl (fun (a : State × Bool) ln =>
      let q : ReadReq := { who := who, line := ln }
      if a.1.granted.contains q then a
      else if a.1.proctor.resets.contains (72 + regulatorOf ln) then (a.1, false)
      else if a.1.regs.any fun y => decide (y.c = x) && (y.held.contains q || y.slice.contains q) then (a.1, false)
      else
        let b := a.1.readRequest (regulatorOf ln) x q
        (if b.2 then { b.1 with granted := q :: b.1.granted } else b.1, a.2 && b.2)) (s, true)

/-- REGULATOR_WINDOW_START. -/
def execRegulatorWindowStart (g : Nat) (c : Charge) (s : State) : Host.Outcome State Fault Refusal :=
  .next (if 24 ≤ g then s else s.rollWindow g c)

/-- REGULATOR_READ_REQUEST: a read of a party that no other step makes, such as an instruction fetch or a prefetch
(R400). -/
def execRegulatorReadRequest (g : Nat) (c : Charge) (id : Nat) (s : State) : Host.Outcome State Fault Refusal :=
  .next (if 24 ≤ g then s else (s.readRequest g c { who := .request id, line := 0 }).1)

end Sys2Proof.Machine
end

