-- ==== Sys2Proof/Machine/Timetable.lean ====
section
/-!
DEFINITION. The steps of the Timetable: queues (14 R358, R359, R366), job cards (R361, R362), releases (R372), placement
(R299, R374), recess bounds (R377), deadlines (R381), the hold (R383), the watchdog with the partition drain
(18 R450, 20 R478, R479), and the passage of TIME, which stops wherever something of the Timetable falls due (R374, R394).  A
step whose condition does not hold leaves the machine as it is (log entry 2).
-/

namespace Sys2Proof.Machine

/-- The partition of a job's card is fenced. -/
def State.fencedPart (s : State) (p : Nat) : Bool := match s.parts[p]? with | some x => x.fenced | none => false

/-! ## Queues -/

/-- What a TAIL read leads to: deferred releases that waited for CAP start and owned entries are admitted (R359, R366,
R372); an event-released job is released when the instant ends (R374).  A decision is due where a READY instance may have been
admitted entries that its release could not (log entry 35). -/
def State.tailSeen (s : State) (q : Nat) : State :=
  let s1 := s.readTail q
  match s1.queueJob q with
  | none => s1
  | some j =>
    let n := match s1.job? j with | some x => x.deferred.length | none => 0
    let idle : Bool := (match s1.inst? j with | some i => i.st == .ready && decide (i.next < i.hi) | none => false)
    let s2 := if (s1.qtab.getD q QEntry.reset).overCap then s1 else (s1.admitOwned j).startDeferred j n
    if idle then s2.due else s2

/-- A template record with the extents that R366 ignores put at 1. -/
def templateChecked (r : Nat) : Nat :=
  (List.range 6).foldl (fun (a : Nat) i =>
    if field r 394 3 ≤ i && i < field r 388 3 then a - putAt (extentOf a i) (576 + 64 * i) + putAt 1 (576 + 64 * i) else a) r

/-- The template of a TASK queue, read and checked when the queue is enabled; 0 for a LAUNCH queue, none for a template
that fails, its declared regions among what R364 checks (R366).  Without a loaded job there is no card to check it against
(log entry 33). -/
def State.queueTemplate (s : State) (q p : Nat) (qe : QEntry) : Option (BitVec 2048) :=
  if !qe.kind then some 0
  else if qe.template.toNat % 64 != 0 then none
  else match s.readVA p dmaAgents false qe.template.toNat 256, s.queueJob q with
  | .ok bs, some j =>
    let r := ofBytes bs
    let sound := (s.checkRecord (s.cardOf j) p (templateChecked r)).isNone &&
      (match s.readRegions p r with | .ok _ => true | .error _ => false)
    if sound then some (BitVec.ofNat 2048 r) else none
  | _, _ => none

/-- EN goes from 0 to 1 (R358): the header is read and checked, DONE and the counts take its HEAD. -/
def State.enableQueue (s : State) (q : Nat) : State :=
  let qe := s.qtab.getD q QEntry.reset
  match s.queuePart q with
  | none => s
  | some p =>
    if qe.en || qe.hdr.toNat % 64 != 0 then s
    else match s.ring p qe.hdr.toNat, s.queueTemplate q p qe with
    | some r, some t =>
      if r.base % (if qe.kind then 32 else 256) != 0 then s
      else
        let on := fun (x : QEntry) =>
          { x with en := true, tmpl := t, done := BitVec.ofNat 64 r.head, head := r.head, tail := r.head, overCap := false }
        ((s.setQ q on).tailSeen q).settle
    | _, _ => s

/-- The Timetable gives up its token of the line of TAIL of a queue that is no longer enabled (R359). -/
def State.unwatchTail (s : State) (q : Nat) : State :=
  match s.queuePart q with
  | some p => s.unwatchLine p ((s.qtab.getD q QEntry.reset).hdr.toNat + 24)
  | none => s

/-- EN goes from 1 to 0 (R358): admission stops and the entries owned but not admitted are withdrawn. -/
def State.queueOff (s : State) (q : Nat) : State :=
  if !(s.qtab.getD q QEntry.reset).en then s
  else
    let s1 := (s.unwatchTail q).setQ q fun x => { x with en := false }
    let back := fun (i : Instance) => if cardQueue i.card == q then { i with hi := i.next, spawned := [] } else i
    let none_ := fun (d : Deferred) => if cardQueue d.card == q then { d with own := d.own.map fun o => (o.1, o.1) } else d
    { s1 with
      insts := s1.insts.map back
      jobs := s1.jobs.map fun e => (e.1, { e.2 with deferred := e.2.deferred.map none_ }) }

/-- A queue is disabled (R358). -/
def State.disableQueue (s : State) (q : Nat) : State :=
  if (s.qtab.getD q QEntry.reset).en then (s.queueOff q).settle else s

/-- QUEUE_ENABLE. -/
def execQueueEnable (q : Nat) (s : State) : Host.Outcome State Fault Refusal := .next (s.enableQueue q)

/-- QUEUE_DISABLE. -/
def execQueueDisable (q : Nat) (s : State) : Host.Outcome State Fault Refusal := .next (s.disableQueue q)

/-- A write has recalled the Timetable's token of the line of TAIL of an enabled queue (R359). -/
def State.tailRecalled (s : State) (q : Nat) : Bool :=
  let qe := s.qtab.getD q QEntry.reset
  qe.en && !s.ttDown && (match s.queuePart q with | some p => !s.watches p (qe.hdr.toNat + 24) | none => false)

/-- TAIL_RECALL: a write to the watched TAIL line makes the Timetable read TAIL again (R359). -/
def execTailRecall (q : Nat) (s : State) : Host.Outcome State Fault Refusal :=
  .next (if s.tailRecalled q then (s.tailSeen q).settle else s)

/-! ## Job cards -/

/-- The tests of R362 on a card with VALID = 1, each with the 64-bit word it names. -/
def State.cardFaults (s : State) (p j : Nat) (card : BitVec 1024) : List (Nat × Bool) :=
  let c := card.toNat
  let m := cardRmode card
  let pe := cardPeriod card
  [(0, field c 0 8 != j), (0, field c 14 2 != 0), (0, m == 3), (0, cardMiss card == 3), (0, cardPool card == 3),
   (0, s.jobs.any fun e => e.1 != j && e.2.loaded && cardQueue e.2.card == cardQueue card),
   (0, cardPart card != p), (0, s.queuePart (cardQueue card) != some (cardPart card)),
   (0, (m == 0) == (cardMaxsp card == 0)),
   (1, pe != 0 && decide (pe < 10000)),
   (2, cardDeadline card == 0), (2, pe != 0 && decide (pe < cardDeadline card)),
   (5, decide (cardWindow card < 10000) || decide (10000000 < cardWindow card)),
   (6, decide (cardWdog card < 10000)),
   (7, cardClmax card == 0 || decide (64 < cardClmax card)), (7, field c 455 57 != 0),
   (8, cardExq card % 64 != 0),
   (9, field c 592 48 != 0)] ++ (List.range 6).map fun i => (10 + i, field c (640 + 64 * i) 64 != 0)

/-- The first release time of a card at or after a time (R362, R372). -/
def firstRelease (card : BitVec 1024) (now : Nat) : Nat :=
  let f := cardFirst card
  let p := cardPeriod card
  if now ≤ f || p = 0 then f else f + (now - f + p - 1) / p * p

/-- The job-card block after a load (R360). -/
def State.loadResult (s : State) (p j : Nat) (ok : Bool) (det : Nat) : State :=
  s.setPart p fun x => { x with jobload := BitVec.ofNat 8 j, lbusy := false, lok := ok,
                                ldet := if ok then x.ldet else BitVec.ofNat 8 det }

/-- An accepted card: the cached card is replaced, and the new card decides the next release (R362). -/
def State.takeCard (s : State) (j : Nat) (card : BitVec 1024) : State :=
  let fresh : Job := { card := card, loaded := true, loadTime := s.now, nextRel := firstRelease card s.now, skipNext := false,
                       skipTail := 0, deferred := [], hold := [], overflow := false, lastCkctl := false }
  let s1 : State := match s.job? j with
    | none => { s with jobs := s.jobs ++ [(j, fresh)] }
    | some x => s.setJob j fun _ =>
        { fresh with deferred := x.deferred, hold := x.hold, skipNext := x.skipNext, skipTail := x.skipTail, lastCkctl := x.lastCkctl }
  let q := cardQueue card
  if cardPeriod card = 0 && (s1.qtab.getD q QEntry.reset).en then (s1.tailSeen q).settle else s1

/-- A write of JOBLOAD in the window of partition p loads card j, or with VALID = 0 unloads job j; a card of another partition
is rejected, whatever VALID says (R360, R362, R391; log entry 32). -/
def State.loadJob (s : State) (p j : Nat) : State :=
  match s.parts[p]? with
  | none => s
  | some pt =>
    match s.readVA p dmaAgents false (pt.jtbase.toNat + 128 * j) 128 with
    | .error _ => s.loadResult p j false 0xFF
    | .ok bs =>
      let card := BitVec.ofNat 1024 (ofBytes bs)
      if bitOf card.toNat 23 then
        match (s.cardFaults p j card).find? fun x => x.2 with
        | some f => s.loadResult p j false f.1
        | none => (s.loadResult p j true 0).takeCard j card
      else if cardPart card != p then s.loadResult p j false 0
      else (s.loadResult p j true 0).setJob j fun x => { x with loaded := false }

/-- JOB_LOAD. -/
def execJobLoad (p j : Nat) (s : State) : Host.Outcome State Fault Refusal := .next (s.loadJob p (j % 256))

/-! ## Releases -/

/-- A periodic release that does not occur is reported with EVENT 0x03 at its release time (R381, R450). -/
def State.skipRelease (s : State) (j rel : Nat) (card : BitVec 1024) : State :=
  s.deliver j card (exRecord 3 0 j (cardPart card) (cardQueue card) 0 rel rel (rel + cardDeadline card) noSeq 0 0 0 0) rel

/-- The release of a periodic job at its next release time, or the report that it does not occur (R372, R381, R450). -/
def State.periodicRelease (s : State) (j : Nat) : State :=
  match s.job? j with
  | none => s
  | some jb =>
    let rel := jb.nextRel
    let s1 := s.setJob j fun x => { x with nextRel := rel + cardPeriod jb.card }
    if s.fencedPart (cardPart jb.card) then s1.skipRelease j rel jb.card
    else if jb.skipNext then (s1.setJob j fun x => { x with skipNext := false }).skipRelease j rel jb.card
    else s1.release j rel

/-- An event-released job is due: its queue shows an entry that nothing owns, and it holds no instance (R372); after a
release that MISS = 2 skipped, a later TAIL read must show one more (R381). -/
def State.eventDue (s : State) (e : Nat × Job) : Bool :=
  let q := cardQueue e.2.card
  let qe := s.qtab.getD q QEntry.reset
  e.2.loaded && cardPeriod e.2.card == 0 && (s.inst? e.1).isNone && e.2.deferred.isEmpty && qe.en &&
  !s.fencedPart (cardPart e.2.card) && !s.ttDown && decide (max (s.unowned q e.1) e.2.skipTail < qe.tail)

/-- EVENT_RELEASE of job j, or the report that it does not occur (R372, R381). -/
def State.eventRelease (s : State) (j : Nat) : State :=
  match s.job? j with
  | none => s
  | some jb =>
    if jb.skipNext then
      let tail := (s.qtab.getD (cardQueue jb.card) QEntry.reset).tail
      (s.setJob j fun x => { x with skipNext := false, skipTail := tail }).skipRelease j s.now jb.card
    else s.release j s.now

/-! ## The watchdog and the drain -/

/-- A drain step is stamped in the journal as KIND 0x0D (R450). -/
def State.drainMark (s : State) (p step : Nat) : State := s.journal p 102 0x0D step s.now

/-- Instances of a partition, by job. -/
def State.partInsts (s : State) (p : Nat) : List Instance := s.insts.filter fun i => cardPart i.card == p

/-- The clusters that the instances of a partition hold. -/
def State.clustersOf (s : State) (p : Nat) : List Nat :=
  (List.range 64).filter fun c => match (s.clusters[c]?).bind (·.job) with
    | some j => cardPart (s.cardOf j) == p
    | none => false

/-- Drain step 1 (R450): the fence, the recess requests to RUNNING instances, and the time of step 2. -/
def State.drainStart (s : State) (p : Nat) : State :=
  let run := (s.partInsts p).filter fun i => i.st == .running
  let g := (run.map s.preemptBound).foldl max 0
  let s1 := (s.setPart p fun x => { x with fenced := true, drain := some (1, s.now, s.now + g) }).drainMark p 1
  run.foldl (fun st i => st.recessRequest i.job none) (s1.setPart p fun x => { x with drainCls := s.clustersOf p })

/-- The watchdog of an instance's queue expires at a device time: the record, and step 1 of the drain (R384, R450). -/
def State.watchdogFires (s : State) (i : Instance) (t : Nat) : State :=
  ((s.raiseJob i.job 0 0x13 0 i.firstSeq 0 0 t).drainStart (cardPart i.card)).settle

/-- Drain step 2: every resident gang of the partition is killed; the clusters stay with the drain until it ends (R450, R478,
R479). -/
def State.drainKill (s : State) (p : Nat) : State :=
  match (s.parts[p]?).bind (·.drain) with
  | some (1, t, at_) =>
    let gs := (List.range s.launches.length).flatMap fun l =>
      match s.launches[l]? with
      | some x => if x.part == p && !x.retired then
          ((List.range x.gangs.length).filter fun g => match x.gangs[g]? with | some y => y.placed | none => false).map
            fun g => (l, g)
        else []
      | none => []
    let s0 := (s.clustersOf p).foldl (fun st c => st.setCluster c fun x => { x with drain := some p }) s
    let s1 := (s0.setPart p fun x => { x with drain := some (2, t, at_) }).drainMark p 2
    (gs.foldl (fun st e => st.killGang e.1 e.2) s1).settle
  | _ => s

/-! ## What falls due -/

/-- When the recess bound of an instance's request expires: L − 2,000 ns after it (R377); a drain's request is exempt, and a
drain stops the timing of an earlier one (R478). -/
def State.boundAt (s : State) (i : Instance) : Option Nat :=
  match i.reqTime with
  | some t => if i.st == .recessing && !s.fencedPart (cardPart i.card) then some (t + i.bound - 2000) else none
  | none => none

/-- When the watchdog of an instance's queue expires: it counts while the instance runs, and not during a drain (R384,
R450). -/
def State.watchAt (s : State) (i : Instance) : Option Nat :=
  if (i.st == .running || i.st == .recessing) && !s.fencedPart (cardPart i.card) then
    some (i.progress + (cardWdog i.card - i.elapsed))
  else none

/-- When step 2 of a partition's drain is due (R450). -/
def Part.killAt (p : Part) : Option Nat := match p.drain with | some (1, _, t) => some t | _ => none

/-- The next release time of a periodic job (R372). -/
def Job.releaseAt (j : Job) : Option Nat := if j.loaded && cardPeriod j.card != 0 then some j.nextRel else none

/-- The deadlines not yet tested of instances and of releases that wait (R381). -/
def State.deadlines (s : State) : List Nat :=
  (s.insts.filter fun i => !i.missed).map (·.deadline) ++
  s.jobs.flatMap fun e => (e.2.deferred.filter fun d => !d.missed).map (·.deadline)

/-- Every device time at which something of the Timetable falls due. -/
def State.dueTimes (s : State) : List Nat :=
  s.deadlines ++ s.insts.filterMap s.boundAt ++ s.insts.filterMap s.watchAt ++ s.parts.filterMap Part.killAt ++
  s.jobs.filterMap fun e => e.2.releaseAt

/-- The jobs, lower JOBID first, that a test selects. -/
def State.jobsWhere (s : State) (p : Nat × Job → Bool) : List Nat :=
  ((s.jobs.filter p).map (·.1)).mergeSort fun a b => decide (a ≤ b)

/-- What falls due at device time t after its deadline tests: recess bounds (R377), watchdogs (R384) and drain kills (R450);
then, with the completions and recess arrivals of t taken, its releases, which come last, and the decision (R374). -/
def State.instantEnds (s : State) (t : Nat) : State :=
  let due := fun (o : Option Nat) => match o with | some x => decide (x ≤ t) | none => false
  let s1 := (s.insts.filter fun i => due (s.boundAt i)).foldl (fun st i => st.boundKill i.job ((s.boundAt i).getD t)) s
  let s2 := (s1.insts.filter fun i => due (s1.watchAt i)).foldl (fun st i =>
    if (st.watchAt i).isSome then st.watchdogFires i ((s1.watchAt i).getD t) else st) s1
  let s3 := ((List.range s2.parts.length).filter fun p => match s2.parts[p]? with | some x => due x.killAt | none => false).foldl
    State.drainKill s2
  let js := s3.jobsWhere fun e => due e.2.releaseAt
  let es := if t = s3.now then s3.jobsWhere s3.eventDue else []
  if js.isEmpty && es.isEmpty then s3
  else (es.foldl State.eventRelease (js.foldl State.periodicRelease s3.settle)).settle

/-- Takes what fell due before the present TIME, instant by instant, each with its own stamp; at most n instants (R471). -/
def State.catchUp (s : State) : Nat → State
  | 0 => s
  | n + 1 =>
    match (s.dueTimes.filter fun t => decide (t < s.now)).min? with
    | some t => ((s.missAll t).instantEnds t).catchUp n
    | none => s

/-- How many instants may lie behind: each periodic job's releases, and what else can fall due once. -/
def State.lateCount (s : State) : Nat :=
  ((s.jobs.filterMap fun e => e.2.releaseAt.map fun t => (s.now - t) / max 1 (cardPeriod e.2.card) + 1)).foldl (· + ·)
    s.dueTimes.length

/-- The ends of the windows in which a regulator holds requests (R400, R401). -/
def State.windowEnds (s : State) : List Nat :=
  (s.regs.filter fun r => !r.held.isEmpty || !r.slice.isEmpty).map fun r => r.window + (s.budgetOf r.c).2

/-- The latest time that TIME may pass to at once: t, or the first later time of a list. -/
def stopBefore (now t : Nat) (stops : List Nat) : Nat := (stops.filter fun x => decide (now < x)).foldl min t

/-- TIME passes: the present instant ends, and TIME goes on by ns, but no further than the next time at which something
falls due or a held read is taken again; deadline tests are the first of that time (R374, R381, R394, R400).  While the
Timetable restarts nothing of it stops TIME (R471). -/
def State.advance (s : State) (ns : Nat) : State :=
  let go := fun (st : State) (t : Nat) => ({ st with clock := { st.clock with time := t } } : State).rollAll
  if ns = 0 then s
  else if s.ttDown then go s (stopBefore s.now (s.now + ns) s.windowEnds)
  else
    let s1 := (s.catchUp s.lateCount).instantEnds s.now
    let t := stopBefore s1.now (s1.now + ns) (s1.dueTimes ++ s1.windowEnds)
    let s2 := go s1 t
    if s2.deadlines.any fun x => decide (x ≤ t) then s2.settle else s2

/-- PERIODIC_RELEASE of job j, at its next release time.  Releases are the last events of their stamp (R374), so that those
of every job are taken and TIME goes on (R372). -/
def execPeriodicRelease (j : Nat) (s : State) : Host.Outcome State Fault Refusal :=
  .next <|
    match (s.job? j).bind Job.releaseAt with
    | some t => if t ≤ s.now && !s.ttDown then s.advance 1 else s
    | none => s

/-- WORKGROUP_PLACEMENT. -/
def execWorkgroupPlacement (l g : Nat) (s : State) : Host.Outcome State Fault Refusal := .next (s.placeGang l g)

/-- RECESS_BOUND_EXPIRY: an instance that is not RECESSED by L − 2,000 ns after its request (R377). -/
def execRecessBoundExpiry (j : Nat) (s : State) : Host.Outcome State Fault Refusal :=
  .next <|
    match (s.inst? j).bind s.boundAt with
    | some t => if t ≤ s.now && !s.ttDown then s.boundKill j t else s
    | none => s

/-- DEADLINE_MISS: the deadline tests of job j (R381). -/
def execDeadlineMiss (j : Nat) (s : State) : Host.Outcome State Fault Refusal :=
  .next (if s.ttDown then s else (s.missJob s.now j).settle)

/-- A write has recalled the Timetable's token of the line of EXQ's HEAD, and records of the job are held (R383). -/
def State.headRecalled (s : State) (jb : Job) : Bool :=
  !jb.hold.isEmpty && !s.ttDown && !s.watches (cardPart jb.card) (cardExq jb.card + 16)

/-- EXQ_HEAD_RECALL: the owner has written HEAD, and held records go into the room; the line is watched while some are left
(R383). -/
def execExqHeadRecall (j : Nat) (s : State) : Host.Outcome State Fault Refusal :=
  .next <|
    match s.job? j with
    | none => s
    | some jb => if s.headRecalled jb then (s.drainHold j 18).watchHead j else s

/-- WATCHDOG_EXPIRY of the watchdog of queue q: the running instance has made no progress for WDOG (R384, R450). -/
def execWatchdogExpiry (q : Nat) (s : State) : Host.Outcome State Fault Refusal :=
  .next <|
    match s.insts.find? fun i => cardQueue i.card == q && (s.watchAt i).isSome with
    | none => s
    | some i =>
      match s.watchAt i with
      | some t => if t ≤ s.now && !s.ttDown then s.watchdogFires i t else s
      | none => s

/-- DRAIN_KILL, step 2 at t + G (R450, R478, R479). -/
def execDrainKill (p : Nat) (s : State) : Host.Outcome State Fault Refusal :=
  .next <|
    match (s.parts[p]?).bind Part.killAt with
    | some t => if t ≤ s.now then s.drainKill p else s
    | none => s

/-! ## The end of a drain -/

/-- Step 3 for one queue: EN := 0, HEAD := TAIL, DONE := TAIL (R450, R479). -/
def State.drainQueue (s : State) (p q : Nat) : State :=
  let qe := s.qtab.getD q QEntry.reset
  let s1 := (s.unwatchTail q).setQ q fun x => { x with en := false }
  if qe.hdr = 0 then s1
  else match s1.ring p qe.hdr.toNat with
  | none => s1
  | some r => (s1.writeHead q p r.tail).setQ q fun x => { x with tail := r.tail, done := BitVec.ofNat 64 r.tail, dropped := [] }

/-- DRAIN_ABORT, step 3, when the kill is complete: instances, those that wait among them, complete aborted; the queues
are emptied; step 4 begins (R450, R479). -/
def execDrainAbort (p : Nat) (s : State) : Host.Outcome State Fault Refusal :=
  .next <|
    match (s.parts[p]?).bind (·.drain) with
    | some (step, t, at_) =>
      if step != 2 then s
      else
        let s1 := s.drainMark p 3
        let qs := match s.parts[p]? with
          | some x => (List.range 64).filter fun q => x.qmask.getLsbD q
          | none => []
        let s2 := qs.foldl (fun st q => st.setQ q fun x => { x with en := false }) s1
        let waiting := fun (st : State) (e : Nat × Job) =>
          (List.range e.2.deferred.length).foldl (fun u k =>
            match e.2.deferred[k]? with
            | some d => if cardPart d.card == p then u.abortDeferred e.1 k else u
            | none => u) st
        let s3 := s2.jobs.foldl waiting s2
        let s4 : State := { s3 with jobs := s3.jobs.map fun e =>
          (e.1, { e.2 with deferred := e.2.deferred.filter fun d => cardPart d.card != p }) }
        let s5 := (s4.partInsts p).foldl (fun st i => st.abortInst i.job) s4
        let s6 := qs.foldl (fun st q => st.drainQueue p q) s5
        let s7 := (s6.setPart p fun x => { x with drain := some (3, t, at_) }).drainMark p 4
        s7.settle
    | none => s

/-- A journal entry of a drain's leave (0) or join (1) of a cluster: R482 names its agent and PARTID, and no chapter its KIND
and PAYLOAD (log entry 51). -/
def State.moveEntry (s : State) (p agent what cl : Nat) : State :=
  s.journal p agent (Config.entryKind what).toNat (Config.entryPayload what cl).toNat s.now

/-- A cluster cleans and invalidates its cache by leaving and joining, for the drain of partition p (R340, R450, R482). -/
def State.leaveJoin (s : State) (p cl : Nat) : State :=
  match s.clusters[cl]? with
  | some c => if c.joined then (((s.clusterLeave cl).moveEntry p cl 0 cl).clusterJoin cl).moveEntry p 96 1 cl else s
  | none => s

/-- DRAIN_END: step 4 ends, with the partition's system-cache lines invalidated and its clusters left and joined, and
step 5 lifts the fence (R450). -/
def execDrainEnd (p : Nat) (s : State) : Host.Outcome State Fault Refusal :=
  .next <|
    match (s.parts[p]?).bind (·.drain) with
    | some (step, _, _) =>
      if step != 3 then s
      else
        let cls := match s.parts[p]? with | some x => x.drainCls | none => []
        let s1 := cls.foldl (fun st cl => st.leaveJoin p cl) s
        let s2 : State := { s1 with
          sys := s1.sys.filter fun e => e.part != p
          clusters := s1.clusters.map fun c => if c.drain == some p then { c with drain := none, job := none } else c }
        let s3 := (s2.setPart p fun x => { x with fenced := false, drain := none, drainCls := [] }).drainMark p 5
        s3.due.settle
    | none => s

end Sys2Proof.Machine
end

