-- ==== Sys2Proof/Machine/Turn.lean ====
section
/-!
DEFINITION. Turns: which fragment issues (09 R281, R284), fetching its instruction (04 R78, R79), the silent actions of
caches (11 R324, R335; 15 R392, R416), and placing an instruction where the next step fetches.  `Step.lean` only runs
what a turn answers.
-/

namespace Sys2Proof.Machine

/-! ## Fetching -/

/-- One instruction word at a virtual address, or the cause with MALF: poisoned data rank above a missing execute right
(R79). -/
def State.fetchWord (s : State) (p core : Nat) (pc : Nat) : Except (Nat × Bool) Word64 :=
  if 2 ^ 56 ≤ pc then .error (0x09, false)
  else if field pc 40 16 = 0xFFFE then .error (0x08, false)
  else match s.xlate p (coreAgents core) pc with
  | .fault c m => .error (c, m)
  | .ok pa leaf _ _ =>
    if s.poisoned pa 8 then .error (0x0E, false)
    else if !s.permitted p .fetch false leaf pa 8 then .error (0x0A, false)
    else if outbound pa then
      .ok (BitVec.ofNat 64 (ofBytes ((List.range 8).map fun i => if s.pcie.up then Config.outboundByte (pa + i) else 0xFF)))
    else .ok (BitVec.ofNat 64 (ofBytes (s.readPA (clHolder (core / 4)) pa 8)))

/-- The instruction at the issuing fragment's PC: a decoded instruction, or the step that its failure is
(R36 checks 1 and 2, R78, R79).  `none` with a word stands for RESERVED_FIELD. -/
inductive Fetched where
  | run (i : Instr) | reserved (w : Word64)
  deriving DecidableEq, Repr

/-- Fetches and decodes at the PC of a fragment. -/
def State.fetch (s : State) (k : Ctx) : Fetched :=
  match s.fetchWord k.part k.wv.core k.fr.pc.toNat with
  | .error (c, m) => .run (.instructionFetchFault .base (BitVec.ofNat 8 c) m)
  | .ok w =>
    let ext := if wordL w then (s.fetchWord k.part k.wv.core ((k.fr.pc.toNat + 8) % 2 ^ 64)).map some else .ok none
    match ext with
    | .error (c, m) => .run (.instructionFetchFault (.ext w) (BitVec.ofNat 8 c) m)
    | .ok e =>
      match decode w e with
      | .ok i => .run i
      | .error .illegalOpcode => .run (.illegalOpcode w)
      | .error .reservedField => .reserved w

/-! ## The issue turn -/

/-- The recess request of a wave acts on a fragment in this state at this turn (R122, R278): under ANY at every
boundary and wait but SPLITWAIT, under DECLARED in the waits of R278; never in the handler, held, or under
WORKGROUP. -/
def Ctx.recessDue (k : Ctx) : Bool :=
  k.wv.recess && !k.wv.hmode && !k.fr.held &&
  (match k.fr.st with
   | .ready | .opwait | .rollcall _ _ _ => recessAny k.l
   | .barwait _ | .sleep _ _ => recessAny k.l || recessDeclared k.l
   | .unit _ (.bankMode _ _) | .unit _ .recessok => false
   | .unit _ _ => recessAny k.l || recessDeclared k.l
   | .splitwait _ => false)

/-- The deferred trap that the wave takes next (R230); the RECESS of an `rckpt` waits while the handler runs (R249). -/
def Wave.nextDeferred (wv : Wave) : Option (BitVec 8 × Nat) :=
  wv.deferred.find? fun e => e.1 != 0x10 || (wv.recess && !wv.hmode)

/-- A deferred trap of the wave is taken by this fragment at this turn (R230). -/
def Ctx.deferredDue (k : Ctx) : Bool :=
  k.wv.nextDeferred.isSome && !k.fr.held &&
  (match k.fr.st with
   | .ready | .opwait | .rollcall _ _ _ | .barwait _ => true
   | .unit _ (.tlWait _ _) | .unit _ (.fifo _ _ _ _ _) => true
   | _ => false)

/-- R329: while a workgroup is serialised, a wave of it runs only while no wave of the workgroup with a lower WAVEIDX has
a fragment that is neither at a barrier nor retired; a wave of another workgroup that has completed a
synchronisation point starts nothing before the release. -/
def State.serialHolds (s : State) (k : Ctx) : Bool :=
  match k.l.serial with
  | some (key, running) =>
    if k.wv.wgKey != key then !k.wv.epochOpen
    else running && s.waves.any fun v =>
      v.launch == k.wv.launch && v.wgKey == key && v.widx < k.wv.widx && v.status == .resident &&
      [v.frag0, v.frag1].any fun o => match o with
        | some f => (match f.st with | .barwait _ => false | _ => true)
        | none => false
  | none => false

/-- A fragment that its issue slot can select: READY, in a resident wave that neither a serialised workgroup holds (R329)
nor a result whose data is uncorrectable: such a wave issues nothing that R183 would have to undo (log entry 53). -/
def State.canIssue (s : State) (k : Ctx) : Bool :=
  k.wv.status == .resident && !k.fr.held && k.fr.st == .ready && !s.serialHolds k && !k.wv.pend.any fun p => p.poison.isSome

/-- The other fragments of the core that can issue: wave, slot, and whether they are of the same issue slot, wave slot
mod 4 (R280). -/
def State.rivals (s : State) (k : Ctx) : List (Nat × Nat × Bool) :=
  (List.range s.waves.length).flatMap fun w => [0, 1].filterMap fun sl =>
    match s.ctxOf w sl with
    | none => none
    | some x =>
      if x.wv.core == k.wv.core && !(w == k.w && sl == k.slot) && s.canIssue x then some (w, sl, x.wv.wslot % 4 == k.wv.wslot % 4)
      else none

/-- R121, R281: the fragment may not issue now: one of its issue slot that it passed over still waits to issue, or it has
yielded and another of the core can issue. -/
def State.turnHeld (s : State) (k : Ctx) : Bool :=
  let rs := s.rivals k
  (k.fr.yielded && !rs.isEmpty) || k.fr.passed.any fun p => rs.contains (p.1, p.2, true)

/-- A fragment issues: its age, the fragments that it passes over, and what the others of its core keep of theirs: only
those that are still READY, and no yield (R121, R281). -/
def State.noteIssue (s : State) (k : Ctx) : State :=
  let rs := s.rivals k
  let mates := (rs.filter fun r => r.2.2).map fun r => (r.1, r.2.1)
  let other := fun (f : Frag) (same : Bool) =>
    { f with yielded := false, passed := if same then f.passed.filter fun p => mates.contains p else f.passed }
  let self := fun (f : Frag) => { f with age := s.issues + 1, passed := mates, yielded := false }
  let step := fun (e : Wave × Nat) =>
    let v := e.1
    if v.core != k.wv.core then v
    else
      let same := v.wslot % 4 == k.wv.wslot % 4
      let at_ := fun (sl : Nat) (f : Frag) => if e.2 == k.w && sl == k.slot then self f else other f same
      { v with frag0 := v.frag0.map (at_ 0), frag1 := v.frag1.map (at_ 1) }
  { s with waves := s.waves.zipIdx.map step, issues := s.issues + 1 }

/-- One issue opportunity of a fragment: the instruction that `exec` runs and the state it runs in, or a state with
nothing to run.  `faulty`: the two issues of a redundant launch differ twice (R448); `upset`: a register that the
instruction reads is uncorrectable (R441). -/
def State.issueTurn (s : State) (w slot : Nat) (faulty upset : Bool) : Option Instr × State :=
  match s.ctxOf w slot with
  | none => (none, s)
  | some k =>
    if 2 ≤ slot || k.wv.status != .resident || k.fr.held then (none, s)
    else
      let s0 : State := { s with cur := some (w, slot) }
      if k.deferredDue then (some (.deferredTrap w slot), s0)
      else if k.recessDue then (some (.recessTrap w slot), s0)
      else if !k.atIssue || s.serialHolds k || s.turnHeld k || k.wv.pend.any fun p => p.poison.isSome then (none, s)
      else
        let s1 : State := { s0.noteIssue k with faulty := faulty, upset := upset }
        match s1.fetch k with
        | .reserved x => (none, s1.takeTrap w slot (k.whole s 0x02 x))
        | .run i =>
          if faulty && s.redund k.l then (none, s1.takeTrap w slot (k.whole s 0x0F i.baseWord))
          else (some i, s1)

/-! ## Silent turns -/

/-- The table of a level on the walk of an address, when every entry above it is a valid table pointer (R409). -/
def State.tableAt (s : State) (p va : Nat) : Nat → Option Nat
  | 0 => match s.parts[p]? with | some pt => some pt.ptroot.toNat | none => none
  | lv + 1 =>
    match s.tableAt p va lv with
    | none => none
    | some tbl =>
      let i := levelIndex lv va
      let e := tableEntry s.mem tbl i
      if s.poisoned (tbl + 8 * i) 8 || !e.getLsbD 0 || !e.getLsbD 1 || s.malformed p lv e then none
      else some (leafPA e)

/-- A core takes a copy of a write-back line of memory into its L1 of 64 KiB, 1,024 lines (R13, R324): a line below the
installed capacity that no error poisons. -/
def State.l1Take (s : State) (core line : Nat) : State :=
  if s.poison.contains line || s.capacity ≤ 64 * line || 1024 ≤ (s.l1.filter fun e => e.core == core).length then s
  else
    let d : Line := BitVec.ofNat 512 (ofBytes (s.readPA (clHolder (core / 4)) (64 * line) 64))
    { s with l1 := { core := core, line := line, data := d } :: s.l1.filter fun e => !(e.core == core && e.line == line) }

/-- The line of a system-cache allocation (R392). -/
def State.sysTake (s : State) (line way part : Nat) : State :=
  if (s.allocWays part).getLsbD way && !s.inSys line then s.sysPut line way part else s

/-- The entries of a translation cache: 64 for a core, 2,048 for a cluster; the manual gives the others none (R416). -/
def tlbRoom (agent : Nat) : Nat := if agent < 256 then 64 else 2048

/-- A started tile-sequencer record fails: with PIPE_MISMATCH where its launch is redundant, or with an uncorrectable
error of its accumulator region; the posting wave's gang is contained (R441, R442, R449). -/
def State.recordFails (s : State) (k cause : Nat) : State :=
  match s.cmds[k]? with
  | none => s
  | some c =>
    let applies := match s.launches[c.launch]? with
      | some l => if cause = 0x0F then s.redund l else c.hasRegion
      | none => false
    if c.isRecord && c.st == .started && c.begun && applies then s.containGang c.launch c.gang cause c.cl [] else s

/-- An uncorrectable error strikes a word of the cluster SRAM or layout cache: it is poisoned (R441). -/
def State.upsetWord (s : State) : Upset → State
  | .scratch cl w => s.setCluster cl fun c => { c with spoison := (w :: c.spoison).eraseDups }
  | .fifo cl b => s.setCluster cl fun c => { c with fpoison := (b :: c.fpoison).eraseDups }
  | .layout cl l h => s.setCluster cl fun c => { c with lpoison := ((l, h) :: c.lpoison).eraseDups }

/-- A silent turn. -/
def State.silentTurn (s : State) : Turn → State
  | .l1Fill core line => s.l1Take core line
  | .l1Drop core line => { s with l1 := s.l1.filter fun e => !(e.core == core && e.line == line) }
  | .tlbFill agent p va =>
    match s.tableAt p va 0 with
    | none => s
    | some tbl =>
      match s.walkFrom p va 5 0 tbl with
      | .ok _ leaf vb sz =>
        if tlbRoom agent ≤ (s.tlb.filter fun t => t.agent == agent).length then s
        else { s with tlb := { agent := agent, part := p, vbase := vb, size := sz, leaf := leaf } :: s.tlb }
      | .fault _ _ => s
  | .tlbDrop agent p va =>
    { s with tlb := s.tlb.filter fun t => !(t.agent == agent && t.part == p && t.vbase ≤ va && va < t.vbase + t.size) }
  | .walkFill agent p va lv =>
    if lv = 0 ∨ 4 < lv then s
    else match s.tableAt p va lv with
    | none => s
    | some tbl =>
      let e : WalkEntry :=
        { agent := agent, part := p, level := lv, vbase := va >>> levelShift (lv - 1), table := BitVec.ofNat 64 tbl }
      { s with walks := e :: s.walks }
  | .evict h line => s.evictLine h line
  | .sysFill line way p => s.sysTake line way p
  | .sysDrop line =>
    let s1 : State := { s with sys := s.sys.filter fun e => e.line != line }
    (match s.sys.find? fun e => e.line == line && e.dirty with | some e => s1.tallyWrite line e.charge | none => s1)
  | .recordFaulty k => s.recordFails k 0x0F
  | .recordUpset k => s.recordFails k 0x0E
  | .upset u => s.upsetWord u
  | .msix fn en masked => s.setMsix fn en masked
  | .tick ns => s.advance ns
  | .issue _ _ | .issueFaulty _ _ | .issueUpset _ _ | .event _ => s

/-- The fragment that the shipped part takes (R281): longest without issuing, then the lower core, wave slot and fragment
slot. -/
def State.pickReady (s : State) : Option (Nat × Nat) :=
  let cands := (List.range s.waves.length).flatMap fun w =>
    match s.waves[w]? with
    | none => []
    | some v =>
      if v.status != .resident then []
      else [0, 1].filterMap fun sl =>
        match v.frag sl with
        | some f =>
          (match s.ctxOf w sl with
           | some k => if s.canIssue k && !s.turnHeld k then some (f.age, v.core, v.wslot, sl, w) else none
           | none => none)
        | none => none
  let le := fun (a b : Nat × Nat × Nat × Nat × Nat) =>
    decide (a.1 < b.1) || (a.1 == b.1 && (decide (a.2.1 < b.2.1) || (a.2.1 == b.2.1 &&
      (decide (a.2.2.1 < b.2.2.1) || (a.2.2.1 == b.2.2.1 && decide (a.2.2.2.1 ≤ b.2.2.2.1))))))
  match cands.mergeSort le with
  | [] => none
  | c :: _ => some (c.2.2.2.2, c.2.2.2.1)

/-- A wave with a result on its way. -/
def State.pendingWave (s : State) (w : Nat) : Bool := match s.waves[w]? with | some v => !v.pend.isEmpty | none => false

/-- The turn that runs when the agenda is empty (log entry 2): the boot, an issue, the arrival of a result, or time. -/
def State.defaultTurn (s : State) : Turn :=
  if !s.proctor.booted then .event .boot
  else match s.pickReady with
  | some (w, slot) => .issue w slot
  | none =>
    match (List.range s.waves.length).find? fun w => s.pendingWave w with
    | some w => .event (.resultArrival w 0)
    | none => .tick 1

/-- A turn of the Proctor and its window, which run even after a failed boot (R467). -/
def Turn.ofProctor : Turn → Bool
  | .event i =>
    (match i with
     | .boot | .quote | .proctorRestart _ | .proctorRestartComplete | .powerSample _ => true
     | .registerWrite pa _ => decide (0x000FFF0000010000 ≤ pa) && decide (pa < 0x000FFF0000020000)
     | _ => false)
  | .tick _ => true
  | _ => false

/-- Takes the next turn: the instruction to run, if any, and the state to run it in. -/
def State.turn (s : State) (t : Turn) : Option Instr × State :=
  if s.proctor.halted && !t.ofProctor then (none, s)
  else match t with
  | .issue w slot => s.issueTurn w slot false false
  | .issueFaulty w slot => s.issueTurn w slot true false
  | .issueUpset w slot => s.issueTurn w slot false true
  | .event i => if i.isEvent then (some i, s) else (none, s)
  | t => (none, s.silentTurn t)

/-- The next turn, taken from the agenda, and the state with the turn consumed; every step advances the counter of
free values (log entries 2, 11). -/
def State.nextTurn (s : State) : Turn × State :=
  let s0 : State := { s with freeCtr := s.freeCtr + 1, cur := none, faulty := false, upset := false }
  match s.agenda with
  | [] => (s0.defaultTurn, s0)
  | t :: ts => (t, { s0 with agenda := ts })

/-! ## Placing an instruction -/

/-- The launch record of a placed instruction: a grid of one wave of 32 lanes at PC 0x10000, handler at 0x10800, full
ceilings, every format slot fp32 without scale, no private memory. -/
def placedRecord : BitVec 2048 :=
  BitVec.ofNat 2048 (0x10000 + putAt 0x10800 64 +
    ((List.range 8).map fun i => putAt 1 (128 + 32 * i)).foldl (· + ·) 0 +
    putAt 2 386 + putAt 2 388 + putAt 1 391 + putAt 1 394 + putAt 136 408 + putAt 72 416 +
    putAt 5 512 + putAt 59 518 + putAt 32 576 + putAt 1 640 + putAt 1 1088)

/-- The page of a placed instruction: physical 0x10000 at virtual 0x10000, readable, writable and executable. -/
def placedLeaf : Word64 := 0x1001D

/-- A state whose next turn issues the words at PC 0x10000 of a new wave. -/
def State.placeWords (s : State) (bytes : List Byte) : State :=
  let li := s.launches.length
  let w := s.waves.length
  let l := { Launch.admitted 0 0 0 0 placedRecord [] false 1 [] with
    gangs := [{ Gang.fresh with placed := true, cls := [0] }], started := true }
  let entry : TlbEntry := { agent := 0, part := 0, vbase := 0x10000, size := 0x1000, leaf := placedLeaf }
  { s with
      mem := Memory.write s.mem 0x10000 bytes
      poison := s.poison.filter fun x => x != 0x400
      copies := s.copies.filter fun c => c.1 != 0x400
      tlb := entry :: s.tlb
      launches := s.launches ++ [l]
      waves := s.waves ++ [Wave.initial l li 0 0 0 0 0 0 s.now]
      agenda := .issue w 0 :: s.agenda }

end Sys2Proof.Machine
end

