-- ==== Sys2Proof/Machine/Operands.lean ====
section
/-!
DEFINITION. Operands: what a register field selects as a source or a destination (02 R19 to R25; 05 R108, R127; 06 R140),
and the shared bodies of the vector and uniform integer forms.
-/

namespace Sys2Proof.Machine

/-! ## Element types -/

/-- Element width of the Int table (R88, R127). -/
def intWidth (dt : BitVec 3) : Nat := if dt.toNat ≤ 1 then 32 else if dt.toNat ≤ 3 then 64 else if dt.toNat ≤ 5 then 16 else 8
/-- i types are signed. -/
def intSigned (dt : BitVec 3) : Bool := !dt.getLsbD 0
/-- Bits of a whole operand: a lane, or a V pair. -/
def intBits (dt : BitVec 3) : Nat := if intWidth dt = 64 then 64 else 32
/-- Elements in an operand. -/
def intElems (dt : BitVec 3) : Nat := intBits dt / intWidth dt

/-- Element i of width w of an operand (R19). -/
def elemAt (w x i : Nat) : Nat := (x >>> (w * i)) % 2 ^ w
/-- An operand made of n elements of width w (R19). -/
def ofElems (w n : Nat) (f : Nat → Nat) : Nat :=
  ((List.range n).map fun i => (f i % 2 ^ w) <<< (w * i)).foldl (· + ·) 0
/-- The value of an element under a type's signedness. -/
def elemVal (w : Nat) (sg : Bool) (x : Nat) : Int := if sg then sgn w x else ((x % 2 ^ w : Nat) : Int)

/-! ## Constants (R21, R22) -/

/-- An inline constant is one of the float constants 224 to 231. -/
def isFloatConst (f : BitVec 8) : Bool := 224 ≤ f.toNat
/-- The integer of constants 192 to 223. -/
def constInt (f : BitVec 8) : Int := if f.toNat < 208 then (f.toNat : Int) - 192 else (f.toNat : Int) - 224
/-- The fp32 pattern of constants 224 to 231. -/
def constFp32 (f : BitVec 8) : Nat :=
  [0x3F000000, 0xBF000000, 0x3F800000, 0xBF800000, 0x40000000, 0xC0000000, 0x40800000, 0xC0800000].getD (f.toNat - 224) 0
/-- A constant in an integer type of width w (R22). -/
def constBits (f : BitVec 8) (w : Nat) : Nat := if isFloatConst f then constFp32 f % 2 ^ w else wrap w (constInt f)
/-- A constant converted exactly to a floating-point format. -/
def constFmt (f : BitVec 8) (fm : Fmt) : Nat :=
  (roundF (if isFloatConst f then fmtFp32.decode (constFp32 f) else numOfInt (constInt f)) fm 0 1).1

/-! ## Reading sources -/

/-- Lane n of a V register as a number. -/
def Ctx.vlane (k : Ctx) (n lane : Nat) : Nat := (laneAt (k.wv.vget (k.vname n)).val lane).toNat
/-- A V group of g registers, the first least significant (R19). -/
def Ctx.vgroup (k : Ctx) (n g lane : Nat) : Nat :=
  ((List.range g).map fun i => k.vlane (n + i) lane <<< (32 * i)).foldl (· + ·) 0
/-- An S register as a number. -/
def Ctx.svalue (k : Ctx) (f : BitVec 8) : Nat := (k.wv.sget (k.sname (f.toNat - 128))).val.toNat
/-- LIT. -/
def litNat (lit : Option Word64) : Nat := match lit with | some v => v.toNat | none => 0

/-- The read-only values 232 to 236 in a lane: EXEC, LANE, WID and the low half of TIME (R21). -/
def Ctx.special (k : Ctx) (now : Nat) (f : BitVec 8) (lane : Nat) : Nat :=
  if f.toNat = 232 then k.fr.exec.toNat
  else if f.toNat = 233 then lane
  else if f.toNat = 234 then k.wv.wid lane % 2 ^ 32
  else if f.toNat = 235 then k.wv.wid lane / 2 ^ 32
  else now % 2 ^ 32

/-- A vector source in a lane as an operand of an Int type (R21, R22, R127). -/
def Ctx.intSrc (k : Ctx) (now : Nat) (lit : Option Word64) (dt : BitVec 3) (f : BitVec 8) (lane : Nat) : Nat :=
  if OpField.isV f then k.vgroup f.toNat (intBits dt / 32) lane
  else if OpField.isS f then k.svalue f % 2 ^ intBits dt
  else if OpField.isConst f then ofElems (intWidth dt) (intElems dt) fun _ => constBits f (intWidth dt)
  else if OpField.isLit f then litNat lit % 2 ^ intBits dt
  else k.special now f lane

/-- A scalar source of width w (R21, R127). -/
def Ctx.scalSrc (k : Ctx) (now : Nat) (lit : Option Word64) (w : Nat) (f : BitVec 8) : Nat :=
  if OpField.isS f then k.svalue f % 2 ^ w
  else if OpField.isConst f then constBits f w
  else if OpField.isLit f then litNat lit % 2 ^ w
  else k.special now f 0

/-- A vector source in a lane as 32 bits in the arrangement of a Flt type (R22, R140): a constant stands in both
halves, LIT of a half form in both. -/
def Ctx.fltSrc (k : Ctx) (now : Nat) (lit : Option Word64) (dt : BitVec 3) (f : BitVec 8) (lane : Nat) : Nat :=
  let fm := if dt.toNat = 0 then fmtFp32 else if dt.toNat = 1 ∨ dt.toNat = 3 ∨ dt.toNat = 4 then fmtFp16 else fmtBf16
  let both := fun (c : Nat) => if dt.toNat = 0 then c % 2 ^ 32 else c % 2 ^ 16 + (c % 2 ^ 16) <<< 16
  if OpField.isV f then k.vlane f.toNat lane
  else if OpField.isS f then k.svalue f % 2 ^ 32
  else if OpField.isConst f then both (constFmt f fm)
  else if OpField.isLit f then
    (if dt.toNat = 1 ∨ dt.toNat = 2 then litNat lit % 2 ^ 32 else both (litNat lit))
  else k.special now f lane

/-! ## Sources and destinations for the register checks -/

/-- The registers that a source field reads: a V group in the lanes of m, or an S register. -/
def Ctx.use (k : Ctx) (f : BitVec 8) (ctl : BitVec 2) (g : Nat) (m : Word32) : List RegUse :=
  if OpField.isV f then (List.range g).map fun i => { isV := true, n := k.vname (f.toNat + i), ctl := ctl, mask := m }
  else if OpField.isS f then [{ isV := false, n := k.sname (f.toNat - 128), ctl := ctl, mask := 0 }]
  else []
/-- The names of a V group. -/
def Ctx.vnames (k : Ctx) (d : BitVec 8) (g : Nat) : List Nat := (List.range g).map fun i => k.vname (d.toNat + i)
/-- The registers that a destination field writes; none for 255. -/
def Ctx.dst (k : Ctx) (d : BitVec 8) (g : Nat) (m : Word32) : List RegDst :=
  if OpField.isV d then (k.vnames d g).map fun n => { isV := true, n := n, mask := m }
  else if OpField.isS d then [{ isV := false, n := k.sname (d.toNat - 128), mask := 0 }]
  else []

/-! ## Writing results -/

/-- Writes a V group in the lanes of m from a number a lane (R19, R37). -/
def Wave.vputs (wv : Wave) (m : Word32) (f : Nat → Nat) : List Nat → Nat → Wave
  | [], _ => wv
  | n :: ns, i => (wv.vput n m fun lane => BitVec.ofNat 32 (f lane >>> (32 * i))).vputs m f ns (i + 1)
/-- Writes the named bits of the lanes of m (R37). -/
def Wave.vputBits (wv : Wave) (n : Nat) (m : Word32) (bits : Nat) (f : Nat → Nat) : Wave :=
  let old := wv.vget n
  wv.vput n m fun lane =>
    (laneAt old.val lane &&& ~~~(BitVec.ofNat 32 bits)) ||| (BitVec.ofNat 32 (f lane) &&& BitVec.ofNat 32 bits)
/-- Writes a scalar destination; 255 discards. -/
def Ctx.sputD (k : Ctx) (wv : Wave) (d : BitVec 8) (v : Nat) : Wave :=
  if OpField.isS d then wv.sput (k.sname (d.toNat - 128)) (BitVec.ofNat 64 v) else wv
/-- A result of an Int type as a scalar register holds it (R20). -/
def scalExt (dt : BitVec 3) (v : Nat) : Nat :=
  if intWidth dt < 64 && intSigned dt then wrap 64 (sgn (intWidth dt) v) else v % 2 ^ intWidth dt

/-- The values of the active lanes, in lane order; the other lanes hold nothing. -/
def laneVals {α : Type} (m : Word32) (none_ : α) (f : Nat → α) : List α :=
  (List.range 32).map fun i => if m.getLsbD i then f i else none_

/-! ## Integer bodies -/

/-- A lane-wise instruction of an Int type: `f` gives the operand of a lane with the flags it reports. -/
def State.intVec (s : State) (k : Ctx) (i : Instr) (dt : BitVec 3) (m : Word32) (d : BitVec 8) (us : List RegUse)
    (f : Nat → Flagged Nat) : State :=
  let g := intBits dt / 32
  s.issueRegs k i us (k.dst d g m) fun wv =>
    let vs := laneVals m (0, 0) f
    let fl := (vs.map (·.2)).foldl orFlags 0
    s.commit k ((wv.vputs m (fun lane => (vs.getD lane (0, 0)).1) (k.vnames d g) 0).flag fl) i.len

/-- A uniform instruction of an Int type. -/
def State.intUni (s : State) (k : Ctx) (i : Instr) (dt : BitVec 3) (d : BitVec 8) (us : List RegUse)
    (v : Flagged Nat) : State :=
  s.issueRegs k i us (k.dst d 1 0) fun wv => s.commit k ((k.sputD wv d (scalExt dt v.1)).flag v.2) i.len

/-- An element-wise integer instruction on A, B and C of a format R word: `f` gives one element (R127, R128, R130).
Fields that the instruction does not use hold 255 and are passed as 0. -/
def State.intOp (s : State) (i : Instr) (w : RWord) (f : (w x y z : Nat) → Flagged Nat) :
    Host.Outcome State Fault Refusal :=
  simt s fun k =>
    if w.u then
      let src := fun (x : BitVec 8) => if OpField.isNone x then 0 else k.scalSrc s.now w.lit (intWidth w.dt) x
      s.intUni k i w.dt w.d (k.use w.a w.actl 1 0 ++ k.use w.b w.bctl 1 0 ++ k.use w.c w.cctl 1 0)
        (f (intWidth w.dt) (src w.a) (src w.b) (src w.c))
    else
      let m := k.active w.pk (modNP w.mod)
      let g := intBits w.dt / 32
      let wd := intWidth w.dt
      let src := fun (x : BitVec 8) (lane : Nat) => if OpField.isNone x then 0 else k.intSrc s.now w.lit w.dt x lane
      s.intVec k i w.dt m w.d (k.use w.a w.actl g m ++ k.use w.b w.bctl g m ++ k.use w.c w.cctl g m) fun lane =>
        let x := src w.a lane
        let y := src w.b lane
        let z := src w.c lane
        let es := (List.range (intElems w.dt)).map fun e => f wd (elemAt wd x e) (elemAt wd y e) (elemAt wd z e)
        (ofElems wd (intElems w.dt) fun e => (es.getD e (0, 0)).1, (es.map (·.2)).foldl orFlags 0)

/-- A format-I instruction: as `intOp` with B the sign-extended immediate (R81, R135). -/
def State.immOp (s : State) (i : Instr) (w : IWord) (f : (w x y : Nat) → Nat) : Host.Outcome State Fault Refusal :=
  simt s fun k =>
    let imm := sgn 25 w.imm.toNat
    let wd := intWidth w.dt
    if w.u then
      let x := if OpField.isNone w.a then 0 else k.scalSrc s.now none wd w.a
      s.intUni k i w.dt w.d (k.use w.a w.actl 1 0) (f wd x (wrap wd imm), 0)
    else
      let m := k.active w.pk false
      let g := intBits w.dt / 32
      s.intVec k i w.dt m w.d (k.use w.a w.actl g m) fun lane =>
        let x := if OpField.isNone w.a then 0 else k.intSrc s.now none w.dt w.a lane
        (ofElems wd (intElems w.dt) fun e => f wd (elemAt wd x e) (wrap wd imm), 0)

end Sys2Proof.Machine
end

