-- ==== Sys2Proof/Machine/Flags.lean ====
section
/-!
DEFINITION. Floating-point operands and flags: the arrangements of the Flt table (06 R140), the conditions that reach
FPFLAGS (R141), flushing of subnormals (03 R54; 06 R142), and the shared bodies of the float instructions.
-/

namespace Sys2Proof.Machine

/-- The element format of a Flt type (R140). -/
def fltFmt (dt : BitVec 3) : Fmt :=
  if dt.toNat = 0 then fmtFp32 else if dt.toNat = 1 ∨ dt.toNat = 3 ∨ dt.toNat = 4 then fmtFp16 else fmtBf16
/-- The bit positions of the elements of a lane. -/
def fltOffs (dt : BitVec 3) : List Nat :=
  if dt.toNat = 0 then [0] else if dt.toNat ≤ 2 then [0, 16] else if dt.toNat = 3 ∨ dt.toNat = 5 then [0] else [16]
/-- The bits of D that an active lane writes. -/
def fltBits (dt : BitVec 3) : Nat :=
  if dt.toNat ≤ 2 then 2 ^ 32 - 1 else if dt.toNat = 3 ∨ dt.toNat = 5 then 0xFFFF else 0xFFFF0000

/-- A source element is read as zero of its sign when it is subnormal under FTZ (R54). -/
def ftzIn (ftz : Bool) (f : Fmt) (c : Nat) : Nat :=
  if ftz && field c f.mbits f.ebits == 0 then c / 2 ^ (f.width - 1) % 2 * 2 ^ (f.width - 1) else c
/-- A subnormal result is replaced by zero of its sign, with underflow and inexact, under FTZ (R54). -/
def ftzOut (ftz : Bool) (f : Fmt) (r : Flagged Nat) : Flagged Nat :=
  if ftz && field r.1 f.mbits f.ebits == 0 && field r.1 0 f.mbits != 0 then
    (r.1 / 2 ^ (f.width - 1) % 2 * 2 ^ (f.width - 1), r.2 ||| flUF ||| flNX)
  else r

/-- RoundF of a helper's exact result, with the conditions of the helper and of the operands (R53, R144, R145). -/
def roundTo (f : Fmt) (rd : Nat) (xs : List Num) (r : Flagged Num) : Flagged Nat :=
  let y := roundF r.1 f rd 1
  (y.1, y.2 ||| r.2 ||| snanFlag xs)

/-- The lane that element codes make in an arrangement. -/
def fltLane (dt : BitVec 3) (cs : List Nat) : Nat :=
  (((fltOffs dt).zip cs).map fun p => p.2 <<< p.1).foldl (· + ·) 0

/-- The elements of one lane: `f` computes a code from the codes of A, B and C. -/
def fltElems (dt : BitVec 3) (x y z : Nat) (f : (x y z : Nat) → Flagged Nat) : Flagged Nat :=
  let w := (fltFmt dt).width
  let es := (fltOffs dt).map fun o => f (x >>> o % 2 ^ w) (y >>> o % 2 ^ w) (z >>> o % 2 ^ w)
  (fltLane dt (es.map (·.1)), (es.map (·.2)).foldl orFlags 0)

/-- A lane-wise float instruction writing D in its arrangement; a long one marks its lanes empty and sets its flags
when the result arrives (R32, R140, R141). -/
def State.fltVec (s : State) (k : Ctx) (i : Instr) (w : RWord) (long : Bool) (f : (x y z : Nat) → Flagged Nat) : State :=
  let m := k.active w.pk (modNP w.mod)
  let src := fun (x : BitVec 8) (lane : Nat) => if OpField.isNone x then 0 else k.fltSrc s.now w.lit w.dt x lane
  s.issueRegs k i (k.use w.a w.actl 1 m ++ k.use w.b w.bctl 1 m ++ k.use w.c w.cctl 1 m) (k.dst w.d 1 m) fun wv =>
    let vs := laneVals m (0, 0) fun lane => fltElems w.dt (src w.a lane) (src w.b lane) (src w.c lane) f
    let fl := (vs.map (·.2)).foldl orFlags 0
    let n := k.vname w.d.toNat
    let w2 := wv.vputBits n m (fltBits w.dt) fun lane => (vs.getD lane (0, 0)).1
    if long && m != 0 then
      s.commit k (wv.later [(n, m, (w2.vget n).val)] none fl none) i.len
    else s.commit k (w2.flag fl) i.len

/-- A float instruction of MAJ 0x08 or 0x09 with FTZ on its elements (R142): `f` computes a code of the element
format from codes. -/
def State.fltOp (s : State) (i : Instr) (w : RWord) (long : Bool) (f : Fmt → (x y z : Nat) → Flagged Nat) :
    Host.Outcome State Fault Refusal :=
  simt s fun k =>
    let fm := fltFmt w.dt
    let z := k.l.ftz
    let g := fun (a b c : Nat) => ftzOut z fm (f fm (ftzIn z fm a) (ftzIn z fm b) (ftzIn z fm c))
    if w.u then
      let src := fun (x : BitVec 8) => if OpField.isNone x then 0 else k.fltSrc s.now w.lit w.dt x 0
      s.issueRegs k i (k.use w.a w.actl 1 0 ++ k.use w.b w.bctl 1 0 ++ k.use w.c w.cctl 1 0) (k.dst w.d 1 0) fun wv =>
        let r := g (src w.a) (src w.b) (src w.c)
        s.commit k ((k.sputD wv w.d r.1).flag r.2) i.len
    else s.fltVec k i w long g

/-- The rounding direction of an instruction (R52). -/
def rdOf (w : RWord) : Nat := mod3 w.mod

end Sys2Proof.Machine
end

