-- ==== Sys2Proof/Machine/Integer.lean ====
section
/-!
DEFINITION. Integer arithmetic, logic and bits, compare, select, move, and the immediate forms (05 R127 to R135).
-/

namespace Sys2Proof.Machine

/-! ## Elements (R128 to R131) -/

/-- |x - y| of two elements. -/
def absDiff (w : Nat) (sg : Bool) (x y : Nat) : Nat := (elemVal w sg x - elemVal w sg y).natAbs
/-- Signed or unsigned order of elements. -/
def elemLt (w : Nat) (sg : Bool) (x y : Nat) : Bool := decide (elemVal w sg x < elemVal w sg y)
/-- SatI of an exact integer into the type (R50). -/
def satElem (w : Nat) (sg : Bool) (x : Int) : Flagged Nat := satI (numOfInt x) w sg 0
/-- `div` of elements: all ones for a zero divisor (R128). -/
def divElem (w : Nat) (sg : Bool) (x y : Nat) : Nat :=
  if y % 2 ^ w = 0 then 2 ^ w - 1 else wrap w ((elemVal w sg x).tdiv (elemVal w sg y))
/-- `rem` of elements: the dividend for a zero divisor (R128). -/
def remElem (w : Nat) (sg : Bool) (x y : Nat) : Nat :=
  if y % 2 ^ w = 0 then x % 2 ^ w
  else wrap w (elemVal w sg x - elemVal w sg y * (elemVal w sg x).tdiv (elemVal w sg y))
/-- `sra`: bit w - 1 is copied. -/
def sraElem (w x n : Nat) : Nat := wrap w (sgn w x >>> n)
/-- Leading zero bits of an element. -/
def clzElem (w x : Nat) : Nat := if x % 2 ^ w = 0 then w else w - 1 - Nat.log2 (x % 2 ^ w)
/-- One bits of an element. -/
def popElem (w x : Nat) : Nat := ((List.range w).filter fun i => x.testBit i).length
/-- An element with its bits reversed. -/
def brevElem (w x : Nat) : Nat :=
  ((List.range w).map fun i => if x.testBit i then 2 ^ (w - 1 - i) else 0).foldl (· + ·) 0
/-- Position and length of a field specification (R131). -/
def fieldSpec (w f : Nat) : Nat × Nat :=
  let p := min (field f 0 8) w
  (p, min (field f 8 8) (w - p))
/-- `bfe` (R131). -/
def bfeElem (w : Nat) (sg : Bool) (x f : Nat) : Nat :=
  let (p, n) := fieldSpec w f
  if n = 0 then 0 else wrap w (elemVal n sg (field x p n))
/-- `bfi` (R131). -/
def bfiElem (w x y f : Nat) : Nat :=
  let (p, n) := fieldSpec w f
  x % 2 ^ w - (field x p n) <<< p + (field y 0 n) <<< p

/-! ## Integer arithmetic, MAJ 0x02 -/

/-- `add` (R128). -/
def execAdd (f : RWord) (s : State) : Host.Outcome State Fault Refusal :=
  s.intOp (.add f) f fun w x y _ => ((x + y) % 2 ^ w, 0)
/-- `sub` (R128). -/
def execSub (f : RWord) (s : State) : Host.Outcome State Fault Refusal :=
  s.intOp (.sub f) f fun w x y _ => (wrap w ((x : Int) - (y : Int)), 0)
/-- `mul` (R128). -/
def execMul (f : RWord) (s : State) : Host.Outcome State Fault Refusal :=
  s.intOp (.mul f) f fun w x y _ => (x * y % 2 ^ w, 0)
/-- `mulh` (R128): the high half of the exact product. -/
def execMulh (f : RWord) (s : State) : Host.Outcome State Fault Refusal :=
  let sg := intSigned f.dt
  s.intOp (.mulh f) f fun w x y _ => (wrap w (elemVal w sg x * elemVal w sg y / (2 ^ w : Int)), 0)
/-- `mad` (R128). -/
def execMad (f : RWord) (s : State) : Host.Outcome State Fault Refusal :=
  s.intOp (.mad f) f fun w x y z => ((x * y + z) % 2 ^ w, 0)
/-- `div` (R128). -/
def execDiv (f : RWord) (s : State) : Host.Outcome State Fault Refusal :=
  s.intOp (.div f) f fun w x y _ => (divElem w (intSigned f.dt) x y, 0)
/-- `rem` (R128). -/
def execRem (f : RWord) (s : State) : Host.Outcome State Fault Refusal :=
  s.intOp (.rem f) f fun w x y _ => (remElem w (intSigned f.dt) x y, 0)
/-- `min` (R128). -/
def execMin (f : RWord) (s : State) : Host.Outcome State Fault Refusal :=
  s.intOp (.min f) f fun w x y _ => (if elemLt w (intSigned f.dt) y x then y else x, 0)
/-- `max` (R128). -/
def execMax (f : RWord) (s : State) : Host.Outcome State Fault Refusal :=
  s.intOp (.max f) f fun w x y _ => (if elemLt w (intSigned f.dt) x y then y else x, 0)
/-- `abs` (R128). -/
def execAbs (f : RWord) (s : State) : Host.Outcome State Fault Refusal :=
  s.intOp (.abs f) f fun w x _ _ => ((sgn w x).natAbs % 2 ^ w, 0)
/-- `neg` (R128). -/
def execNeg (f : RWord) (s : State) : Host.Outcome State Fault Refusal :=
  s.intOp (.neg f) f fun w x _ _ => (wrap w (0 - (x : Int)), 0)
/-- `adds` (R128): saturates and reports SAT. -/
def execAdds (f : RWord) (s : State) : Host.Outcome State Fault Refusal :=
  let sg := intSigned f.dt
  s.intOp (.adds f) f fun w x y _ => satElem w sg (elemVal w sg x + elemVal w sg y)
/-- `subs` (R128). -/
def execSubs (f : RWord) (s : State) : Host.Outcome State Fault Refusal :=
  let sg := intSigned f.dt
  s.intOp (.subs f) f fun w x y _ => satElem w sg (elemVal w sg x - elemVal w sg y)

/-- `sad` of whole operands (R129). -/
def sadOperand (dt : BitVec 3) (x y z : Nat) : Nat :=
  let w := intWidth dt
  let d := ((List.range (intElems dt)).map fun e => absDiff w (intSigned dt) (elemAt w x e) (elemAt w y e)).foldl (· + ·) 0
  (d + z) % 2 ^ intBits dt

/-- `sad` (R129): a packed type sums its elements into the lane, with C read as n32. -/
def execSad (f : RWord) (s : State) : Host.Outcome State Fault Refusal :=
  simt s fun k =>
    if f.u then
      let src := fun (x : BitVec 8) => k.scalSrc s.now f.lit (intWidth f.dt) x
      s.intUni k (.sad f) f.dt f.d (k.use f.a f.actl 1 0 ++ k.use f.b f.bctl 1 0 ++ k.use f.c f.cctl 1 0)
        (sadOperand f.dt (src f.a) (src f.b) (src f.c), 0)
    else
      let m := k.active f.pk (modNP f.mod)
      let g := intBits f.dt / 32
      let dtC : BitVec 3 := if intWidth f.dt < 32 then 1 else f.dt
      s.intVec k (.sad f) f.dt m f.d (k.use f.a f.actl g m ++ k.use f.b f.bctl g m ++ k.use f.c f.cctl g m) fun lane =>
        (sadOperand f.dt (k.intSrc s.now f.lit f.dt f.a lane) (k.intSrc s.now f.lit f.dt f.b lane)
          (k.intSrc s.now f.lit dtC f.c lane), 0)

/-! ## Logic and bits, MAJ 0x03 (R130, R131) -/

/-- `and`. -/
def execAnd (f : RWord) (s : State) : Host.Outcome State Fault Refusal :=
  s.intOp (.and f) f fun _ x y _ => (x &&& y, 0)
/-- `or`. -/
def execOr (f : RWord) (s : State) : Host.Outcome State Fault Refusal :=
  s.intOp (.or f) f fun _ x y _ => (x ||| y, 0)
/-- `xor`. -/
def execXor (f : RWord) (s : State) : Host.Outcome State Fault Refusal :=
  s.intOp (.xor f) f fun _ x y _ => (x ^^^ y, 0)
/-- `not`. -/
def execNot (f : RWord) (s : State) : Host.Outcome State Fault Refusal :=
  s.intOp (.not f) f fun w x _ _ => (2 ^ w - 1 - x % 2 ^ w, 0)
/-- `shl`. -/
def execShl (f : RWord) (s : State) : Host.Outcome State Fault Refusal :=
  s.intOp (.shl f) f fun w x y _ => (x * 2 ^ (y % w) % 2 ^ w, 0)
/-- `shr`. -/
def execShr (f : RWord) (s : State) : Host.Outcome State Fault Refusal :=
  s.intOp (.shr f) f fun w x y _ => (x % 2 ^ w / 2 ^ (y % w), 0)
/-- `sra`. -/
def execSra (f : RWord) (s : State) : Host.Outcome State Fault Refusal :=
  s.intOp (.sra f) f fun w x y _ => (sraElem w x (y % w), 0)
/-- `clz`. -/
def execClz (f : RWord) (s : State) : Host.Outcome State Fault Refusal :=
  s.intOp (.clz f) f fun w x _ _ => (clzElem w x, 0)
/-- `popc`. -/
def execPopc (f : RWord) (s : State) : Host.Outcome State Fault Refusal :=
  s.intOp (.popc f) f fun w x _ _ => (popElem w x, 0)
/-- `brev`. -/
def execBrev (f : RWord) (s : State) : Host.Outcome State Fault Refusal :=
  s.intOp (.brev f) f fun w x _ _ => (brevElem w x, 0)
/-- `bfe` (R131). -/
def execBfe (f : RWord) (s : State) : Host.Outcome State Fault Refusal :=
  s.intOp (.bfe f) f fun w x y _ => (bfeElem w (intSigned f.dt) x y, 0)
/-- `bfi` (R131). -/
def execBfi (f : RWord) (s : State) : Host.Outcome State Fault Refusal :=
  s.intOp (.bfi f) f fun w x y z => (bfiElem w x y z, 0)

/-! ## Compare, select, move, MAJ 0x04 -/

/-- A condition code of `cmp` (R132). -/
def cmpCond (cc : Nat) (x y : Int) : Bool :=
  if cc = 0 then decide (x = y) else if cc = 1 then decide (x ≠ y) else if cc = 2 then decide (x < y)
  else if cc = 3 then decide (x ≤ y) else if cc = 4 then decide (y < x) else decide (y ≤ x)

/-- `cmp` (R132): the active lanes' bits of Kd, or every bit in the scalar form. -/
def execCmp (f : RWord) (s : State) : Host.Outcome State Fault Refusal :=
  simt s fun k =>
    let w := intWidth f.dt
    let val := elemVal w (intSigned f.dt)
    if f.u then
      s.issueRegs k (.cmp f) (k.use f.a f.actl 1 0 ++ k.use f.b f.bctl 1 0) [] fun wv =>
        let r := cmpCond (mod4 f.mod) (val (k.scalSrc s.now f.lit w f.a)) (val (k.scalSrc s.now f.lit w f.b))
        s.commit k (wv.kwrite k.fr.owned f.d.toNat (BitVec.allOnes 32) (if r then BitVec.allOnes 32 else 0)) (Instr.cmp f).len
    else
      let m := k.active f.pk (modNP f.mod)
      let g := intBits f.dt / 32
      s.issueRegs k (.cmp f) (k.use f.a f.actl g m ++ k.use f.b f.bctl g m) [] fun wv =>
        let r := maskOf fun lane => m.getLsbD lane &&
          cmpCond (mod4 f.mod) (val (k.intSrc s.now f.lit f.dt f.a lane)) (val (k.intSrc s.now f.lit f.dt f.b lane))
        s.commit k (wv.kwrite k.fr.owned f.d.toNat m r) (Instr.cmp f).len

/-- `sel` (R133). -/
def execSel (f : RWord) (s : State) : Host.Outcome State Fault Refusal :=
  simt s fun k =>
    if f.u then
      let src := fun (x : BitVec 8) => k.scalSrc s.now f.lit (intWidth f.dt) x
      s.intUni k (.sel f) f.dt f.d (k.use f.a f.actl 1 0 ++ k.use f.b f.bctl 1 0 ++ k.use f.c f.cctl 1 0)
        (if src f.c ≠ 0 then src f.a else src f.b, 0)
    else
      let m := k.active f.pk (modNP f.mod)
      let g := intBits f.dt / 32
      let sel := k.kread f.c.toNat
      s.intVec k (.sel f) f.dt m f.d (k.use f.a f.actl g m ++ k.use f.b f.bctl g m) fun lane =>
        (k.intSrc s.now f.lit f.dt (if sel.getLsbD lane then f.a else f.b) lane, 0)

/-- `mov` (R134): its source is B. -/
def execMov (f : RWord) (s : State) : Host.Outcome State Fault Refusal :=
  s.intOp (.mov f) f fun _ _ y _ => (y, 0)

/-! ## Immediate forms, MAJ 0x07 (R135) -/

/-- `add` with an immediate. -/
def execAddImm (f : IWord) (s : State) : Host.Outcome State Fault Refusal :=
  s.immOp (.addImm f) f fun w x y => (x + y) % 2 ^ w
/-- `mul` with an immediate. -/
def execMulImm (f : IWord) (s : State) : Host.Outcome State Fault Refusal :=
  s.immOp (.mulImm f) f fun w x y => x * y % 2 ^ w
/-- `and` with an immediate. -/
def execAndImm (f : IWord) (s : State) : Host.Outcome State Fault Refusal :=
  s.immOp (.andImm f) f fun _ x y => x &&& y
/-- `or` with an immediate. -/
def execOrImm (f : IWord) (s : State) : Host.Outcome State Fault Refusal :=
  s.immOp (.orImm f) f fun _ x y => x ||| y
/-- `xor` with an immediate. -/
def execXorImm (f : IWord) (s : State) : Host.Outcome State Fault Refusal :=
  s.immOp (.xorImm f) f fun _ x y => x ^^^ y
/-- `shl` with an immediate. -/
def execShlImm (f : IWord) (s : State) : Host.Outcome State Fault Refusal :=
  s.immOp (.shlImm f) f fun w x y => x * 2 ^ (y % w) % 2 ^ w
/-- `shr` with an immediate. -/
def execShrImm (f : IWord) (s : State) : Host.Outcome State Fault Refusal :=
  s.immOp (.shrImm f) f fun w x y => x % 2 ^ w / 2 ^ (y % w)
/-- `sra` with an immediate. -/
def execSraImm (f : IWord) (s : State) : Host.Outcome State Fault Refusal :=
  s.immOp (.sraImm f) f fun w x y => sraElem w x (y % w)
/-- `mov` of an immediate. -/
def execMovImm (f : IWord) (s : State) : Host.Outcome State Fault Refusal :=
  s.immOp (.movImm f) f fun _ _ y => y

/-! ## Masks, MAJ 0x05 (R136) -/

/-- A mask instruction that writes Kd whole, within the owned lanes of a split wave (R27). -/
def State.maskOp (s : State) (i : Instr) (d : BitVec 8) (us : Ctx → List RegUse) (v : Ctx → Word32) :
    Host.Outcome State Fault Refusal :=
  simt s fun k => s.issueRegs k i (us k) [] fun wv =>
    s.commit k (wv.kwrite k.fr.owned d.toNat (BitVec.allOnes 32) (v k)) i.len
/-- A mask instruction that writes a scalar from the whole of mask a (R282). -/
def State.maskCount (s : State) (i : Instr) (d a : BitVec 8) (v : Word32 → Nat) : Host.Outcome State Fault Refusal :=
  simt s fun k => s.issueRegs k i [] (k.dst d 1 0) fun wv =>
    if k.maskHeld a.toNat then s.opwait k else s.commit k (k.sputD wv d (v (k.kread a.toNat))) i.len

/-- `kand`. -/
def execKand (f : RWord) (s : State) : Host.Outcome State Fault Refusal :=
  s.maskOp (.kand f) f.d (fun _ => []) fun k => k.kread f.a.toNat &&& k.kread f.b.toNat
/-- `kor`. -/
def execKor (f : RWord) (s : State) : Host.Outcome State Fault Refusal :=
  s.maskOp (.kor f) f.d (fun _ => []) fun k => k.kread f.a.toNat ||| k.kread f.b.toNat
/-- `kxor`. -/
def execKxor (f : RWord) (s : State) : Host.Outcome State Fault Refusal :=
  s.maskOp (.kxor f) f.d (fun _ => []) fun k => k.kread f.a.toNat ^^^ k.kread f.b.toNat
/-- `knot`. -/
def execKnot (f : RWord) (s : State) : Host.Outcome State Fault Refusal :=
  s.maskOp (.knot f) f.d (fun _ => []) fun k => ~~~k.kread f.a.toNat
/-- `kpop`. -/
def execKpop (f : RWord) (s : State) : Host.Outcome State Fault Refusal :=
  s.maskCount (.kpop f) f.d f.a popcount
/-- `kffs`: 32 for an empty mask. -/
def execKffs (f : RWord) (s : State) : Host.Outcome State Fault Refusal :=
  s.maskCount (.kffs f) f.d f.a fun m => (lanesOf m).headD 32
/-- `kmov`: mask to mask, scalar to mask, mask to scalar, by MOD[3:0]. -/
def execKmov (f : RWord) (s : State) : Host.Outcome State Fault Refusal :=
  if mod4 f.mod = 0 then s.maskOp (.kmov f) f.d (fun _ => []) fun k => k.kread f.a.toNat
  else if mod4 f.mod = 1 then
    s.maskOp (.kmov f) f.d (fun k => k.use f.a f.actl 1 0) fun k => BitVec.ofNat 32 (k.scalSrc s.now f.lit 32 f.a)
  else s.maskCount (.kmov f) f.d f.a BitVec.toNat

end Sys2Proof.Machine
end

