-- ==== Sys2Proof/Machine/Float.lean ====
section
/-!
DEFINITION. Floating-point arithmetic, special functions, conversions and dot products (06 R143 to R160).
-/

namespace Sys2Proof.Machine

/-! ## Arithmetic, MAJ 0x08 -/

/-- A rounding operation on two elements (R144, R145). -/
def fltTwo (rd : Nat) (op : Num → Num → Flagged Num) (fm : Fmt) (x y _z : Nat) : Flagged Nat :=
  roundTo fm rd [fm.decode x, fm.decode y] (op (fm.decode x) (fm.decode y))
/-- A rounding operation on one element. -/
def fltOne (rd : Nat) (op : Num → Flagged Num) (fm : Fmt) (x _y _z : Nat) : Flagged Nat :=
  roundTo fm rd [fm.decode x] (op (fm.decode x))

/-- The exact x · y + z (R144, R145). -/
def numFma (x y z : Num) (rd : Nat) : Flagged Num :=
  let p := numMul x y
  let t := numAdd p.1 z rd
  (t.1, p.2 ||| t.2)

/-- `fadd`. -/
def execFadd (f : RWord) (s : State) : Host.Outcome State Fault Refusal :=
  s.fltOp (.fadd f) f false (fltTwo (rdOf f) fun x y => numAdd x y (rdOf f))
/-- `fsub`. -/
def execFsub (f : RWord) (s : State) : Host.Outcome State Fault Refusal :=
  s.fltOp (.fsub f) f false (fltTwo (rdOf f) fun x y => numAdd x y.negate (rdOf f))
/-- `fmul`. -/
def execFmul (f : RWord) (s : State) : Host.Outcome State Fault Refusal :=
  s.fltOp (.fmul f) f false (fltTwo (rdOf f) numMul)
/-- `fma`: one rounding of the exact value. -/
def execFma (f : RWord) (s : State) : Host.Outcome State Fault Refusal :=
  s.fltOp (.fma f) f false fun fm x y z =>
    roundTo fm (rdOf f) [fm.decode x, fm.decode y, fm.decode z] (numFma (fm.decode x) (fm.decode y) (fm.decode z) (rdOf f))
/-- `fdiv`. -/
def execFdiv (f : RWord) (s : State) : Host.Outcome State Fault Refusal :=
  s.fltOp (.fdiv f) f false (fltTwo (rdOf f) numDiv)
/-- `fsqrt`. -/
def execFsqrt (f : RWord) (s : State) : Host.Outcome State Fault Refusal :=
  s.fltOp (.fsqrt f) f false (fltOne (rdOf f) numSqrt)

/-- The four minimum and maximum operations (R146): `less` picks the lesser, `num` prefers a number to a NaN. -/
def fltExtreme (less num : Bool) (fm : Fmt) (x y _z : Nat) : Flagged Nat :=
  let a := fm.decode x
  let b := fm.decode y
  let r := if a.isNaN && b.isNaN then fm.nanOf.1
    else if a.isNaN then (if num then y else fm.nanOf.1)
    else if b.isNaN then (if num then x else fm.nanOf.1)
    else if numBelow b a == less then y else x
  (r, snanFlag [a, b])

/-- `fmin`. -/
def execFmin (f : RWord) (s : State) : Host.Outcome State Fault Refusal :=
  s.fltOp (.fmin f) f false (fltExtreme true false)
/-- `fmax`. -/
def execFmax (f : RWord) (s : State) : Host.Outcome State Fault Refusal :=
  s.fltOp (.fmax f) f false (fltExtreme false false)
/-- `fminnum`. -/
def execFminnum (f : RWord) (s : State) : Host.Outcome State Fault Refusal :=
  s.fltOp (.fminnum f) f false (fltExtreme true true)
/-- `fmaxnum`. -/
def execFmaxnum (f : RWord) (s : State) : Host.Outcome State Fault Refusal :=
  s.fltOp (.fmaxnum f) f false (fltExtreme false true)

/-- `fabs`: the sign bit is cleared; no flag, no flushing (R142, R144). -/
def execFabs (f : RWord) (s : State) : Host.Outcome State Fault Refusal :=
  simt s fun k => s.fltVec k (.fabs f) f false fun x _ _ => (x % 2 ^ ((fltFmt f.dt).width - 1), 0)
/-- `fneg`: the sign bit is inverted. -/
def execFneg (f : RWord) (s : State) : Host.Outcome State Fault Refusal :=
  simt s fun k => s.fltVec k (.fneg f) f false fun x _ _ => (x ^^^ 2 ^ ((fltFmt f.dt).width - 1), 0)

/-- A condition of `fcmp` (R147). -/
def fcmpCond (cc : Nat) (x y : Num) : Bool :=
  let un := x.isNaN || y.isNaN
  let eq := !un && !numLt x y && !numLt y x
  if cc = 0 then eq else if cc = 1 then !eq else if cc = 2 then !un && numLt x y
  else if cc = 3 then !un && !numLt y x else if cc = 4 then !un && numLt y x
  else if cc = 5 then !un && !numLt x y else if cc = 6 then !un else un

/-- `fcmp` (R147): one element a lane, written as `cmp` writes. -/
def execFcmp (f : RWord) (s : State) : Host.Outcome State Fault Refusal :=
  simt s fun k =>
    let m := k.active f.pk (modNP f.mod)
    let fm := fltFmt f.dt
    let o := (fltOffs f.dt).headD 0
    let val := fun (x : BitVec 8) (lane : Nat) =>
      fm.decode (ftzIn k.l.ftz fm (k.fltSrc s.now f.lit f.dt x lane >>> o % 2 ^ fm.width))
    s.issueRegs k (.fcmp f) (k.use f.a f.actl 1 m ++ k.use f.b f.bctl 1 m) [] fun wv =>
      let r := maskOf fun lane => m.getLsbD lane && fcmpCond (mod4 f.mod) (val f.a lane) (val f.b lane)
      let fl := if (lanesOf m).any fun lane => (val f.a lane).isSNaN || (val f.b lane).isSNaN then flNV else 0
      s.commit k ((wv.kwrite k.fr.owned f.d.toNat m r).flag fl) (Instr.fcmp f).len

/-- The class mask of a code (R148). -/
def classMask (fm : Fmt) (c : Nat) : Nat :=
  match fm.decode c with
  | .nan sig => if sig then 2 ^ 8 else 2 ^ 9
  | .inf neg => if neg then 1 else 2 ^ 7
  | .fin neg m _ =>
    if m = 0 then (if neg then 2 ^ 3 else 2 ^ 4)
    else if field c fm.mbits fm.ebits = 0 then (if neg then 2 ^ 2 else 2 ^ 5)
    else (if neg then 2 ^ 1 else 2 ^ 6)

/-- `fclass`. -/
def execFclass (f : RWord) (s : State) : Host.Outcome State Fault Refusal :=
  simt s fun k => s.fltVec k (.fclass f) f false fun x _ _ => (classMask (fltFmt f.dt) x, 0)

/-- x rounded to an integral value, a zero keeping its sign (R149). -/
def fltRound (rd : Nat) (fm : Fmt) (x _y _z : Nat) : Flagged Nat :=
  match fm.decode x with
  | .nan sig => (fm.nanOf.1, if sig then flNV else 0)
  | .inf _ => (x, 0)
  | .fin neg m e => ((roundF (.fin neg (roundAt neg m e 0 rd).1 0) fm rd 1).1, 0)

/-- `fround`. -/
def execFround (f : RWord) (s : State) : Host.Outcome State Fault Refusal :=
  s.fltOp (.fround f) f false (fltRound (rdOf f))

/-! ## Special functions, MAJ 0x09 (R150 to R152) -/

/-- `vfrcp`. -/
def execVfrcp (f : RWord) (s : State) : Host.Outcome State Fault Refusal :=
  s.fltOp (.vfrcp f) f true (fltOne (rdOf f) fun x => numDiv (.fin false 1 0) x)
/-- `vfrsq`. -/
def execVfrsq (f : RWord) (s : State) : Host.Outcome State Fault Refusal :=
  s.fltOp (.vfrsq f) f true (fltOne (rdOf f) numRsqrt)
/-- `vfexp2`. -/
def execVfexp2 (f : RWord) (s : State) : Host.Outcome State Fault Refusal :=
  s.fltOp (.vfexp2 f) f true (fltOne (rdOf f) numExp2)
/-- `vflog2`. -/
def execVflog2 (f : RWord) (s : State) : Host.Outcome State Fault Refusal :=
  s.fltOp (.vflog2 f) f true (fltOne (rdOf f) numLog2)
/-- `vfsin`. -/
def execVfsin (f : RWord) (s : State) : Host.Outcome State Fault Refusal :=
  s.fltOp (.vfsin f) f true (fltOne (rdOf f) numSinPi)
/-- `vfcos`. -/
def execVfcos (f : RWord) (s : State) : Host.Outcome State Fault Refusal :=
  s.fltOp (.vfcos f) f true (fltOne (rdOf f) numCosPi)

/-! ## Conversions, MAJ 0x0A -/

/-- The table row of a source type of `vcvt`: whether it is an integer, and the DT that reads it (R153). -/
def cvtSource (src : Nat) : Bool × BitVec 3 :=
  if src ≤ 3 then (true, BitVec.ofNat 3 src)
  else if src = 4 then (false, 0) else if src = 5 then (false, 3) else if src = 6 then (false, 4)
  else if src = 7 then (false, 5) else if src = 8 then (false, 6) else if src = 9 then (false, 1)
  else if src = 10 then (false, 2) else if src = 11 then (true, 4) else (true, 5)

/-- The values of the elements of a source lane of `vcvt`, under FTZ for floating sources (R142, R153). -/
def cvtValues (ftz : Bool) (src : Nat) (raw : Nat) : List Num :=
  let (int, dt) := cvtSource src
  if int then (List.range (intElems dt)).map fun e =>
    numOfInt (elemVal (intWidth dt) (intSigned dt) (elemAt (intWidth dt) raw e))
  else (fltOffs dt).map fun o => (fltFmt dt).decode (ftzIn ftz (fltFmt dt) (raw >>> o % 2 ^ (fltFmt dt).width))

/-- `vcvt` (R153 to R155). -/
def execVcvt (f : RWord) (s : State) : Host.Outcome State Fault Refusal :=
  simt s fun k =>
    let m := k.active f.pk (modNP f.mod)
    let src := cvtSource f.cvtSrc
    let gA := if src.1 then intBits src.2 / 32 else 1
    let raw := fun (lane : Nat) =>
      if src.1 then k.intSrc s.now f.lit src.2 f.a lane else k.fltSrc s.now f.lit src.2 f.a lane
    let us := k.use f.a f.actl gA m
    if f.cvtToInt then
      s.intVec k (.vcvt f) f.dt m f.d us fun lane =>
        let es := (cvtValues k.l.ftz f.cvtSrc (raw lane)).map fun x =>
          withFlags (satI x (intWidth f.dt) (intSigned f.dt) (rdOf f)) (snanFlag [x])
        (ofElems (intWidth f.dt) (intElems f.dt) fun e => (es.getD e (0, 0)).1, (es.map (·.2)).foldl orFlags 0)
    else
      let fm := fltFmt f.dt
      s.issueRegs k (.vcvt f) us (k.dst f.d 1 m) fun wv =>
        let vs := laneVals m (0, 0) fun lane =>
          let es := (cvtValues k.l.ftz f.cvtSrc (raw lane)).map fun x =>
            ftzOut k.l.ftz fm (withFlags (roundF x fm (rdOf f) 1) (snanFlag [x]))
          (fltLane f.dt (es.map (·.1)), (es.map (·.2)).foldl orFlags 0)
        let w2 := wv.vputBits (k.vname f.d.toNat) m (fltBits f.dt) fun lane => (vs.getD lane (0, 0)).1
        s.commit k (w2.flag ((vs.map (·.2)).foldl orFlags 0)) (Instr.vcvt f).len

/-- The checks of `vcvtf` after check 2 of R36 (R156): FORMAT_SLOT, then RESERVED_FIELD. -/
def vcvtfTrap (slot : Nat) (f : RWord) : Option Nat :=
  if slotInvalid slot then some 0x16
  else if perLane (slotFmt slot) ≤ f.c.toNat then some 0x02
  else if OpField.isNone f.b != (slotSmode slot == 0) then some 0x02
  else none

/-- The scale word of `vcvtf` in a lane: an fp32 scale under SMODE 1, the affine pair under SMODE 2 (R156). -/
def Ctx.vcvtfScale (k : Ctx) (now : Nat) (slot : Nat) (f : RWord) (lane : Nat) : Nat :=
  if OpField.isNone f.b then 0
  else if slotSmode slot = 1 then k.fltSrc now f.lit 0 f.b lane else k.intSrc now f.lit 1 f.b lane

/-- `vcvtf.to` (R156, R157). -/
def execVcvtfTo (f : RWord) (s : State) : Host.Outcome State Fault Refusal :=
  simt s fun k =>
    let slot := k.l.slot f.dt.toNat
    match vcvtfTrap slot f with
    | some c => s.trapWhole k c (.vcvtfTo f)
    | none =>
      let m := k.active f.pk (modNP f.mod)
      let fw := fmtWidth (slotFmt slot)
      let j := f.c.toNat
      s.issueRegs k (.vcvtfTo f) (k.use f.a f.actl 1 m ++ k.use f.b f.bctl 1 m) (k.dst f.d 1 m) fun wv =>
        let vs := laneVals m (0, 0) fun lane =>
          convTo slot (k.fltSrc s.now f.lit 0 f.a lane) (k.vcvtfScale s.now slot f lane)
        let bits := (2 ^ fw - 1) <<< (fw * j) + (if fw = 6 then 0xFF000000 else 0)
        let w2 := wv.vputBits (k.vname f.d.toNat) m bits fun lane => ((vs.getD lane (0, 0)).1 % 2 ^ fw) <<< (fw * j)
        s.commit k (w2.flag ((vs.map (·.2)).foldl orFlags 0)) (Instr.vcvtfTo f).len

/-- `vcvtf.from` (R156, R158). -/
def execVcvtfFrom (f : RWord) (s : State) : Host.Outcome State Fault Refusal :=
  simt s fun k =>
    let slot := k.l.slot f.dt.toNat
    match vcvtfTrap slot f with
    | some c => s.trapWhole k c (.vcvtfFrom f)
    | none =>
      let m := k.active f.pk (modNP f.mod)
      let fw := fmtWidth (slotFmt slot)
      s.issueRegs k (.vcvtfFrom f) (k.use f.a f.actl 1 m ++ k.use f.b f.bctl 1 m) (k.dst f.d 1 m) fun wv =>
        let vs := laneVals m (0, 0) fun lane =>
          convFrom slot (elemAt fw (k.intSrc s.now f.lit 1 f.a lane) f.c.toNat) (k.vcvtfScale s.now slot f lane)
        let w2 := wv.vput (k.vname f.d.toNat) m fun lane => BitVec.ofNat 32 (vs.getD lane (0, 0)).1
        s.commit k (w2.flag ((vs.map (·.2)).foldl orFlags 0)) (Instr.vcvtfFrom f).len

/-! ## Dot products -/

/-- `vdot4` on one lane (R159). -/
def dot4 (sg sat : Bool) (x y c : Nat) : Flagged Nat :=
  let p := (List.range 4).foldl (fun (a : Int) e => a + elemVal 8 sg (elemAt 8 x e) * elemVal 8 sg (elemAt 8 y e))
    (elemVal 32 sg c)
  if sat then satElem 32 sg p else (wrap 32 p, 0)

/-- `vdot4`. -/
def execVdot4 (f : RWord) (s : State) : Host.Outcome State Fault Refusal :=
  simt s fun k =>
    let m := k.active f.pk (modNP f.mod)
    let sg := intSigned f.dt
    s.intVec k (.vdot4 f) f.dt m f.d (k.use f.a f.actl 1 m ++ k.use f.b f.bctl 1 m ++ k.use f.c f.cctl 1 m) fun lane =>
      dot4 sg (mod4 f.mod == 1) (k.intSrc s.now f.lit f.dt f.a lane) (k.intSrc s.now f.lit f.dt f.b lane)
        (k.intSrc s.now f.lit (if sg then 0 else 1) f.c lane)

/-- The exact x0·y0 + x1·y1 + z with its conditions (R160, 03 R72). -/
def numDot2 (x0 y0 x1 y1 z : Num) (rd : Nat) : Flagged Num :=
  let p := numMul x0 y0
  let q := numMul x1 y1
  let fl := p.2 ||| q.2
  if [x0, y0, x1, y1, z].any Num.isNaN then (.nan false, fl)
  else
    let t := numAdd p.1 q.1 rd
    let u := numAdd t.1 z rd
    (u.1, fl ||| t.2 ||| u.2)

/-- `vdot2`. -/
def execVdot2 (f : RWord) (s : State) : Host.Outcome State Fault Refusal :=
  simt s fun k =>
    let m := k.active f.pk (modNP f.mod)
    let fm := fltFmt f.dt
    let ftz := k.l.ftz
    let el := fun (raw o : Nat) => fm.decode (ftzIn ftz fm (raw >>> o % 2 ^ 16))
    s.issueRegs k (.vdot2 f) (k.use f.a f.actl 1 m ++ k.use f.b f.bctl 1 m ++ k.use f.c f.cctl 1 m) (k.dst f.d 1 m)
      fun wv =>
        let vs := laneVals m (0, 0) fun lane =>
          let a := k.fltSrc s.now f.lit f.dt f.a lane
          let b := k.fltSrc s.now f.lit f.dt f.b lane
          let z := fmtFp32.decode (ftzIn ftz fmtFp32 (k.fltSrc s.now f.lit 0 f.c lane))
          let xs := [el a 0, el b 0, el a 16, el b 16, z]
          ftzOut ftz fmtFp32 (roundTo fmtFp32 (rdOf f) xs (numDot2 (el a 0) (el b 0) (el a 16) (el b 16) z (rdOf f)))
        let w2 := wv.vput (k.vname f.d.toNat) m fun lane => BitVec.ofNat 32 (vs.getD lane (0, 0)).1
        s.commit k (w2.flag ((vs.map (·.2)).foldl orFlags 0)) (Instr.vdot2 f).len

end Sys2Proof.Machine
end

