-- ==== Sys2Proof/Machine/CrossLane.lean ====
section
/-!
DEFINITION. Cross-lane instructions with their roll call (06 R161 to R171), and random numbers (06 R172 to R174).
-/

namespace Sys2Proof.Machine

/-! ## Roll call -/

/-- A trap with faulting lanes of its own and one report-card entry for the lowest (R44, R444). -/
def State.trapLanes (s : State) (k : Ctx) (cause : Nat) (lanes : Word32) (i : Instr) : State :=
  let t := k.whole s cause i.baseWord
  let ls := lanes &&& ~~~k.fr.skip
  s.takeTrap k.w k.slot { t with
    lanes := ls
    first := lowestLane ls
    cards := [mkCard cause (lowestLane ls) 0 false false false k.ioff (k.wv.wid (lowestLane ls)) 0 0 0 0 s.now] }

/-- The lanes of a wave that have exited or were never held (R162). -/
def Wave.gone (wv : Wave) : Word32 := ~~~wv.lanes ||| wv.exited

/-- The other fragment waits in roll call at this address with this member set. -/
def Ctx.rollMate (k : Ctx) (m : Word32) : Bool :=
  match k.wv.frag (1 - k.slot) with
  | some g => (match g.st with | .rollcall _ m2 _ => g.pc == k.fr.pc && m2 == m | _ => false)
  | none => false

/-- The other fragment waits in a roll call that cannot complete with this one, or has arrived at the split (R162). -/
def Ctx.rollClash (k : Ctx) : Bool :=
  match k.wv.frag (1 - k.slot) with
  | some g => (match g.st with | .rollcall _ _ _ => true | .splitwait _ => true | _ => false)
  | none => false

/-- The other fragment waits in roll call: this one may not issue another cross-lane instruction whose member set holds a
lane of its own, arrive at the split or exit (R163). -/
def Ctx.mateInRoll (k : Ctx) : Bool :=
  match k.wv.frag (1 - k.slot) with
  | some g => (match g.st with | .rollcall _ _ _ => true | _ => false)
  | none => false

/-- R162 to R164: a cross-lane instruction with member mask field c.  `us` are its sources for a member set, `dn` the
vector names it writes, and `write` puts the result into the member lanes of the wave.  The sources of a completing
arrival are read without the empty marks that the waiting arrival made (R164; log entry 17). -/
def State.rollCall (s : State) (i : Instr) (c : BitVec 8) (us : Ctx → Word32 → List RegUse) (dn : Ctx → List Nat)
    (write : Ctx → Word32 → Wave → Wave) : Host.Outcome State Fault Refusal :=
  simt s fun k =>
    let m := k.kread c.toNat
    let mine := m &&& k.fr.owned
    let theirs := m &&& ~~~k.fr.owned
    let mate := k.rollMate m
    let k2 : Ctx := if mate then { k with wv := k.wv.withdrawRoll (1 - k.slot) } else k
    let ds := (dn k).map fun n => ({ isV := true, n := n, mask := mine } : RegDst)
    match k2.checkRegs (us k m) ds with
    | .trap cause => s.trapWhole k cause i
    | .wait => s.opwait k
    | .go wv =>
      if m = 0 then s.commit k wv i.len
      else if m &&& k.wv.gone ≠ 0 then s.trapLanes k 0x05 (m &&& k.wv.gone) i
      else if mine = 0 then s.commit k wv i.len
      else if mine &&& ~~~k.fr.exec ≠ 0 then s.trapLanes k 0x06 (mine &&& ~~~k.fr.exec) i
      else if theirs = 0 then
        if k.mateInRoll then s.trapWhole k 0x06 i else s.commit k (write k m wv) i.len
      else if k.wv.hmode then s.trapLanes k 0x06 theirs i
      else if mate then
        let done := write k2 m wv
        s.commit k (done.setFrag (1 - k.slot) ((done.frag (1 - k.slot)).map (·.after i.len))) i.len
      else if k.rollClash then s.trapLanes k 0x06 theirs i
      else
        let marked := (dn k).foldl (fun (x : Wave) n => x.vmark n mine) wv
        s.setWave k.w fun _ => marked.setFrag k.slot
          ((marked.frag k.slot).map fun f => { f with st := .rollcall i m (dn k) })

/-! ## Moving values (R166) -/

/-- Writes member lanes of a V group. -/
def Ctx.putMembers (k : Ctx) (d : BitVec 8) (g : Nat) (m : Word32) (wv : Wave) (f : Nat → Nat) : Wave :=
  wv.vputs m f (k.vnames d g) 0

/-- `xshfl`, `xrot` and `xbcast`: `from` gives the source lane of a member. -/
def State.xmove (s : State) (i : Instr) (f : RWord) (src : Ctx → Nat → Nat) : Host.Outcome State Fault Refusal :=
  let g := intBits f.dt / 32
  s.rollCall i f.c (fun k m => k.use f.a f.actl g m ++ k.use f.b f.bctl 1 m) (fun k => k.vnames f.d g)
    fun k m wv => k.putMembers f.d g m wv fun lane =>
      let from_ := src k lane
      k.intSrc s.now f.lit f.dt f.a (if m.getLsbD from_ then from_ else lane)

/-- `xshfl`: B of the lane names its source. -/
def execXshfl (f : RWord) (s : State) : Host.Outcome State Fault Refusal :=
  s.xmove (.xshfl f) f fun k lane => k.intSrc s.now f.lit 1 f.b lane % 32
/-- `xrot`. -/
def execXrot (f : RWord) (s : State) : Host.Outcome State Fault Refusal :=
  s.xmove (.xrot f) f fun k lane => (lane + 32 - k.scalSrc s.now f.lit 32 f.b % 32) % 32
/-- `xbcast`: when the lane named is no member, every member receives its own A. -/
def execXbcast (f : RWord) (s : State) : Host.Outcome State Fault Refusal :=
  s.xmove (.xbcast f) f fun k _ => k.scalSrc s.now f.lit 32 f.b % 32

/-! ## Votes (R167) -/

/-- The result of a vote: any, all, eq. -/
def voteOf (op : Nat) (p m : Word32) : Bool :=
  if op = 0 then p &&& m != 0 else if op = 1 then p &&& m == m else p &&& m == m || p &&& m == 0

/-- `xvote`: the result in the member bits of Kd. -/
def execXvote (f : RWord) (s : State) : Host.Outcome State Fault Refusal :=
  s.rollCall (.xvote f) f.c (fun _ _ => []) (fun _ => []) fun k m wv =>
    let r := voteOf (mod4 f.mod) (k.kread f.a.toNat) m
    wv.kwrite (BitVec.allOnes 32) f.d.toNat m (if r then BitVec.allOnes 32 else 0)
/-- `xballot`: K(A) AND M in every member lane. -/
def execXballot (f : RWord) (s : State) : Host.Outcome State Fault Refusal :=
  s.rollCall (.xballot f) f.c (fun _ _ => []) (fun k => k.vnames f.d 1) fun k m wv =>
    k.putMembers f.d 1 m wv fun _ => (k.kread f.a.toNat &&& m).toNat

/-! ## Reductions and scans (R168, R169) -/

/-- The integer operations of the op byte on values of width w. -/
def redInt (op w : Nat) (sg : Bool) (a b : Nat) : Nat :=
  if op = 0 then (a + b) % 2 ^ w
  else if op = 1 then (if elemLt w sg b a then b else a)
  else if op = 2 then (if elemLt w sg a b then b else a)
  else if op = 3 then a &&& b else if op = 4 then a ||| b else a ^^^ b
/-- Their identities. -/
def redIntId (op w : Nat) (sg : Bool) : Nat :=
  if op = 1 then (if sg then 2 ^ (w - 1) - 1 else 2 ^ w - 1)
  else if op = 2 then (if sg then 2 ^ (w - 1) else 0)
  else if op = 3 then 2 ^ w - 1 else 0
/-- The float operations on codes, with FTZ on each result. -/
def redFlt (op rd : Nat) (ftz : Bool) (fm : Fmt) (a b : Nat) : Flagged Nat :=
  ftzOut ftz fm <|
    if op = 0x10 then fltTwo rd (fun x y => numAdd x y rd) fm a b 0
    else fltExtreme (op == 0x11 || op == 0x13) (0x13 ≤ op) fm a b 0
/-- Their identities. -/
def redFltId (op : Nat) (fm : Fmt) : Nat :=
  if op = 0x10 then 2 ^ (fm.width - 1) else if op = 0x11 then fm.infCode false
  else if op = 0x12 then fm.infCode true else fm.nanOf.1
/-- Canon of R169. -/
def redCanon (fm : Fmt) (c : Nat) : Flagged Nat :=
  match fm.decode c with
  | .nan sig => (fm.nanOf.1, if sig then flNV else 0)
  | _ => (c, 0)

/-- The running results over the members in ascending order (R169), with the conditions reported. -/
def scanFrom (comb : Nat → Nat → Flagged Nat) : Nat → List Nat → List Nat × Nat
  | _, [] => ([], 0)
  | acc, x :: xs =>
    let r := comb acc x
    let rest := scanFrom comb r.1 xs
    (r.1 :: rest.1, r.2 ||| rest.2)
/-- The results P of R169 for the members' values. -/
def scanAll (canon : Nat → Flagged Nat) (comb : Nat → Nat → Flagged Nat) : List Nat → List Nat × Nat
  | [] => ([], 0)
  | x :: xs =>
    let c := canon x
    let r := scanFrom comb c.1 xs
    (c.1 :: r.1, c.2 ||| r.2)

/-- What each member receives: the last result, its own, or the one before it. -/
def scanPick (scan excl : Bool) (ident : Nat) (ps : List Nat) (i : Nat) : Nat :=
  if !scan then ps.getLastD 0 else if !excl then ps.getD i 0 else if i = 0 then ident else ps.getD (i - 1) 0

/-- `xred` and `xscan` on the members' operands: the value of each member in order, and the flags. -/
def redMembers (f : RWord) (ftz scan : Bool) (vals : List Nat) : List Nat × Nat :=
  let op := f.xop
  let excl := f.b.getLsbD 7
  if f.xopInt then
    let w := intWidth f.dt
    let sg := intSigned f.dt
    let r := scanAll (fun x => (x, 0)) (fun a b => (redInt op w sg a b, 0)) vals
    ((List.range vals.length).map (scanPick scan excl (redIntId op w sg) r.1), 0)
  else
    let fm := fltFmt f.dt
    let parts := (fltOffs f.dt).map fun o =>
      let r := scanAll (redCanon fm) (redFlt op (rdOf f) ftz fm) (vals.map fun v => ftzIn ftz fm (v >>> o % 2 ^ fm.width))
      ((List.range vals.length).map (scanPick scan excl (redFltId op fm) r.1), r.2)
    ((List.range vals.length).map fun i => fltLane f.dt (parts.map fun p => p.1.getD i 0), (parts.map (·.2)).foldl orFlags 0)

/-- `xred` and `xscan`. -/
def State.reduce (s : State) (i : Instr) (f : RWord) (scan : Bool) : Host.Outcome State Fault Refusal :=
  let g := if f.xopInt then intBits f.dt / 32 else 1
  s.rollCall i f.c (fun k m => k.use f.a f.actl g m) (fun k => k.vnames f.d g) fun k m wv =>
    let ms := lanesOf m
    let vals := ms.map fun lane => if f.xopInt then k.intSrc s.now f.lit f.dt f.a lane else k.fltSrc s.now f.lit f.dt f.a lane
    let r := redMembers f k.l.ftz scan vals
    let of := fun (lane : Nat) => r.1.getD ((ms.takeWhile (· != lane)).length) 0
    let w2 := if f.xopInt then k.putMembers f.d g m wv of
      else wv.vputBits (k.vname f.d.toNat) m (fltBits f.dt) of
    w2.flag r.2

/-- `xred`. -/
def execXred (f : RWord) (s : State) : Host.Outcome State Fault Refusal := s.reduce (.xred f) f false
/-- `xscan`. -/
def execXscan (f : RWord) (s : State) : Host.Outcome State Fault Refusal := s.reduce (.xscan f) f true

/-! ## Matching and max-with-index (R170, R171) -/

/-- `xmatch`. -/
def execXmatch (f : RWord) (s : State) : Host.Outcome State Fault Refusal :=
  let g := intBits f.dt / 32
  s.rollCall (.xmatch f) f.c (fun k m => k.use f.a f.actl g m) (fun k => k.vnames f.d 1) fun k m wv =>
    let vs := laneVals m 0 fun lane => k.intSrc s.now f.lit f.dt f.a lane
    k.putMembers f.d 1 m wv fun lane => (maskOf fun j => m.getLsbD j && vs.getD j 0 == vs.getD lane 0).toNat

/-- `xmaxidx`. -/
def execXmaxidx (f : RWord) (s : State) : Host.Outcome State Fault Refusal :=
  s.rollCall (.xmaxidx f) f.c (fun k m => k.use f.a f.actl 1 m ++ k.use f.b f.bctl 1 m) (fun k => k.vnames f.d 2)
    fun k m wv =>
      let fm := fltFmt f.dt
      let o := (fltOffs f.dt).headD 0
      let key := fun (lane : Nat) =>
        let c := k.fltSrc s.now f.lit f.dt f.a lane >>> o % 2 ^ fm.width
        let x := if fm.width = 32 then c else
          match fm.decode c with
          | .nan _ => 0x7FC00000
          | v => (roundF v fmtFp32 0 1).1
        maxIdxKey x (k.intSrc s.now f.lit 1 f.b lane)
      let best := ((lanesOf m).map key).foldl max 0
      k.putMembers f.d 2 m wv fun _ => best

/-! ## Random numbers, MAJ 0x0C -/

/-- Rounds of Philox-4x32-10 on a counter and key (R173). -/
def philoxRounds : Nat → Nat × Nat × Nat × Nat → Nat × Nat → Nat × Nat × Nat × Nat
  | 0, c, _ => c
  | r + 1, (c0, c1, c2, c3), (k0, k1) =>
    let p := 0xD2511F53 * c0
    let q := 0xCD9E8D57 * c2
    philoxRounds r
      ((q / 2 ^ 32 ^^^ c1) ^^^ k0, q % 2 ^ 32, (p / 2 ^ 32 ^^^ c3) ^^^ k1, p % 2 ^ 32)
      ((k0 + 0x9E3779B9) % 2 ^ 32, (k1 + 0xBB67AE85) % 2 ^ 32)

/-- The four words of a lane (R172). -/
def philox (key wid ctr : Nat) : Nat × Nat × Nat × Nat :=
  philoxRounds 10 (wid % 2 ^ 32, wid / 2 ^ 32 % 2 ^ 32, ctr % 2 ^ 32, ctr / 2 ^ 32 % 2 ^ 32) (key % 2 ^ 32, key / 2 ^ 32 % 2 ^ 32)

/-- A word as `vrand` writes it: itself, or the fp32 value of its top 24 bits in [0, 1) (R172). -/
def randWord (u01 : Bool) (x : Nat) : Nat :=
  if u01 then (roundF (.fin false (x / 2 ^ 8) (-24)) fmtFp32 0 1).1 else x

/-- `vrand`. -/
def execVrand (f : RWord) (s : State) : Host.Outcome State Fault Refusal :=
  simt s fun k =>
    let m := k.active f.pk (modNP f.mod)
    let u := mod4 f.mod == 1
    s.issueRegs k (.vrand f) [] (k.dst f.d 4 m) fun wv =>
      let vs := laneVals m 0 fun lane =>
        let (a, b, c, d) := philox k.wv.rngkey.toNat (k.wv.wid lane) (k.wv.rngctr.toList.getD lane 0).toNat
        randWord u a + randWord u b <<< 32 + randWord u c <<< 64 + randWord u d <<< 96
      let w2 := wv.vputs m (fun lane => vs.getD lane 0) (k.vnames f.d 4) 0
      let w3 := { w2 with rngctr := Vector.ofFn fun i => if m.getLsbD i.val then w2.rngctr[i] + 1 else w2.rngctr[i] }
      s.commit k w3 (Instr.vrand f).len

end Sys2Proof.Machine
end

