-- ==== Sys2Proof/Machine/Access.lean ====
section
/-!
DEFINITION. Accesses of waves to memory: resolving a lane's address (07 R176 to R180; 10 R298, R304 to R306; 18 R443),
the lane checks and their trap (07 R180 to R183), what makes an access wait (10 R309, R312; 11 R337, R338), reading and
writing (11 R324, R330), the sets of checked launches and their synchronisation points (11 R325 to R329).
-/

namespace Sys2Proof.Machine

/-! ## Resolving -/

/-- Where the bytes of an access lie. -/
inductive Place where
  | phys (pa : Nat) (leaf : Word64) (priv : Bool)
  | scr (cl csa : Nat) (other : Bool)
  | card (off : Nat)
  deriving DecidableEq, Repr

/-- Consecutive bytes of an access; `va` is their global virtual address, after rewriting (R305). -/
structure Span where
  place : Place
  va    : Nat
  n     : Nat
  deriving DecidableEq, Repr

/-- One lane's access: its address, its spans, or the failing check's cause with MALF and WBUF. -/
structure LaneRes where
  lane  : Nat
  addr  : Nat
  spans : List Span
  bad   : Option (Nat × Bool × Bool)
  deriving DecidableEq, Repr

/-- Which addresses beyond the ordinary ones an instruction accepts (R306, R443). -/
structure Windows where
  priv : Bool
  card : Bool

/-- A lane that fails a check. -/
def LaneRes.fail (lane addr cause : Nat) (malf : Bool := false) (wbuf : Bool := false) : LaneRes :=
  { lane := lane, addr := addr, spans := [], bad := some (cause, malf, wbuf) }

/-- The global addresses and lengths that an access in the private window is rewritten to (R305). -/
def Ctx.privWords (k : Ctx) (lane o n : Nat) : List (Nat × Nat) :=
  let base := k.l.priv + k.wv.priv * k.l.privWave
  let row := fun (j : Nat) => (base + (o / 4 + j) * 128 + 4 * lane) % 2 ^ 64
  if n < 4 then [(row 0 + o % 4, n)] else (List.range (n / 4)).map fun j => (row j, 4)

/-- Checks 3 and 4 of R180 on the pieces of an access. -/
def State.translateAll (s : State) (k : Ctx) (kind : Acc) (lane addr : Nat) (priv : Bool) (ws : List (Nat × Nat)) : LaneRes :=
  let rs := ws.map fun w => (w, s.access k.part (coreAgents k.wv.core) kind false w.1 w.2)
  let bads := rs.filterMap fun r => match r.2 with | .fault c m => some (c, m) | .ok _ _ _ _ => none
  match (bads.find? fun b => b.1 != 0x0A).orElse fun _ => bads.head? with
  | some (c, m) => LaneRes.fail lane addr c m
  | none =>
    { lane := lane, addr := addr, bad := none,
      spans := rs.filterMap fun r => match r.2 with
        | .ok pa leaf _ _ => some { place := .phys pa leaf priv, va := r.1.1, n := r.1.2 }
        | .fault _ _ => none }

/-- A lane's access to the global space: checks 1 to 4 of R180. -/
def State.laneGlobal (s : State) (k : Ctx) (kind : Acc) (win : Windows) (n lane addr : Nat) : LaneRes :=
  if 2 ^ 56 ≤ addr then LaneRes.fail lane addr 0x08
  else if field addr 40 16 = 0xFFFF then
    let o := addr % 2 ^ 40
    if !win.priv || k.l.privSize < o + n then LaneRes.fail lane addr 0x08
    else if o % n ≠ 0 then LaneRes.fail lane addr 0x07
    else s.translateAll k kind lane addr true (k.privWords lane o n)
  else if field addr 40 16 = 0xFFFE then
    let o := addr % 2 ^ 40
    if !(win.card && kind == .read && k.wv.hmode) || 2048 < o + n then LaneRes.fail lane addr 0x08
    else if o % n ≠ 0 then LaneRes.fail lane addr 0x07
    else { lane := lane, addr := addr, bad := none, spans := [{ place := .card o, va := addr, n := n }] }
  else if addr % n ≠ 0 then LaneRes.fail lane addr 0x07
  else s.translateAll k kind lane addr false [(addr, n)]

/-- The region of a gang member's workgroup and the cluster that holds it (R178, R298). -/
def State.memberRegion (s : State) (k : Ctx) (member : Nat) : Option (Nat × Region) :=
  (List.range s.clusters.length).findSome? fun c =>
    match s.clusters[c]? with
    | none => none
    | some x => (x.regions.find? fun r => r.launch == k.wv.launch && r.wg == 4 * k.wv.gang + member).map fun r => (c, r)

/-- Every bank that n bytes of a cluster's scratch space touch is in SCRATCH mode (R178, R298, R301). -/
def State.scratchBanks (s : State) (cl csa n : Nat) : Bool :=
  match s.clusters[cl]? with
  | some c => (List.range ((csa + n - 1) / bankBytes + 1 - csa / bankBytes)).all fun i =>
      c.modes.getD (csa / bankBytes + i) .cache == .scratch
  | none => false

/-- The cluster and CSA of n bytes at a scratchpad address that lies in the region it names, and whether that is another
member's (R178). -/
def State.scratchAt (s : State) (k : Ctx) (addr n : Nat) : Option (Nat × Nat × Bool) :=
  let off := field addr 0 24
  let member := field addr 24 2
  let g := bitOf addr 26
  if 2 ^ 27 ≤ addr || (!g && member != 0) || (g && decide (k.l.wgCount ≤ member)) || decide (k.l.scratch < off + n) then none
  else
    match s.memberRegion k (if g then member else k.wv.wg) with
    | none => none
    | some (c, r) => some (c, r.wsb + off, g && member != k.wv.wg)

/-- The place of n bytes at a scratchpad address, where the address is legal (R178, R298). -/
def State.scratchCsa (s : State) (k : Ctx) (addr n : Nat) : Option (Nat × Nat × Bool) :=
  (s.scratchAt k addr n).filter fun r => s.scratchBanks r.1 r.2.1 n

/-- A lane's access to a scratchpad: checks 1 and 2 of R180. -/
def State.laneScratch (s : State) (k : Ctx) (n lane addr : Nat) : LaneRes :=
  match s.scratchCsa k addr n with
  | none => LaneRes.fail lane addr 0x08
  | some (c, csa, other) =>
    if addr % n ≠ 0 then LaneRes.fail lane addr 0x07
    else { lane := lane, addr := addr, bad := none, spans := [{ place := .scr c csa other, va := addr, n := n }] }

/-! ## Check 5 -/

/-- The bytes of a line, or 8-byte scratch word, that the accesses cover together. -/
def coverCount (rs : List LaneRes) (at_ : Span → Option Nat) (unit u : Nat) : Nat :=
  ((List.range unit).filter fun b => rs.any fun r => r.spans.any fun sp =>
    match at_ sp with
    | some a => decide (a ≤ unit * u + b) && decide (unit * u + b < a + sp.n)
    | none => false).length

/-- The physical address of a span; its scratch address in a cluster. -/
def Span.pa? (sp : Span) : Option Nat := match sp.place with | .phys pa _ _ => some pa | _ => none
def Span.csa? (cl : Nat) (sp : Span) : Option Nat := match sp.place with | .scr c a _ => if c = cl then some a else none | _ => none

/-- A span meets uncorrectable data (R180 check 5): a load or atomic reads it; a store merges with a poisoned line
or scratch word that the instruction does not cover whole. -/
def State.spanPoisoned (s : State) (kind : Acc) (rs : List LaneRes) (sp : Span) : Bool :=
  match sp.place with
  | .phys pa _ _ =>
    !outbound pa && (linesOf pa sp.n).any fun ln =>
      s.poison.contains ln && (kind != .write || coverCount rs Span.pa? 64 ln != 64)
  | .scr c csa _ =>
    (match s.clusters[c]? with
     | some x => !x.spoison.isEmpty && (List.range ((csa + sp.n - 1) / 8 - csa / 8 + 1)).any fun i =>
        x.spoison.contains (csa / 8 + i) && (kind != .write || coverCount rs (Span.csa? c) 8 (csa / 8 + i) != 8)
     | none => false)
  | .card _ => false

/-- Check 5 on the lanes that passed the others. -/
def State.checkPoison (s : State) (kind : Acc) (rs : List LaneRes) : List LaneRes :=
  if s.poison.isEmpty && s.clusters.all (fun c => c.spoison.isEmpty) then rs
  else rs.map fun r =>
    if r.bad.isNone && r.spans.any (s.spanPoisoned kind rs) then { r with bad := some (0x0E, false, false) } else r

/-! ## The trap of a memory instruction (R181, R443, R444) -/

/-- Rank of a cause among lane faults. -/
def causeRank (c : Nat) : Nat :=
  if c = 0x0E then 5 else if c = 0x0A then 4 else if c = 0x09 then 3 else if c = 0x07 then 2 else 1

/-- The cause of highest rank. -/
def worstCause (cs : List Nat) : Nat := cs.foldl (fun b c => if causeRank b < causeRank c then c else b) (cs.headD 0)

/-- The trap of the lanes that fail. -/
def State.laneTrap (s : State) (k : Ctx) (i : Instr) (kind : Acc) (uniform : Bool) (count : Nat) (rs : List LaneRes) : Option Trap :=
  let bads := rs.filterMap fun r => r.bad.map fun b => (r, b)
  match bads with
  | [] => none
  | _ =>
    let lanes := if uniform then k.wholeLanes else maskOf fun l => bads.any fun b => b.1.lane == l
    let causes := bads.map fun b => b.2.1
    let card := fun (b : LaneRes × Nat × Bool × Bool) =>
      let lane := if uniform then lowestLane k.wholeLanes else b.1.lane
      mkCard b.2.1 lane kind.code false b.2.2.2 b.2.2.1 k.ioff (k.wv.wid lane) b.1.addr 0 0 0 s.now
    some { cause := worstCause causes, lanes := lanes, first := lowestLane lanes,
           multi := !uniform && causes.any (fun c => c != causes.headD 0), count := count, pc := k.fr.pc,
           inst := i.baseWord, cards := bads.map card }

/-! ## Waiting -/

/-- Two spans of bytes overlap. -/
def overlaps (a n b m : Nat) : Bool := decide (a < b + m) && decide (b < a + n)

/-- R309: the access overlaps a span of a copy command that a wave of this core has posted. -/
def State.scoreboardHolds (s : State) (k : Ctx) (writes : Bool) (sp : Span) : Bool :=
  s.cmds.any fun c =>
    c.unfinished && c.core == k.wv.core && c.spans.any fun x =>
      (x.write || writes) &&
      (match sp.place, x.cl with
       | .phys _ _ _, none => s.partOf c.launch == k.part && overlaps sp.va sp.n x.base x.len
       | .scr cl csa _, some c2 => cl == c2 && overlaps csa sp.n x.base x.len
       | _, _ => false)

/-- R312: a bank of the wave's own cluster is locked against the access. -/
def State.lockHolds (s : State) (k : Ctx) (writes : Bool) (sp : Span) : Bool :=
  match sp.place with
  | .scr cl csa _ =>
    cl == k.cl && (match s.clusters[cl]? with
      | some c => c.locks.any fun l => l.bank == csa / bankBytes && (l.write || writes)
      | none => false)
  | _ => false

/-- A scoreboard entry, a lock or a grant makes a memory instruction wait (R309, R312, R338). -/
def State.memBlocked (s : State) (k : Ctx) (writes board : Bool) (rs : List LaneRes) : Bool :=
  rs.any fun r => r.spans.any fun sp =>
    (board && s.scoreboardHolds k writes sp) || s.lockHolds k writes sp ||
    (match sp.place with | .phys _ _ _ => s.grantHolds k.part (some k.cl) writes sp.va sp.n | _ => false)

/-- A line that an access needs at its holder, or at the home (none): R335, R340, R410. -/
structure LineUse where
  h        : Option Holder
  line     : Nat
  uncached : Bool
  ck       : Bool
  deriving DecidableEq, Repr

/-- The core's L1 holds a line (R324). -/
def State.inL1 (s : State) (core ln : Nat) : Bool := s.l1.any fun e => e.core == core && e.line == ln

/-- The lines of memory that an access takes up with the coherence protocol: not those of a buffered write (R330), of
bytes under a grant of the own cluster (R338), or of a load that the L1 serves (R324). -/
def State.lineUses (s : State) (k : Ctx) (writes fresh : Bool) (rs : List LaneRes) : List LineUse :=
  (rs.flatMap fun r => r.spans.flatMap fun sp =>
    match sp.place with
    | .phys pa leaf priv =>
      if outbound pa || (writes && k.l.determ && !priv) || s.underGrant k.part k.cl writes sp.va sp.n then []
      else
        (linesOf pa sp.n).filterMap fun ln =>
          if !writes && !fresh && leafMT leaf == 0 && s.inL1 k.wv.core ln then none
          else some { h := if leafMT leaf = 0 then s.holderOf k.cl else none, line := ln, uncached := leafMT leaf == 2,
                      ck := leafCK leaf }
    | _ => []).eraseDups

/-- The lines that the translations of an access read (R412). -/
def State.walkUses (s : State) (k : Ctx) (rs : List LaneRes) : List Nat :=
  (rs.flatMap fun r => r.spans.flatMap fun sp =>
    match sp.place with
    | .phys _ _ _ => s.walkLines k.part (coreAgents k.wv.core) sp.va
    | _ => []).eraseDups

/-- The lines of an access that the memory controllers read: those that neither a cache of the requester nor another
holder nor the system cache supplies, and table entries that the system cache misses (R399, R412). -/
def State.lpddrReads (s : State) (writes : Bool) (us : List LineUse) (walks : List Nat) : List Nat :=
  (us.filter fun u => s.needsHome u.h writes u.line && s.homeReads u.line && !(writes && u.h.isNone)).map (·.line) ++
  walks.filter fun ln => s.homeReads ln

/-- What an access takes up at the home before it is made: the walk's lines and its own are allocated and its read tokens
collected (R335, R336, R392, R412). -/
def State.takeLines (s : State) (p : Nat) (writes : Bool) (us : List LineUse) (walks : List Nat) : State :=
  let s1 := walks.foldl (fun st ln => if st.homeReads ln then st.sysAlloc (some p) ln else st) s
  us.foldl (fun st u => (st.seeCk u.ck u.line).beginLine u.h (some p) u.uncached writes u.line) s1

/-- An agent's access asks the regulators for the lines that it reads from LPDDR-6; once all are admitted it takes what it
needs, and the answer is true (R399 to R401). -/
def State.takeAdmitted (s : State) (who : Reader) (c : Option Charge) (p : Nat) (writes : Bool) (us : List LineUse)
    (walks : List Nat) : State × Bool :=
  let r := s.readLines who c (s.lpddrReads writes us walks)
  if r.2 then ((r.1.dropGranted who).takeLines p writes us walks, true) else (r.1, false)

/-- Requests for the tokens that lines in use wait for (R336). -/
def State.askTokens (s : State) (writes : Bool) (us : List LineUse) : State :=
  us.foldl (fun st u => match u.h with
    | some h => if st.tokensHold u.h writes u.line then st.requestTokens h u.line writes else st
    | none => st) s

/-- The pieces of an access that translate and are permitted, up to the first that faults: virtual address, length,
physical address and leaf; and that fault. -/
def State.xlateSpan (s : State) (p : Nat) (agents : List Nat) (kind : Acc) (core : Bool) (va n : Nat) :
    List (Nat × Nat × Nat × Word64) × Option (Nat × Bool × Nat) :=
  (pieces (n + 1) va n).foldl (fun acc pc =>
    match acc.2 with
    | some _ => acc
    | none =>
      match s.access p agents kind core pc.1 pc.2 with
      | .fault c m => (acc.1, some (c, m, pc.1))
      | .ok pa leaf _ _ => (acc.1 ++ [(pc.1, pc.2, pa, leaf)], none)) ([], none)

/-- An access of an agent outside the clusters that has been translated: it waits for a grant, for tokens and for the
regulators, and the answer is false, or it takes what it needs of the lines (R336 to R338, R342, R399 to R401). -/
def State.peerBegin (s : State) (who : Reader) (h : Option Holder) (c : Charge) (p : Nat) (agents : List Nat) (writes : Bool)
    (xs : List (Nat × Nat × Nat × Word64)) : State × Bool :=
  let us := (xs.flatMap fun x =>
    if management x.2.2.1 || outbound x.2.2.1 then []
    else (linesOf x.2.2.1 x.2.1).map fun ln =>
      ({ h := if leafMT x.2.2.2 = 0 then h else none, line := ln, uncached := leafMT x.2.2.2 == 2, ck := leafCK x.2.2.2 } :
        LineUse)).eraseDups
  let walks := (xs.flatMap fun x => s.walkLines p agents x.1).eraseDups
  if xs.any fun x => s.grantHolds p none writes x.1 x.2.1 then (s, false)
  else if us.any fun u => s.tokensHold u.h writes u.line then (s.askTokens writes us, false)
  else s.takeAdmitted who (some c) p writes us walks

/-- A memory instruction meets what can make it wait in OPWAIT: locks and grants, tokens, which it asks for, and
regulators; else it takes what its access needs (R278, R309, R312, R336 to R338, R401). -/
def State.memBegin (s : State) (k : Ctx) (writes board fresh : Bool) (rs : List LaneRes) : Except State State :=
  if s.memBlocked k writes board rs then .error (s.opwait k)
  else
    let us := s.lineUses k writes fresh rs
    let walks := s.walkUses k rs
    if us.any fun u => s.tokensHold u.h writes u.line then .error ((s.askTokens writes us).opwait k)
    else
      let r := s.takeAdmitted (.frag k.w k.slot) (s.chargeOf k.wv.launch) k.part writes us walks
      if r.2 then .ok r.1 else .error (r.1.opwait k)

/-! ## Reading and writing -/

/-- The bytes of a report-card window span; beyond the entries written the manual states no value (log entry 11). -/
def State.cardBytes (s : State) (wv : Wave) (off n : Nat) : List Byte :=
  (List.range n).map fun i =>
    let o := off + i
    match wv.fregs.cards[o / 64]? with
    | some c => BitVec.ofNat 8 (field c.toNat (8 * (o % 64)) 8)
    | none => BitVec.ofNat 8 (Config.freeValue (s.freeCtr * 2 ^ 64 + 2 ^ 60 + o)).toNat

/-- What a wave's access reads in a span (R324, R330, R425); `fresh` bypasses the L1. -/
def State.spanRead (s : State) (k : Ctx) (fresh : Bool) (sp : Span) : List Byte :=
  match sp.place with
  | .phys pa leaf priv =>
    if outbound pa then
      (List.range sp.n).map fun i => if s.pcie.up then Config.outboundByte (pa + i) else 0xFF
    else if k.l.determ && !priv then s.readView k.wv pa sp.n
    else if fresh || leafMT leaf != 0 then s.readPA (s.holderOf k.cl) pa sp.n
    else s.readL1 k.wv.core (s.holderOf k.cl) pa sp.n
  | .scr c csa _ => match s.clusters[c]? with | some x => Memory.read x.scratch csa sp.n | none => List.replicate sp.n 0
  | .card off => s.cardBytes k.wv off sp.n

/-- What a lane reads. -/
def State.laneRead (s : State) (k : Ctx) (fresh : Bool) (r : LaneRes) : Nat :=
  ofBytes (r.spans.flatMap (s.spanRead k fresh))

/-- Writes scratch bytes of a cluster and clears the poison of words written whole (R442). -/
def State.writeScratch (s : State) (c csa : Nat) (bs : List Byte) : State :=
  s.setCluster c fun x =>
    { x with scratch := Memory.write x.scratch csa bs,
             spoison := x.spoison.filter fun w => !(decide (csa ≤ 8 * w) && decide (8 * w + 8 ≤ csa + bs.length)) }

/-- Writes the bytes of a span as the wave k (R324, R330, R338, R452). -/
def State.spanWrite (s : State) (k : Ctx) (sp : Span) (bs : List Byte) : State :=
  match sp.place with
  | .phys pa leaf priv =>
    if k.l.determ && !priv && !outbound pa then
      let ck := if leafCK leaf then some (leafCKD leaf) else none
      let ops := (List.range bs.length).map fun i => LayerOp.store (pa + i) (sp.va + i) ck (bs.getD i 0)
      s.setWave k.w fun v => { v with layer := v.layer ++ ops }
    else
      let granted := s.underGrant k.part k.cl true sp.va bs.length
      (s.storeAt k.part (s.holderOf k.cl) (s.chargeOf k.wv.launch) (some k.w) granted leaf pa bs).updateL1 k.wv.core pa bs
  | .scr c csa _ => s.writeScratch c csa bs
  | .card _ => s

/-- Writes a lane's value over its spans. -/
def State.laneWrite (s : State) (k : Ctx) (r : LaneRes) (v : Nat) : State :=
  (r.spans.foldl (fun (a : State × Nat) sp => (a.1.spanWrite k sp (bytesOf sp.n a.2), a.2 / 2 ^ (8 * sp.n))) (s, v)).1

/-- Clears the poison of lines and scratch words that the stores of one instruction cover together (R180, R341). -/
def State.clearCovered (s : State) (rs : List LaneRes) : State :=
  if s.poison.isEmpty && s.clusters.all (fun c => c.spoison.isEmpty) then s
  else
    let s1 := { s with poison := s.poison.filter fun ln => coverCount rs Span.pa? 64 ln != 64 }
    { s1 with clusters := (List.range s1.clusters.length).zip s1.clusters |>.map fun c =>
        { c.2 with spoison := c.2.spoison.filter fun w => coverCount rs (Span.csa? c.1) 8 w != 8 } }

/-! ## Checked launches -/

/-- The words of a span that a checked launch records: global ones, and scratchpad ones of another member named with
G = 1 (R188, R327). -/
def Span.setWords (sp : Span) : List (Bool × Nat) :=
  match sp.place with
  | .phys _ _ priv => if priv then [] else (List.range ((sp.va + sp.n - 1) / 4 - sp.va / 4 + 1)).map fun i => (false, sp.va / 4 + i)
  | .scr c csa other =>
    if other then (List.range ((csa + sp.n - 1) / 4 - csa / 4 + 1)).map fun i => (true, csa / 4 + i + putAt c 21) else []
  | .card _ => []

/-- Records the accesses of an instruction in the set area; none when the area is full (R327, R329). -/
def State.recordAll (s : State) (k : Ctx) (kind : Acc) (rs : List LaneRes) : Option State :=
  if !k.l.checked then some s
  else
    let kd := if kind == .read then 0 else if kind == .write then 1 else 2
    rs.foldl (fun acc r => r.spans.foldl (fun acc2 sp =>
      sp.setWords.foldl (fun acc3 w => match acc3 with
        | none => none
        | some st => st.recordAccess k.w w.1 w.2 kd r.lane k.ioff) acc2) acc) (some s)

/-- The trap of the races that an epoch's end finds (R328). -/
def State.raceTrap (s : State) (k : Ctx) (i : Instr) (ps : List (SetEntry × SetEntry)) : Trap :=
  let lanes := maskOf fun l => ps.any fun p => p.1.lane == l
  { cause := 0x0B, lanes := lanes, first := lowestLane lanes, multi := false, count := 0, pc := k.fr.pc,
    inst := i.baseWord, cards := s.raceCards k.wv ps }

/-- The epoch after a synchronisation point starts, unless the workgroup is held by a serialised one (R325, R329). -/
def State.syncDone (s : State) (w : Nat) : State :=
  match s.waves[w]? with
  | none => s
  | some v =>
    match s.launchOf v with
    | none => s
    | some l =>
      if !l.checked then s
      else match l.serial with
      | some (key, _) => if key = v.wgKey then s.openEpoch w else s
      | none => s.openEpoch w

/-- A synchronisation point of a checked launch: the races of the ending epoch trap before it takes effect; else the
epoch ends.  Where a later wave in work-identifier order has ended its epoch of a pair at this very time, this one ends
its own at a later time (R325, R328; log entry 27). -/
def State.syncBegin (s : State) (k : Ctx) (i : Instr) : Except State State :=
  if !k.l.checked then .ok s
  else if s.raceTie k.w then .error (s.opwait k)
  else match s.racePairs k.w with
  | [] => .ok (s.closeEpoch k.w)
  | ps =>
    let t := s.raceTrap k i ps
    let s1 := s.setWave k.w fun v => { v with raceSeen := v.raceSeen ++ ps }
    .error (s1.takeTrap k.w k.slot t)

/-- An acquire's synchronisation point: the epoch that its accesses open; it waits where the workgroup is held (R325,
R329). -/
def State.syncOpen (s : State) (k : Ctx) (i : Instr) : Except State State :=
  match s.syncBegin k i with
  | .error t => .error t
  | .ok s1 =>
    let s2 := s1.syncDone k.w
    let held := match s2.waves[k.w]? with | some v => k.l.checked && !v.epochOpen | none => false
    if held then .error (s1.opwait k) else .ok s2

/-- A synchronisation point with an immediate effect. -/
def State.syncPoint (s : State) (k : Ctx) (i : Instr) (f : State → State) : State :=
  match s.syncBegin k i with
  | .error t => t
  | .ok s1 => (f s1).syncDone k.w

/-- R329: an access meets a full set area.  The workgroup is serialised; once no other workgroup of the launch has an
epoch open, the waiting wave's entries are compared and its stretch without records begins. -/
def State.serialise (s : State) (k : Ctx) (i : Instr) : State :=
  let key := k.wv.wgKey
  match k.l.serial with
  | none => (s.setLaunch k.wv.launch fun x => { x with serial := some (key, false) }).opwait k
  | some (key2, _) =>
    if key2 ≠ key then s.opwait k
    else if s.waves.any fun v => v.launch == k.wv.launch && v.wgKey != key && v.status == .resident && v.epochOpen then s.opwait k
    else match s.syncBegin k i with
    | .error t => t
    | .ok s1 => (((s1.setLaunch k.wv.launch fun x => { x with serial := some (key, true) }).openEpoch k.w)).opwait k

/-- R329 step 5: the serialised workgroup reaches its barrier, or ends: its entries go, and held workgroups start their
next epochs. -/
def State.unserialise (s : State) (l key : Nat) : State :=
  match s.launches[l]? with
  | none => s
  | some x =>
    match x.serial with
    | some (key2, _) =>
      if key2 ≠ key then s
      else
        let mine := fun (e : SetEntry) => match s.waves[e.wave]? with | some v => v.wgKey == key | none => false
        let s1 := s.setLaunch l fun y => { y with serial := none, sets := y.sets.filter fun e => !mine e }
        let waits := fun (f : Option Frag) => match f with
          | some g => (match g.st with | .barwait _ => true | .unit _ _ => true | _ => false)
          | none => false
        (List.range s1.waves.length).foldl (fun st w =>
          match st.waves[w]? with
          | some v =>
            if v.launch == l && v.status == .resident && !v.epochOpen && !waits v.frag0 && !waits v.frag1 then st.openEpoch w else st
          | none => st) s1
    | none => s

/-! ## Scopes -/

/-- The scope a launch performs: device or wider in a checked launch (R326). -/
def Ctx.scope (k : Ctx) (code : Nat) : Nat := if k.l.checked then max code 3 else code
/-- An acquire at gang scope or wider drops the core's L1 (R324). -/
def State.acquire (s : State) (k : Ctx) (code : Nat) : State := if 2 ≤ k.scope code then s.invalidateL1 k.wv.core else s
/-- R334: system and recovery scope are barred in a deterministic launch. -/
def Ctx.scopeBarred (k : Ctx) (code : Nat) : Bool := k.l.determ && 4 ≤ code

end Sys2Proof.Machine
end

