-- ==== Sys2Proof/Machine/LoadStore.lean ====
section
/-!
DEFINITION. Loads and stores (07 R176 to R188), with the private write buffer of
deterministic launches (11 R333).
-/

namespace Sys2Proof.Machine

/-- Bytes of an element of the Wid table (R88). -/
def widSize (dt : BitVec 3) : Nat :=
  if dt.toNat ≤ 1 then 1 else if dt.toNat ≤ 3 then 2 else if dt.toNat = 4 then 4 else if dt.toNat = 5 then 8 else 16
/-- A loaded value as the destination holds it, in b bits (R185). -/
def widExtend (dt : BitVec 3) (b v : Nat) : Nat :=
  if dt = 1 then wrap b (sgn 8 v) else if dt = 3 then wrap b (sgn 16 v) else v

/-- The three spaces of MAJ 0x10 to 0x12. -/
inductive MemSpace where
  | global | scratch | uniform
  deriving DecidableEq, Repr

/-! ## Addresses -/

/-- The address A of a lane: an S register or LIT, a V pair for global, one V register for scratchpad (R176). -/
def Ctx.addrOf (k : Ctx) (lit : Option Word64) (pair : Bool) (f : BitVec 8) (lane : Nat) : Nat :=
  if OpField.isV f then k.vgroup f.toNat (if pair then 2 else 1) lane
  else if OpField.isS f then k.svalue f
  else litNat lit % 2 ^ 64
/-- A scalar data source: an S register or LIT (R82, R176). -/
def Ctx.litS (k : Ctx) (lit : Option Word64) (f : BitVec 8) : Nat :=
  if OpField.isS f then k.svalue f else litNat lit % 2 ^ 64
/-- The signed byte index B. -/
def Ctx.indexOf (k : Ctx) (lit : Option Word64) (f : BitVec 8) (lane : Nat) : Int :=
  if OpField.isNone f then 0
  else if OpField.isV f then sgn 32 (k.vlane f.toNat lane)
  else if OpField.isS f then sgn 32 (k.svalue f)
  else sgn 32 (litNat lit)
/-- The address of a lane of a format-M word whose offset counts `unit` bytes (R185). -/
def Ctx.laneAddr (k : Ctx) (f : MWord) (pair : Bool) (unit lane : Nat) : Nat :=
  wrap 64 ((k.addrOf f.lit pair f.a lane : Int) + k.indexOf f.lit f.b lane + sgn 10 f.off.toNat * (unit : Int))

/-- The registers that the address of a format-M word reads. -/
def Ctx.addrUses (k : Ctx) (f : MWord) (pair : Bool) (m : Word32) : List RegUse :=
  k.use f.a f.actl (if pair then 2 else 1) m ++ k.use f.b f.bctl 1 m

/-! ## Buffers of deterministic launches -/

/-- The operations that a lane's access would buffer, for sizing: none for one that fails check 1 or is not buffered. -/
def LaneRes.sizingOps (r : LaneRes) (atomic : Bool) (n : Nat) : List LayerOp :=
  let out := r.spans.any fun sp => match sp.place with | .phys pa _ priv => priv || outbound pa | _ => true
  if out || field r.addr 40 16 == 0xFFFF || (match r.bad with | some (c, _, _) => c == 0x08 | none => false) then []
  else if atomic then [.atomic .xchg false 0 r.addr none n 0 0]
  else (List.range n).map fun i => .store 0 (r.addr + i) none 0

/-- Operations beside those of its layer still fit the write buffer of a wave: its workgroup's part, and the gang's in all
(R333; log entry 28). -/
def State.bufferFits (s : State) (k : Ctx) (ops : List LayerOp) : Bool :=
  let own := match s.waves[k.w]? with | some v => v.layer | none => []
  let more := bufferNeed (own ++ ops) - bufferNeed own
  decide (s.wgNeed k.wv.launch k.l k.wv.wgKey + more ≤ k.l.num 1408 32) &&
  decide (s.gangNeed k.wv.launch k.l k.wv.gang + more ≤ k.l.wgCount * k.l.num 1408 32)

/-- R333: lanes whose entries do not fit the write buffer fail check 1. -/
def State.checkBuffer (s : State) (k : Ctx) (kind : Acc) (n : Nat) (rs : List LaneRes) : List LaneRes :=
  if !k.l.determ || kind == .read then rs
  else
    (rs.foldl (fun (a : List LayerOp × List LaneRes) r =>
      let ops := r.sizingOps (kind == .atomic) n
      if ops.isEmpty then (a.1, a.2 ++ [r])
      else if s.bufferFits k (a.1 ++ ops) then (a.1 ++ ops, a.2 ++ [r])
      else (a.1, a.2 ++ [LaneRes.fail r.lane r.addr 0x08 false true])) ([], [])).2

/-! ## The shared body -/

/-- Resolves the lanes of an instruction and makes the checks of R180. -/
def State.resolve (s : State) (k : Ctx) (space : MemSpace) (kind : Acc) (win : Windows) (n : Nat) (lanes : List Nat)
    (addr : Nat → Nat) : List LaneRes :=
  let rs := match space with
    | .scratch => lanes.map fun lane => s.laneScratch k n lane (addr lane)
    | _ => s.checkBuffer k kind n (lanes.map fun lane => s.laneGlobal k kind win n lane (addr lane))
  s.checkPoison kind rs

/-- The data of some load lane is uncorrectable, and no lane fails another check: the trap comes with the data. -/
def onlyPoison (rs : List LaneRes) : Bool :=
  rs.all fun r => match r.bad with | some (c, _, _) => c == 0x0E && !r.spans.isEmpty | none => true

/-- The wave of an issue with what the state has given it meanwhile: its epoch, its layer, and the wake of its other fragment
(R278, R325). -/
def State.keepEpoch (s : State) (k : Ctx) (wv : Wave) : Wave :=
  match s.waves[k.w]? with
  | some v =>
    { wv with epoch := v.epoch, epochStart := v.epochStart, epochOpen := v.epochOpen, raceSeen := v.raceSeen,
              layer := v.layer }.setFrag (1 - k.slot) (v.frag (1 - k.slot))
  | none => wv

/-- A load after the register checks: `wv` is the wave with its last-read sources freed (R182 to R187). -/
def State.loadBody (s : State) (k : Ctx) (i : Instr) (space : MemSpace) (acq : Option Nat) (rs : List LaneRes) (wv : Wave)
    (result : (Nat → Nat) → List (Nat × Word32 × Lanes) × Option (Nat × Word64)) : State :=
  let uniform := space == .uniform
  let trap := s.laneTrap k i .read uniform 0 rs
  let late := match trap with
    | some t => if onlyPoison rs then some (t.pc, t.regs s.now) else none
    | none => none
  match trap, late with
  | some t, none => s.takeTrap k.w k.slot t
  | _, _ =>
    let fresh := match acq with | some c => 2 ≤ k.scope c | none => false
    match s.memBegin k false (!uniform) fresh rs with
    | .error t => t
    | .ok s0 =>
      let go := fun (st : State) =>
        let vals := fun (lane : Nat) => match rs.find? fun r => r.lane == lane with
          | some r => st.laneRead k fresh r
          | none => 0
        let out := result vals
        let w0 := st.keepEpoch k wv
        let w2 := if rs.isEmpty then w0 else w0.later out.1 out.2 0 late
        let st1 := match acq with | some c => st.acquire k c | none => st
        st1.commit k w2 i.len
      let begun : Except State State := match acq with | none => .ok s0 | some _ => s0.syncOpen k i
      match begun with
      | .error t => t
      | .ok s1 =>
        match s1.recordAll k .read rs with
        | none => s.serialise k i
        | some s2 => go s2

/-- A store after the register checks (R182 to R187, R200). -/
def State.storeBody (s : State) (k : Ctx) (i : Instr) (space : MemSpace) (rel : Option Nat) (rs : List LaneRes) (wv : Wave)
    (value : Nat → Nat) : State :=
  let uniform := space == .uniform
  match s.laneTrap k i .write uniform 0 rs with
  | some t => s.takeTrap k.w k.slot t
  | none =>
    if rel == some 5 && s.ckOutstanding k.w then s.opwait k
    else match s.memBegin k true true true rs with
    | .error t => t
    | .ok s0 =>
      match s0.recordAll k .write rs with
      | none => s.serialise k i
      | some s1 =>
        let go := fun (st : State) =>
          let w0 := st.keepEpoch k wv
          let st1 := (st.commit k w0 i.len).clearCovered rs
          rs.foldl (fun a r => a.laneWrite k r (value r.lane)) st1
        match rel with
        | none => go s1
        | some _ => s1.syncPoint k i go

/-- A load instruction (R185, R187).  An ordered form at a scope that a deterministic launch bars traps whatever its mask, as
the instruction and not a lane is barred (R334; log entry 28). -/
def State.loadOp (s : State) (i : Instr) (f : MWord) (space : MemSpace) (acq : Bool) : Host.Outcome State Fault Refusal :=
  simt s fun k =>
    let n := widSize f.dt
    let sc := if acq then some (mod3 f.mod) else none
    let barred := match sc with | some c => k.scopeBarred c | none => false
    if space = .uniform then
      let us := k.addrUses f false 0
      s.issueRegs k i us (k.dst f.d 1 0) fun wv =>
        if barred then s.trapWhole k 0x0A i
        else
          let rs := s.resolve k space .read { priv := false, card := !acq } n [0] fun lane => k.laneAddr f false n lane
          s.loadBody k i space sc rs wv fun vals =>
            ([], some (k.sname (f.d.toNat - 128), BitVec.ofNat 64 (widExtend f.dt 64 (vals 0))))
    else
      let m := k.active f.pk (modNP f.mod)
      let g := widRegs f.dt
      let pair := space == .global
      s.issueRegs k i (k.addrUses f pair m) (k.dst f.d g m) fun wv =>
        if barred then s.trapWhole k 0x0A i
        else
          let rs := s.resolve k space .read { priv := true, card := !acq } n (lanesOf m) fun lane => k.laneAddr f pair n lane
          s.loadBody k i space sc rs wv fun vals =>
            let vs := laneVals m 0 fun lane => widExtend f.dt 32 (vals lane)
            ((k.vnames f.d g).zipIdx.map fun p =>
              (p.1, m, lanesFn fun lane => BitVec.ofNat 32 (vs.getD lane 0 >>> (32 * p.2))), none)

/-- A store instruction (R185 to R187). -/
def State.storeOp (s : State) (i : Instr) (f : MWord) (space : MemSpace) (rel : Bool) : Host.Outcome State Fault Refusal :=
  simt s fun k =>
    let n := widSize f.dt
    let sc := if rel then some (mod3 f.mod) else none
    let barred := match sc with | some c => k.scopeBarred c | none => false
    if space = .uniform then
      s.issueRegs k i (k.addrUses f false 0 ++ k.use f.d 0 1 0) [] fun wv =>
        if barred then s.trapWhole k 0x0A i
        else
          let rs := s.resolve k space .write { priv := false, card := false } n [0] fun lane => k.laneAddr f false n lane
          s.storeBody k i space sc rs wv fun _ => k.litS f.lit f.d
    else
      let m := k.active f.pk (modNP f.mod)
      let g := widRegs f.dt
      let pair := space == .global
      s.issueRegs k i (k.addrUses f pair m ++ k.use f.d 0 g m) [] fun wv =>
        if barred then s.trapWhole k 0x0A i
        else
          let rs := s.resolve k space .write { priv := true, card := false } n (lanesOf m) fun lane => k.laneAddr f pair n lane
          s.storeBody k i space sc rs wv fun lane => k.vgroup f.d.toNat g lane

/-! ## MAJ 0x10 to 0x12 -/

/-- `ld.g`. -/
def execLdG (f : MWord) (s : State) : Host.Outcome State Fault Refusal := s.loadOp (.ldG f) f .global false
/-- `st.g`. -/
def execStG (f : MWord) (s : State) : Host.Outcome State Fault Refusal := s.storeOp (.stG f) f .global false
/-- `ld.g.acq`. -/
def execLdGAcq (f : MWord) (s : State) : Host.Outcome State Fault Refusal := s.loadOp (.ldGAcq f) f .global true
/-- `st.g.rel`. -/
def execStGRel (f : MWord) (s : State) : Host.Outcome State Fault Refusal := s.storeOp (.stGRel f) f .global true
/-- `ld.s`. -/
def execLdS (f : MWord) (s : State) : Host.Outcome State Fault Refusal := s.loadOp (.ldS f) f .scratch false
/-- `st.s`. -/
def execStS (f : MWord) (s : State) : Host.Outcome State Fault Refusal := s.storeOp (.stS f) f .scratch false
/-- `ld.s.acq`. -/
def execLdSAcq (f : MWord) (s : State) : Host.Outcome State Fault Refusal := s.loadOp (.ldSAcq f) f .scratch true
/-- `st.s.rel`. -/
def execStSRel (f : MWord) (s : State) : Host.Outcome State Fault Refusal := s.storeOp (.stSRel f) f .scratch true
/-- `ld.u`. -/
def execLdU (f : MWord) (s : State) : Host.Outcome State Fault Refusal := s.loadOp (.ldU f) f .uniform false
/-- `st.u`. -/
def execStU (f : MWord) (s : State) : Host.Outcome State Fault Refusal := s.storeOp (.stU f) f .uniform false
/-- `ld.u.acq`. -/
def execLdUAcq (f : MWord) (s : State) : Host.Outcome State Fault Refusal := s.loadOp (.ldUAcq f) f .uniform true
/-- `st.u.rel`. -/
def execStURel (f : MWord) (s : State) : Host.Outcome State Fault Refusal := s.storeOp (.stURel f) f .uniform true

end Sys2Proof.Machine
end

