-- ==== Sys2Proof/Machine/Atomics.lean ====
section
/-!
DEFINITION. Atomics (07 R201 to R205) and fences (07 R198 to R200).
-/

namespace Sys2Proof.Machine

/-- The acquire and the release part of an order (R204). -/
def ordAcq (o : AtomOrder) : Bool := o == .acq || o == .ar
def ordRel (o : AtomOrder) : Bool := o == .rel || o == .ar

/-- One lane's operation on the element it addresses: the state after it and the old value (R202, R203, R205). -/
def State.atomLane (s : State) (k : Ctx) (kind : AtomKind) (sg : Bool) (n : Nat) (r : LaneRes) (x c : Nat) : State × Nat :=
  let kv : Ctx := { k with wv := (s.waves[k.w]?).getD k.wv }
  let old := s.laneRead kv true r
  let (new, wr) := atomNew kind sg n old x c
  match r.spans with
  | [{ place := .phys pa leaf false, va := va, n := _ }] =>
    if k.l.determ then
      let ck := if leafCK leaf then some (leafCKD leaf) else none
      let op := LayerOp.atomic kind sg pa va ck n (BitVec.ofNat 64 x) (BitVec.ofNat 64 c)
      (s.setWave k.w fun v => { v with layer := v.layer ++ [op] }, old)
    else if wr then (s.laneWrite kv r new, old) else (s.updateL1 k.wv.core pa (bytesOf n old), old)
  | _ => if wr then (s.laneWrite kv r new, old) else (s, old)

/-- The lanes' operations in ascending order, with the old values. -/
def State.atomLanes (s : State) (k : Ctx) (kind : AtomKind) (sg : Bool) (n : Nat) (x c : Nat → Nat) :
    List LaneRes → State × List (Nat × Nat)
  | [] => (s, [])
  | r :: rs =>
    let a := s.atomLane k kind sg n r (x r.lane) (c r.lane)
    let b := a.1.atomLanes k kind sg n x c rs
    (b.1, (r.lane, a.2) :: b.2)

/-- An atomic after the register checks. -/
def State.atomBody (s : State) (k : Ctx) (i : Instr) (space : MemSpace) (o : AtomOrder) (sc : Nat) (kind : AtomKind)
    (sg : Bool) (n : Nat) (rs : List LaneRes) (wv : Wave) (x c : Nat → Nat)
    (result : (Nat → Nat) → List (Nat × Word32 × Lanes) × Option (Nat × Word64)) : State :=
  match s.laneTrap k i .atomic (space == .uniform) 0 rs with
  | some t => s.takeTrap k.w k.slot t
  | none =>
    if ordRel o && sc == 5 && s.ckOutstanding k.w then s.opwait k
    else match s.memBegin k true true true rs with
    | .error t => t
    | .ok s0 =>
      let go := fun (st : State) =>
        let a := (st.commit k (st.keepEpoch k wv) i.len).atomLanes k kind sg n x c rs
        let out := result fun lane => (a.2.lookup lane).getD 0
        let st2 := if ordAcq o then a.1.acquire k sc else a.1
        if rs.isEmpty || (out.1.isEmpty && out.2.isNone) then st2
        else st2.setWave k.w fun v => v.later out.1 out.2 0 none
      let begun : Except State State := if o == .acq then s0.syncOpen k i else .ok s0
      match begun with
      | .error t => t
      | .ok s1 =>
        match s1.recordAll k .atomic rs with
        | none => s.serialise k i
        | some s2 =>
          match o with
          | .relaxed | .acq => go s2
          | .rel | .ar => s2.syncPoint k i go

/-- An atomic instruction. -/
def State.atomOp (s : State) (i : Instr) (sp : AtomSpace) (o : AtomOrder) (f : RWord) (kind : AtomKind) :
    Host.Outcome State Fault Refusal :=
  simt s fun k =>
    let sg := intSigned f.dt
    let n := intBits f.dt / 8
    let g := intBits f.dt / 32
    let sc := mod3 f.mod
    let barred := o != .relaxed && k.scopeBarred sc
    let flt := kind == .fadd
    if sp = .scalar then
      let src := fun (q : BitVec 8) =>
        if OpField.isNone q then 0
        else if flt then k.fltSrc s.now f.lit 0 q 0 else k.scalSrc s.now f.lit (intWidth f.dt) q
      s.issueRegs k i (k.use f.a f.actl 1 0 ++ k.use f.b f.bctl 1 0 ++ k.use f.c f.cctl 1 0) (k.dst f.d 1 0) fun wv =>
        if barred then s.trapWhole k 0x0A i
        else
          let rs := s.resolve k .uniform .atomic { priv := false, card := false } n [0] fun _ => k.addrOf f.lit false f.a 0
          s.atomBody k i .uniform o sc kind sg n rs wv (fun _ => src f.b) (fun _ => src f.c) fun olds =>
            ([], if OpField.isS f.d then some (k.sname (f.d.toNat - 128), BitVec.ofNat 64 (if flt then olds 0 else scalExt f.dt (olds 0))) else none)
    else
      let m := k.active f.pk (modNP f.mod)
      let pair := sp == .global
      let space := if pair then MemSpace.global else MemSpace.scratch
      let src := fun (q : BitVec 8) (lane : Nat) =>
        if OpField.isNone q then 0
        else if flt then k.fltSrc s.now f.lit 0 q lane else k.intSrc s.now f.lit f.dt q lane
      let us := k.use f.a f.actl (if pair then 2 else 1) m ++ k.use f.b f.bctl g m ++ k.use f.c f.cctl g m
      s.issueRegs k i us (k.dst f.d g m) fun wv =>
        if barred then s.trapWhole k 0x0A i
        else
          let rs := s.resolve k space .atomic { priv := false, card := false } n (lanesOf m) fun lane => k.addrOf f.lit pair f.a lane
          s.atomBody k i space o sc kind sg n rs wv (src f.b) (src f.c) fun olds =>
            if OpField.isV f.d then
              let vs := laneVals m 0 olds
              ((k.vnames f.d g).zipIdx.map fun p =>
                (p.1, m, lanesFn fun lane => BitVec.ofNat 32 (vs.getD lane 0 >>> (32 * p.2))), none)
            else ([], none)

/-- `atom.add`. -/
def execAtomAdd (sp : AtomSpace) (o : AtomOrder) (f : RWord) (s : State) : Host.Outcome State Fault Refusal :=
  s.atomOp (.atomAdd sp o f) sp o f .add
/-- `atom.min`. -/
def execAtomMin (sp : AtomSpace) (o : AtomOrder) (f : RWord) (s : State) : Host.Outcome State Fault Refusal :=
  s.atomOp (.atomMin sp o f) sp o f .min
/-- `atom.max`. -/
def execAtomMax (sp : AtomSpace) (o : AtomOrder) (f : RWord) (s : State) : Host.Outcome State Fault Refusal :=
  s.atomOp (.atomMax sp o f) sp o f .max
/-- `atom.and`. -/
def execAtomAnd (sp : AtomSpace) (o : AtomOrder) (f : RWord) (s : State) : Host.Outcome State Fault Refusal :=
  s.atomOp (.atomAnd sp o f) sp o f .and
/-- `atom.or`. -/
def execAtomOr (sp : AtomSpace) (o : AtomOrder) (f : RWord) (s : State) : Host.Outcome State Fault Refusal :=
  s.atomOp (.atomOr sp o f) sp o f .or
/-- `atom.xor`. -/
def execAtomXor (sp : AtomSpace) (o : AtomOrder) (f : RWord) (s : State) : Host.Outcome State Fault Refusal :=
  s.atomOp (.atomXor sp o f) sp o f .xor
/-- `atom.xchg`. -/
def execAtomXchg (sp : AtomSpace) (o : AtomOrder) (f : RWord) (s : State) : Host.Outcome State Fault Refusal :=
  s.atomOp (.atomXchg sp o f) sp o f .xchg
/-- `atom.cas`. -/
def execAtomCas (sp : AtomSpace) (o : AtomOrder) (f : RWord) (s : State) : Host.Outcome State Fault Refusal :=
  s.atomOp (.atomCas sp o f) sp o f .cas
/-- `atom.fadd`. -/
def execAtomFadd (sp : AtomSpace) (o : AtomOrder) (f : RWord) (s : State) : Host.Outcome State Fault Refusal :=
  s.atomOp (.atomFadd sp o f) sp o f .fadd
/-- `atom.maxidx`. -/
def execAtomMaxidx (sp : AtomSpace) (o : AtomOrder) (f : RWord) (s : State) : Host.Outcome State Fault Refusal :=
  s.atomOp (.atomMaxidx sp o f) sp o f .maxidx

/-! ## Fences -/

/-- A fence (R198 to R200, R324, R325, R334). -/
def State.fenceOp (s : State) (i : Instr) (f : RWord) (acq rel : Bool) : Host.Outcome State Fault Refusal :=
  simt s fun k =>
    let sc := mod3 f.mod
    if k.scopeBarred sc then s.trapWhole k 0x0A i
    else if rel && sc == 5 && s.ckOutstanding k.w then s.opwait k
    else s.syncPoint k i fun st =>
      let st1 := if acq then st.acquire k sc else st
      st1.commit k (st1.keepEpoch k k.wv) i.len

/-- `fence.acq`. -/
def execFenceAcq (f : RWord) (s : State) : Host.Outcome State Fault Refusal := s.fenceOp (.fenceAcq f) f true false
/-- `fence.rel`. -/
def execFenceRel (f : RWord) (s : State) : Host.Outcome State Fault Refusal := s.fenceOp (.fenceRel f) f false true
/-- `fence.ar`. -/
def execFenceAr (f : RWord) (s : State) : Host.Outcome State Fault Refusal := s.fenceOp (.fenceAr f) f true true

end Sys2Proof.Machine
end

