-- ==== Sys2Proof/Machine/Barrier.lean ====
section
/-!
DEFINITION. Barriers (07 R206 to R209): arrival, completion, the merges and conflicts of deterministic launches
(11 R331, R332), and the retirement of a wave (09 R290; 11 R328), which counts as an arrival.
-/

namespace Sys2Proof.Machine

/-- The word of a barrier: `bar` or `gbar` with every field as R206 fixes it. -/
def barInstr (gang : Bool) : Instr :=
  let f : RWord := { dt := 0, u := true, lit := none, pk := 0, d := 255, a := 255, actl := 0, b := 255, bctl := 0,
                     c := 255, cctl := 0, mod := 0 }
  if gang then .gbar f else .bar f

/-- A gang of one workgroup has one kind of barrier (R206). -/
def Launch.barKind (l : Launch) (gang : Bool) : Bool := gang && 1 < l.wgCount

/-- A fragment waits at a barrier of a kind; a gang of one workgroup does not tell `gbar` from `bar`. -/
def Frag.atBar (l : Launch) (kind : Bool) (f : Frag) : Bool :=
  match f.st with | .barwait g => l.barKind g == kind | _ => false

/-- A wave has arrived at a barrier of a kind (R207). -/
def Wave.arrived (l : Launch) (kind : Bool) (v : Wave) : Bool :=
  match v.status with
  | .retired => true
  | .recessed => false
  | .resident =>
    let fs := [v.frag0, v.frag1].filterMap id
    fs.any (Frag.atBar l kind) && fs.all fun f =>
      Frag.atBar l kind f || (match f.st with | .splitwait _ => true | _ => false)

/-- The waves of a barrier's set: of workgroup m of gang g, or of the whole gang. -/
def State.barSet (s : State) (li g m : Nat) (kind : Bool) : List Nat :=
  (List.range s.waves.length).filter fun w =>
    match s.waves[w]? with | some v => v.launch == li && v.gang == g && (kind || v.wg == m) | none => false

/-- The live waves of a position of a workgroup, or of a whole workgroup. -/
def State.liveWaves (s : State) (li g m : Nat) (i : Option Nat) : List Nat :=
  (List.range s.waves.length).filter fun w =>
    match s.waves[w]? with
    | some v => v.launch == li && v.gang == g && v.wg == m && (match i with | some x => v.widx == x | none => true) &&
        v.status == .resident
    | none => false

/-- The waves that still have to take DET_CONFLICT at this barrier, each with the byte's address and the other WID
(R332). -/
def State.barConflicts (s : State) (li g m : Nat) (kind : Bool) (l : Launch) : List (Nat × Nat × Nat) :=
  let ms := if kind then List.range l.wgCount else [m]
  let seen := fun (w : Nat) => match s.waves[w]? with | some v => v.detSeen | none => true
  let first := ms.flatMap fun mm =>
    (layerConflicts (s.waveUnits li g mm l)).flatMap fun c =>
      (s.liveWaves li g mm (some c.1)).map fun w => (w, c.2.2, l.waveWid g mm c.2.1)
  let wgUnit := fun (mm : Nat) => (l.wgLayers.lookup (4 * g + mm)).getD [] ++ (s.waveUnits li g mm l).flatten
  let second := if !kind then [] else
    (layerConflicts (ms.map wgUnit)).flatMap fun c =>
      (s.liveWaves li g c.1 none).map fun w => (w, c.2.2, l.waveWid g c.2.1 0)
  (first ++ second).filter fun x => !seen x.1

/-- DET_CONFLICT of one wave at the barrier: its handler fragment, else its first waiting one (R332). -/
def State.detTrap (s : State) (w addr other : Nat) : State :=
  match s.waves[w]? with
  | none => s
  | some v =>
    if v.detSeen then s
    else
      let atBar := fun (slot : Nat) => match v.frag slot with
        | some f => (match f.st with | .barwait _ => true | _ => false) | none => false
      let slot := if v.hmode then v.hslot else if atBar 0 then 0 else 1
      let gang := match v.frag slot with | some f => (match f.st with | .barwait x => x | _ => false) | none => false
      match s.ctxOf w slot with
      | none => s
      | some k =>
        let s1 := s.takeTrap w slot (k.whole s 0x0C (barInstr gang).baseWord addr 1 other)
        s1.setWave w fun x => { x with detSeen := true }

/-- Merges at the completion of `bar` and `gbar` (R331). -/
def State.barMerge (s : State) (li g m : Nat) (kind : Bool) (l : Launch) : State :=
  let ms := if kind then List.range l.wgCount else [m]
  let base := Memory.get l.snap
  let gl := (l.gangLayers.lookup g).getD []
  let wgs := ms.map fun mm =>
    let wl := (l.wgLayers.lookup (4 * g + mm)).getD []
    (mm, wl ++ mergeUnits base (gl ++ wl) (s.waveUnits li g mm l) [])
  let inSet := fun (v : Wave) => v.launch == li && v.gang == g && (kind || v.wg == m)
  let s1 : State := { s with waves := s.waves.map fun v => if inSet v then { v with layer := [] } else v }
  if kind then
    s1.setLaunch li fun x =>
      { x with wgLayers := x.wgLayers.filter fun e => e.1 / 4 != g,
               gangLayers := assocSet x.gangLayers g (gl ++ mergeUnits base gl (wgs.map (·.2)) []) }
  else
    wgs.foldl (fun st e => st.setLaunch li fun x => { x with wgLayers := assocSet x.wgLayers (4 * g + e.1) e.2 }) s1

/-- The completion of a barrier instance: waiting fragments go on, with a release and an acquire (R207, R208, R324),
and, in a checked launch, new epochs (R325, R329). -/
def State.barRelease (s : State) (li g m : Nat) (kind : Bool) (l : Launch) : State :=
  let set := s.barSet li g m kind
  let up := fun (f : Frag) => if f.atBar l kind then f.after 8 else f
  let s1 := set.foldl (fun st w => st.setWave w fun v =>
    { v with frag0 := v.frag0.map up, frag1 := v.frag1.map up, detSeen := false }) s
  let s2 := if kind || l.checked then
      set.foldl (fun st w => match st.waves[w]? with
        | some v => if v.status == .resident then st.invalidateL1 v.core else st
        | none => st) s1
    else s1
  if !l.checked then s2
  else
    let ms := if kind then List.range l.wgCount else [m]
    let s3 := ms.foldl (fun st mm => match l.serial with
      | some (key, true) => if key = 4 * g + mm then st.unserialise li key else st
      | _ => st) s2
    set.foldl (fun st w => match st.waves[w]? with
      | some v => if v.status == .resident && !v.epochOpen then st.syncDone w else st
      | none => st) s3

/-- Completes the barrier instance of a set when every wave of it has arrived (R207, R332). -/
def State.tryBarrier (s : State) (li g m : Nat) (kind : Bool) : State :=
  match s.launches[li]? with
  | none => s
  | some l =>
    let vs := (s.barSet li g m kind).filterMap fun w => s.waves[w]?
    if vs.all (Wave.arrived l kind) && vs.any (fun v => v.status == .resident) then
      let cs := if l.determ then s.barConflicts li g m kind l else []
      match cs with
      | [] => (if l.determ then s.barMerge li g m kind l else s).barRelease li g m kind l
      | _ => cs.foldl (fun st c => st.detTrap c.1 c.2.1 c.2.2) s
    else s

/-- Both kinds of barrier that a change in a workgroup may complete. -/
def State.tryBarriers (s : State) (li g m : Nat) : State := (s.tryBarrier li g m false).tryBarrier li g m true

/-- The other fragment of the wave does not keep it from arriving at a barrier of the kind. -/
def Ctx.mateArrived (k : Ctx) (kind : Bool) : Bool :=
  match k.wv.frag (1 - k.slot) with
  | none => true
  | some g => g.atBar k.l kind || (match g.st with | .splitwait _ => true | _ => false)

/-- A barrier instruction: the fragment waits, and its wave arrives when the other fragment has (R207); in a checked
launch the arrival is the synchronisation point that ends the epoch (R325, R328). -/
def State.barOp (s : State) (gang : Bool) (i : Instr) : Host.Outcome State Fault Refusal :=
  simt s fun k =>
    let wait := fun (st : State) =>
      (st.modFrag k.w k.slot fun f => { f with st := .barwait gang }).tryBarriers k.wv.launch k.wv.gang k.wv.wg
    if k.mateArrived (k.l.barKind gang) then
      match s.syncBegin k i with
      | .error t => t
      | .ok s1 => wait s1
    else wait s

/-- `bar`. -/
def execBar (f : RWord) (s : State) : Host.Outcome State Fault Refusal := s.barOp false (.bar f)
/-- `gbar`. -/
def execGbar (f : RWord) (s : State) : Host.Outcome State Fault Refusal := s.barOp true (.gbar f)

/-- A fragment has arrived at the split: the wave may thereby arrive at the barrier where its other fragment waits
(R207). -/
def State.splitArrived (s : State) (w slot : Nat) : State :=
  match s.ctxOf w (1 - slot) with
  | none => s
  | some k =>
    match k.fr.st with
    | .barwait gang =>
      (match s.syncBegin k (barInstr gang) with
       | .error t => t
       | .ok s1 => s1.tryBarriers k.wv.launch k.wv.gang k.wv.wg)
    | _ => s

/-! ## Retirement of a wave -/

/-- The races that a retirement finds are reported to the job's owner, each with the report-card entry that a trap would
have written (R328; log entry 54). -/
def State.retireRaces (s : State) (w : Nat) (x : Launch) : State :=
  match s.waves[w]? with
  | none => s
  | some v =>
    if !x.checked then s
    else
      let ps := s.racePairs w
      let s1 := (s.raceCards v ps).foldl (fun st c => st.journal x.part v.cluster 0x0A c.toNat s.now) s
      let one := fun (st : State) (p : SetEntry × SetEntry) =>
        let other := match st.waves[p.2.wave]? with | some u => u.wid p.2.lane | none => 0
        st.raiseJob x.job 0 0x0B 0 x.entry (4 * p.1.word) other st.now
      ((ps.take 32).foldl one s1).closeEpoch w

/-- A wave retires (R290): its races are reported, its pending results arrive and are discarded, its resources go back,
and it counts as arrived at every later barrier. -/
def State.retireWave (s : State) (w : Nat) : State :=
  match s.waves[w]? with
  | none => s
  | some v =>
    match v.pend.findSome? (·.poison), s.launches[v.launch]? with
    | some (_, r), _ => s.containGang v.launch v.gang 0x0E v.cluster r.cards
    | none, none => s
    | none, some x =>
      let s1 := (s.retireRaces w x).endWave w
      let last := !s1.waves.any fun u => u.launch == v.launch && u.wgKey == v.wgKey && u.status != .retired
      let s2 := if last then s1.unserialise v.launch v.wgKey else s1
      (s2.tryBarriers v.launch v.gang v.wg).settle

/-- The wave of an issuing fragment retires with the state `wv`; where a later wave in work-identifier order has ended its
epoch of a pair at this very time, this one ends its own at a later time (R328; log entry 27). -/
def State.retireAt (s : State) (k : Ctx) (wv : Wave) : State :=
  if k.l.checked && s.raceTie k.w then s.opwait k else (s.setWave k.w fun _ => wv).retireWave k.w

end Sys2Proof.Machine
end

