-- ==== Sys2Proof/Machine/CacheOps.lean ====
section
/-!
DEFINITION. Prefetch and cache maintenance (07 R195 to R197; 11 R324, R335).
-/

namespace Sys2Proof.Machine

/-- The physical lines of [a, a + L) whose page translates, each with whether the launch may write the page (R196). -/
def State.maintLines (s : State) (k : Ctx) (a n : Nat) : List (Nat × Bool) :=
  (pieces (n + 1) a n).flatMap fun pc =>
    match s.xlate k.part (coreAgents k.wv.core) pc.1 with
    | .fault _ _ => []
    | .ok pa leaf _ _ =>
      if outbound pa then []
      else (linesOf pa pc.2).map fun ln => (ln, s.permitted k.part .write false leaf (64 * ln) 64)

/-- Cleaning at the device point: the cluster's dirty data is in the system cache (R196). -/
def State.cleanDev (s : State) (cl ln : Nat) : State :=
  let mine := fun (d : DirtyLine) => d.line == ln && decide (d.holder = Holder.cluster cl)
  let s1 : State := { s with dirty := s.dirty.filter fun d => !mine d }
  match s.dirty.find? mine with | some d => s1.writeBack ln d.charge | none => s1

/-- Writes a line from the system cache to memory; it stays there unless `drop` (R196). -/
def State.sysClean (s : State) (ln : Nat) (drop : Bool) : State :=
  let s1 : State := { s with sys := if drop then s.sys.filter fun e => e.line != ln
                                    else s.sys.map fun e => if e.line == ln then { e with dirty := false, charge := none } else e }
  match s.sys.find? fun e => e.line == ln && e.dirty with
  | some e => s1.tallyWrite ln e.charge
  | none => s1

/-- The cluster and the core give up a line whose dirty data has been cleaned. -/
def State.dropLine (s : State) (cl core ln : Nat) : State :=
  let s1 := s.evictLine (.cluster cl) ln
  { s1 with l1 := s1.l1.filter fun e => !(e.core == core && e.line == ln) }

/-- A maintenance instruction: `act` is applied to every line (R196, R197, R306, R443). -/
def State.maintOp (s : State) (i : Instr) (f : MWord) (act : State → Nat → Nat → Nat × Bool → State) :
    Host.Outcome State Fault Refusal :=
  simt s fun k =>
    let us := k.use f.a f.actl 1 0 ++ k.use f.b f.bctl 1 0 ++ k.use f.d 0 1 0
    s.issueRegs k i us [] fun wv =>
      let n := k.scalSrc s.now f.lit 64 f.d
      let a := k.laneAddr f false 64 0
      if 2 ^ 24 < n then s.trapWhole k 0x08 i
      else if n ≠ 0 ∧ (2 ^ 56 ≤ a ∨ 0xFFFE ≤ field a 40 16) then
        s.takeTrap k.w k.slot (k.whole s 0x08 i.baseWord a 1)
      else (s.maintLines k a n).foldl (fun st ln => act st k.cl k.wv.core ln) (s.commit k wv i.len)

/-- `pref`: changes no value that any agent observes (R195). -/
def execPref (f : MWord) (s : State) : Host.Outcome State Fault Refusal :=
  simt s fun k =>
    let i := Instr.pref f
    let m := if f.u then 0 else k.active f.pk (modNP f.mod)
    s.issueRegs k i (k.addrUses f (!f.u) m) [] fun wv => s.commit k wv i.len

/-- `cclean`; MOD[2:0] = 4 is the system point (R196). -/
def execCclean (f : MWord) (s : State) : Host.Outcome State Fault Refusal :=
  s.maintOp (.cclean f) f fun st cl _ ln =>
    let st1 := st.cleanDev cl ln.1
    if mod3 f.mod = 4 then st1.sysClean ln.1 false else st1

/-- `cinval`; on a page that the launch may not write it cleans instead of discarding, and drops the copies (R196). -/
def execCinval (f : MWord) (s : State) : Host.Outcome State Fault Refusal :=
  s.maintOp (.cinval f) f fun st cl core ln =>
    if ln.2 then st.discardLine cl core ln.1 else (st.cleanDev cl ln.1).dropLine cl core ln.1

/-- `cflush` (R196). -/
def execCflush (f : MWord) (s : State) : Host.Outcome State Fault Refusal :=
  s.maintOp (.cflush f) f fun st cl core ln =>
    let st1 := (st.cleanDev cl ln.1).dropLine cl core ln.1
    if mod3 f.mod = 4 then st1.sysClean ln.1 true else st1

end Sys2Proof.Machine
end

