-- ==== Sys2Proof/Machine/Engine.lean ====
section
/-!
DEFINITION. What the engines share: acceptance, SEQ and tickets (08 R220 to R225), the accesses of a command and its
faults (R231; 15 R418 to R420), layout records and tensors (R235 to R238), locks (10 R310, R311), the conditions of a start
(R226, R232 to R234) and the writes of a command.
-/

namespace Sys2Proof.Machine

/-! ## Accesses -/

/-- Why an engine stops at an access: a translation fault with CAUSE, MALF, VA and KIND (R418), uncorrectable data
(R231), a wait for a grant, or lines and table entries that it has still to ask for or waits for (R336, R337, R399,
R401). -/
inductive EStop where
  | fault (cause : Nat) (malf : Bool) (va kind : Nat)
  | poison
  | wait
  | lines (writes : Bool) (us : List LineUse) (walks : List Nat)
  deriving DecidableEq, Repr

/-- The posting wave of a command as a context for its addresses. -/
def State.cmdCtx (s : State) (c : Cmd) : Option Ctx :=
  match s.waves[c.wave]?, s.launches[c.launch]? with
  | some wv, some l => some { w := c.wave, slot := 0, wv := wv, fr := Frag.initial 0 0, l := l }
  | _, _ => none

/-- The launch of a command is deterministic. -/
def State.cmdDeterm (s : State) (c : Cmd) : Bool := match s.launches[c.launch]? with | some l => l.determ | none => false

/-- The bytes of a deterministic launch as a command sees them: the posting wave's view at acceptance, then the
command's own writes (R334). -/
def State.cmdView (s : State) (c : Cmd) (pa n : Nat) : List Byte :=
  match s.launches[c.launch]? with
  | none => []
  | some l =>
    let base := Memory.get l.snap
    let ov := applyOps base (c.view ++ c.out) []
    (List.range n).map fun i => viewByte base ov (pa + i)

/-- A line that a command's access has still to ask for, or waits for: tokens, or a read of LPDDR-6 that no regulator has
admitted yet (R335 to R337, R399, R401). -/
def State.lineDue (s : State) (c : Cmd) (writes : Bool) (u : LineUse) : Bool :=
  s.tokensHold u.h writes u.line ||
  (!writes && (match u.h with | some h => s.tokensAt h u.line == 0 | none => s.homeTokens u.line == 0)) ||
  (s.needsHome u.h writes u.line && s.homeReads u.line && !(writes && u.h.isNone) &&
    !s.granted.contains { who := c.reader, line := u.line })

/-- What keeps a command's access from being made now: another cluster's grant, or lines and table entries that are due
(R336 to R338, R399, R412). -/
def State.engineHold (s : State) (c : Cmd) (writes : Bool) (va pa n : Nat) (leaf : Word64) : Option EStop :=
  let p := s.partOf c.launch
  if !s.grants.isEmpty && s.grantHolds p (some c.cl) writes va n then some .wait
  else
    let us := if s.underGrant p c.cl writes va n then []
      else ((linesOf pa n).map fun ln =>
        ({ h := if leafMT leaf = 0 then s.holderOf c.cl else none, line := ln, uncached := leafMT leaf == 2,
           ck := leafCK leaf } : LineUse)).filter
          fun u => s.lineDue c writes u
    let walks := (s.walkLines p (clusterAgents c.cl) va).filter fun ln =>
      s.homeReads ln && !s.granted.contains { who := c.reader, line := ln }
    if us.isEmpty && walks.isEmpty then none else some (.lines writes us walks)

/-- A command asks for the lines that its access needs: for tokens that are in flight or withheld, else at the regulators,
and takes them once they are admitted (R336, R337, R392, R399 to R401). -/
def State.engineTake (s : State) (c : Cmd) (writes : Bool) (us : List LineUse) (walks : List Nat) : State :=
  if us.any fun u => s.tokensHold u.h writes u.line then s.askTokens writes us
  else
    let r := s.readLines c.reader (s.chargeOf c.launch) (s.lpddrReads writes us walks)
    if r.2 then r.1.takeLines (s.partOf c.launch) writes us walks else r.1

/-- Reads bytes as a command: of a cluster's scratch, or at a virtual address (R225, R231). -/
def State.eRead (s : State) (c : Cmd) (g : Option Nat) (a n : Nat) : Except EStop (List Byte) :=
  match g with
  | some cl =>
    (match s.clusters[cl]? with
     | none => .ok (List.replicate n 0)
     | some x => if x.spoison.any fun w => overlaps (8 * w) 8 a n then .error .poison else .ok (Memory.read x.scratch a n))
  | none =>
    (pieces (n + 1) a n).foldl (fun acc pc =>
      match acc with
      | .error e => .error e
      | .ok bs =>
        match s.access (s.partOf c.launch) (clusterAgents c.cl) .read false pc.1 pc.2 with
        | .fault cause malf => .error (if cause = 0x0E then .poison else .fault cause malf pc.1 0)
        | .ok pa leaf _ _ =>
          if outbound pa then
            .ok (bs ++ (List.range pc.2).map fun i => if s.pcie.up then Config.outboundByte (pa + i) else 0xFF)
          else if s.poisoned pa pc.2 then .error .poison
          else if s.cmdDeterm c then .ok (bs ++ s.cmdView c pa pc.2)
          else match s.engineHold c false pc.1 pa pc.2 leaf with
            | some e => .error e
            | none => .ok (bs ++ s.readPA (s.holderOf c.cl) pa pc.2)) (.ok [])

/-- The coordinates of index i in extents, dimension 0 fastest. -/
def Tensor.coords : List Nat → Nat → List Nat
  | [], _ => []
  | e :: es, i => (if e = 0 then 0 else i % e) :: Tensor.coords es (if e = 0 then 0 else i / e)
/-- The product of the first n numbers. -/
def prodTo (l : List Nat) (n : Nat) : Nat := (l.take n).foldl (· * ·) 1
/-- The stride of a dimension in elements (R236). -/
def Tensor.stride (t : Tensor) (d : Nat) : Nat := prodTo t.alloc d
/-- The linear index of a coordinate (R236). -/
def Tensor.lin (t : Tensor) (cs : List Nat) : Nat := (cs.zipIdx.map fun p => p.1 * t.stride p.2).foldl (· + ·) 0
/-- The number of elements. -/
def Tensor.count (t : Tensor) : Nat := prodTo t.ext t.ext.length
/-- The length of the span, from BASE through the last byte of the last element (R239). -/
def Tensor.spanLen (t : Tensor) : Nat := (t.lin (t.ext.map (· - 1)) * t.ew + t.ew + 7) / 8
/-- The value of a pad or fill for the element width (R236). -/
def Tensor.padValue (t : Tensor) (v : Nat) : Nat :=
  if t.ew ≤ 32 then v % 2 ^ t.ew else ((List.range (t.ew / 32)).map fun i => (v % 2 ^ 32) <<< (32 * i)).foldl (· + ·) 0
/-- The rows of a tensor: the bytes that its elements along dimension 0 fill whole. -/
def Tensor.rows (t : Tensor) : List (Option Nat × Nat × Nat) :=
  let outer := t.ext.drop 1
  (List.range (prodTo outer outer.length)).map fun i =>
    let lo := t.lin (0 :: Tensor.coords outer i) * t.ew
    let hi := lo + t.ext.headD 0 * t.ew
    (t.g, t.base + (lo + 7) / 8, hi / 8 - (lo + 7) / 8)

/-- The bytes that a command's own writes cover (R442): the rows of its write spans' tensors, and the output rows of a
record. -/
def Cmd.outRows (c : Cmd) : List (Option Nat × Nat × Nat) :=
  match c.word with
  | .ceCopy _ | .ceGatherrows _ => ((c.tens.drop 1).take 1).flatMap Tensor.rows
  | .ceFill _ | .rsTri _ | .rsSplat _ => (c.tens.take 1).flatMap Tensor.rows
  | .visFlow _ | .visDisp _ | .visRefine _ => ((c.tens.drop 2).take 2).flatMap Tensor.rows
  | _ => []

/-- The command's writes cover the unit of u bytes at a whole. -/
def Cmd.coversUnit (c : Cmd) (g : Option Nat) (a u : Nat) : Bool :=
  (List.range u).all fun i => c.outRows.any fun r => r.1 == g && decide (r.2.1 ≤ a + i) && decide (a + i < r.2.1 + r.2.2)

/-- Writes bytes as command k (R225, R231, R442); global writes of a deterministic launch are kept for its
retirement (R334). -/
def State.ePut (s : State) (k : Nat) (c : Cmd) (g : Option Nat) (a : Nat) (bs : List Byte) : Except EStop State :=
  let n := bs.length
  match g with
  | some cl =>
    (match s.clusters[cl]? with
     | none => .ok s
     | some x =>
       let bad := x.spoison.filter fun w => overlaps (8 * w) 8 a n && !(decide (a ≤ 8 * w) && decide (8 * w + 8 ≤ a + n))
       if bad.any fun w => !c.coversUnit g (8 * w) 8 then .error .poison
       else
         let s1 := s.setCluster cl fun y => { y with spoison := y.spoison.filter fun w => !bad.contains w }
         .ok (s1.writeScratch cl a bs))
  | none =>
    let p := s.partOf c.launch
    (pieces (n + 1) a n).foldl (fun acc pc =>
      match acc with
      | .error e => .error e
      | .ok st =>
        match st.access p (clusterAgents c.cl) .write false pc.1 pc.2 with
        | .fault cause malf => .error (if cause = 0x0E then .poison else .fault cause malf pc.1 1)
        | .ok pa leaf _ _ =>
          let part := (bs.drop (pc.1 - a)).take pc.2
          let bad := (linesOf pa pc.2).filter fun l =>
            st.poison.contains l && !(decide (pa ≤ 64 * l) && decide (64 * l + 64 ≤ pa + pc.2))
          if !outbound pa && bad.any fun l => !c.coversUnit none (pc.1 - pa % 64 + 64 * (l - pa / 64)) 64 then .error .poison
          else if st.cmdDeterm c && !outbound pa then
            let ck := if leafCK leaf then some (leafCKD leaf) else none
            let ops := (List.range part.length).map fun i => LayerOp.store (pa + i) (pc.1 + i) ck (part.getD i 0)
            .ok (st.setCmd k fun x => { x with out := x.out ++ ops })
          else match st.engineHold c true pc.1 pa pc.2 leaf with
          | some e => .error e
          | none =>
            let s1 : State := { st with poison := st.poison.filter fun l => !bad.contains l,
                                        l1 := st.l1.filter fun e => !(e.core == c.core && (linesOf pa pc.2).contains e.line) }
            .ok (s1.storeAt p (s1.holderOf c.cl) (s1.chargeOf c.launch) none (s1.underGrant p c.cl true pc.1 pc.2) leaf pa part))
      (.ok s)

/-- The end of a step of a record: FTLC, the step count, the locks (R245, R310). -/
def State.stepDone (s : State) (k : Nat) (c : Cmd) : State :=
  let d := c.desc.toNat
  let s1 := if bitOf d 29 then s.tlcAdd c.launch (field d 25 4) 1 else s
  let s2 := (s1.freeLocks k).dropGranted c.reader
  s2.setCmd k fun x => { x with step := x.step + 1, rows := [], ran := decide (field d 96 16 ≤ x.step + 1) }

/-- What follows one write of a command. -/
def State.ePost (s : State) (k : Nat) (c : Cmd) : EPost → State
  | .none => s
  | .tlc i n => s.tlcAdd c.launch i n
  | .zero i => s.acmSet c.cl i 0
  | .emit => s.setCmd k fun x =>
    { x with tv := x.tv.map fun t => { t with pend := none, qtail := t.qtail + 1, tail := t.tail + 1 } }
  | .tail n => s.setCmd k fun x => { x with tv := x.tv.map fun t => { t with tail := t.tail - n } }
  | .flags fl => s.setCmd k fun x => { x with flags := x.flags ||| BitVec.ofNat 32 fl }
  | .step => s.stepDone k c

/-- Makes one write of command k: whole bytes, or bits within them. -/
def State.eWrite (s : State) (k : Nat) (w : EWrite) : Except EStop State :=
  match s.cmds[k]? with
  | none => .ok s
  | some c =>
    let nb := (w.off + w.bits + 7) / 8
    let put := fun (st : State) (bs : List Byte) =>
      match st.ePut k c w.g w.a bs with
      | .error e => .error e
      | .ok s1 => .ok ((s1.setCmd k fun x => { x with count := x.count + w.cnt }).ePost k c w.post)
    if w.bits = 0 then .ok ((s.setCmd k fun x => { x with count := x.count + w.cnt }).ePost k c w.post)
    else if w.off = 0 && w.bits % 8 = 0 then put s (bytesOf nb w.val)
    else
      match s.eRead c w.g w.a nb with
      | .error (.fault cause malf va _) => .error (.fault cause malf va 1)
      | .error e => .error e
      | .ok old =>
        let x := ofBytes old
        let keep := x % 2 ^ w.off + (x >>> (w.off + w.bits)) <<< (w.off + w.bits)
        put s (bytesOf nb (keep + (w.val % 2 ^ w.bits) <<< w.off))

/-- Makes the writes of a list in order; on a stop the rest stays to be made. -/
def State.drainTodo (s : State) (k : Nat) : List EWrite → State × Option EStop
  | [] => (s.setCmd k fun x => { x with todo := [] }, none)
  | w :: ws =>
    match s.eWrite k w with
    | .error e => (s.setCmd k fun x => { x with todo := w :: ws }, some e)
    | .ok s1 => s1.drainTodo k ws

/-- Reads the element at a linear index (R236). -/
def State.eltRead (s : State) (c : Cmd) (t : Tensor) (lin : Nat) : Except EStop Nat :=
  let bit := lin * t.ew
  match s.eRead c t.g (t.base + bit / 8) ((bit % 8 + t.ew + 7) / 8) with
  | .error e => .error e
  | .ok bs => .ok ((ofBytes bs >>> (bit % 8)) % 2 ^ t.ew)

/-- The write of the element at a linear index. -/
def Tensor.eltWrite (t : Tensor) (lin val cnt : Nat) : EWrite :=
  { g := t.g, a := t.base + lin * t.ew / 8, off := lin * t.ew % 8, bits := t.ew, val := val, cnt := cnt, post := .none }

/-! ## Layout records (R235 to R237) -/

/-- Element widths (R236). -/
def ewBits (e : Nat) : Nat := [1, 4, 6, 8, 16, 32, 64, 128].getD e 1

/-- A layout record that R237 rejects. -/
def layoutFaulty (x : Nat) : Bool :=
  let nd := field x 0 4
  let ew := ewBits (field x 4 3)
  let ext := fun (d : Nat) => field x (128 + 40 * d) 20
  let alloc := fun (d : Nat) => field x (148 + 40 * d) 20
  nd == 0 || 9 < nd || field x 8 8 != 0 || field x 48 16 != 0 || field x 488 24 != 0 ||
  ((List.range 9).any fun d => if d < nd then ext d == 0 || decide (alloc d < ext d) else ext d != 0 || alloc d != 0) ||
  alloc 0 * ew % (if ew = 6 then 24 else 8) != 0 || (8 ≤ ew && field x 64 64 % (ew / 8) != 0)

/-- The place of n bytes at an address of a space: the cluster and CSA, or a virtual address; none where the address
breaks R177 or R178, or lies in a window (R306, R443). -/
def State.ePlace (s : State) (c : Cmd) (global : Bool) (a n : Nat) : Option (Option Nat × Nat) :=
  if global then (if a + n ≤ 0x00FFFE0000000000 then some (none, a) else none)
  else
    match s.cmdCtx c with
    | none => none
    | some k => (s.scratchCsa k a n).map fun r => (some r.1, r.2.1)

/-- The tensor that a layout record describes, at its address (R236). -/
def layoutTensor (x : Nat) : Tensor :=
  let nd := field x 0 4
  { ew := ewBits (field x 4 3), ext := (List.range nd).map fun d => field x (128 + 40 * d) 20,
    alloc := (List.range nd).map fun d => field x (148 + 40 * d) 20, pad := field x 16 32, g := none, base := field x 64 64 }

/-- The tensor of a layout record, where the record is in order and its bytes can be addressed (R231, R237). -/
def State.tensorOf (s : State) (c : Cmd) (x : Nat) : Option Tensor :=
  if layoutFaulty x then none
  else
    let t := layoutTensor x
    (s.ePlace c (!bitOf x 7) t.base t.spanLen).map fun p => { t with g := p.1, base := p.2 }

/-- The place of a handle's record in the launch's table; none beyond it (R235, R237). -/
def Launch.layoutAddr (l : Launch) (handle : Nat) : Option Nat :=
  if l.num 1216 24 ≤ handle then none else some (l.num 1152 64 + 64 * handle)

/-- The layout record of a handle: the cluster's cached copy, else a read that the cache keeps; the 64 newest records
stay (R235). -/
def State.layoutRec (s : State) (c : Cmd) (handle : Nat) : Except EStop (State × Option Nat) :=
  match s.launches[c.launch]?, s.clusters[c.cl]? with
  | some l, some cl =>
    (match l.layoutAddr handle with
     | none => .ok (s, none)
     | some a =>
       match cl.lcache.find? fun e => e.1 == c.launch && e.2.1 == handle with
       | some e => if cl.lpoison.contains (c.launch, handle) then .error .poison else .ok (s, some e.2.2.toNat)
       | none =>
         if 0x00FFFE0000000000 < a + 64 then .ok (s, none)
         else match s.eRead c none a 64 with
         | .error e => .error e
         | .ok bs =>
           .ok (s.setCluster c.cl fun x =>
             { x with lcache := ((c.launch, handle, BitVec.ofNat 512 (ofBytes bs)) :: x.lcache).take 64 }, some (ofBytes bs)))
  | _, _ => .ok (s, none)

/-- The record is in order but its scratchpad span reaches a bank that is not in SCRATCH (R301). -/
def State.offBank (s : State) (c : Cmd) (x : Nat) : Bool :=
  !layoutFaulty x && bitOf x 7 && (s.tensorOf c x).isNone &&
  (match s.cmdCtx c with | some k => (s.scratchAt k (layoutTensor x).base (layoutTensor x).spanLen).isSome | none => false)

/-- The tensors of some handles, in order, each with the DETAIL that names it where its span reaches a bank not in SCRATCH;
else the DETAIL of the first fault (R237, R301). -/
def State.tensorsOf (s : State) (c : Cmd) : List (Nat × Nat) → Except EStop (State × Except Nat (List Tensor))
  | [] => .ok (s, .ok [])
  | (h, word) :: hs =>
    match s.layoutRec c h with
    | .error e => .error e
    | .ok (s1, none) => .ok (s1, .error 0xFF)
    | .ok (s1, some x) =>
      match s1.tensorOf c x with
      | none => .ok (s1, .error (if s1.offBank c x then word else 0xFF))
      | some t =>
        match s1.tensorsOf c hs with
        | .ok (s2, .ok ts) => .ok (s2, .ok (t :: ts))
        | r => r

/-- The bytes of a tensor as a span. -/
def Tensor.span (t : Tensor) (write : Bool) : MemSpan := { write := write, cl := t.g, base := t.base, len := t.spanLen }
/-- Two spans share a byte. -/
def MemSpan.meets (a b : MemSpan) : Bool := a.cl == b.cl && overlaps a.base a.len b.base b.len

/-! ## Acceptance (R222 to R225) -/

/-- The engine of a cell and the 64-byte parts of its descriptor or record (R220). -/
def engineOf : Instr → Engine × Nat
  | .ceCopy _ => (.ce, 2)
  | .ceFill _ | .ceGatherrows _ => (.ce, 1)
  | .lrFlush _ => (.ce, 0)
  | .tvPair _ | .tvBox _ | .tvResume _ => (.tvu, 2)
  | .rsTri _ | .rsSplat _ => (.rsu, 1)
  | .visFlow _ | .visDisp _ | .visRefine _ => (.vse, 1)
  | .mxPost _ => (.tsq, 1)
  | _ => (.tsq, 0)

/-- KIND of a descriptor (R227). -/
def kindOf : Instr → Nat
  | .ceCopy _ => 0x01 | .ceFill _ => 0x02 | .ceGatherrows _ => 0x03
  | .tvPair _ => 0x11 | .tvBox _ => 0x12 | .tvResume _ => 0x13
  | .rsTri _ => 0x21 | .rsSplat _ => 0x22
  | .visFlow _ => 0x31 | .visDisp _ => 0x32 | .visRefine _ => 0x33
  | _ => 0

/-- A cluster holds an engine (R12, R220). -/
def hasEngine (cl : Nat) (e : Engine) : Bool :=
  match e with | .ce => true | .tsq => !isG cl | .tvu | .rsu | .vse => isG cl

/-- The copy commands take an entry of the range scoreboard (R308). -/
def isCopy : Instr → Bool
  | .ceCopy _ | .ceFill _ | .ceGatherrows _ => true
  | _ => false

/-- Room at check 4 of R222: 64 commands per engine, 128 records and 32 of the wave, 16 scoreboard entries of the core
(R250, R308). -/
def State.engineRoom (s : State) (k : Ctx) (i : Instr) : Bool :=
  let e := (engineOf i).1
  let mine := s.cmds.filter fun c => c.cl == k.cl && c.eng == e && c.unfinished
  mine.length < (if e = .tsq then 128 else 64) &&
  (e != .tsq || (mine.filter fun c => c.wave == k.w).length < 32) &&
  (!isCopy i || (s.cmds.filter fun c => c.core == k.wv.core && isCopy c.word && c.unfinished).length < 16)

/-- The descriptor's bytes as a uniform read: checks 1, 3, 4 and 5 of R180 (R222 check 3). -/
def State.descRead (s : State) (k : Ctx) (a chunks : Nat) : List LaneRes :=
  if chunks = 0 then []
  else if 0x00FFFE0000000000 < a + 64 * chunks then [LaneRes.fail 0 a 0x08]
  else s.checkPoison .read [s.translateAll k .read 0 a false ((List.range chunks).map fun j => (a + 64 * j, 64))]

/-- A fresh command. -/
def Cmd.fresh (k : Ctx) (i : Instr) (e : Engine) (seq tick ticket desc a : Nat) (hb hc : Word64) : Cmd where
  cl := k.cl
  eng := e
  wave := k.w
  launch := k.wv.launch
  gang := k.wv.gang
  core := k.wv.core
  seq := seq
  tick := tick
  ticket := ticket
  word := i
  desc := BitVec.ofNat 1024 desc
  daddr := a
  hb := hb
  hc := hc
  st := .queued
  code := 0
  detail := 0
  count := 0
  prog := 0
  step := 0
  sat := false
  badscale := false
  flags := 0
  tv := none
  view := []
  wstat := false
  spans := []
  begun := false
  parked := false
  ran := false
  tens := []
  touch := []
  todo := []
  rows := []
  out := []
  blocked := false

/-- The place of n bytes of an index or primitive array: where its address is a legal scratchpad address, the scratchpad or
global memory (R308, R310; log entry 19). -/
def State.arrayPlace (s : State) (c : Cmd) (a n : Nat) : Option (Option Nat × Nat) :=
  match s.ePlace c false a n with
  | some p => if Config.arrayInScratch a then some p else s.ePlace c true a n
  | none => s.ePlace c true a n

/-- Handles of a copy command: source, if any, and destination; they stand in no descriptor word. -/
def Cmd.copyHandles (c : Cmd) : List (Nat × Nat) :=
  match c.word with
  | .ceFill _ => [(c.hc.toNat % 2 ^ 32, 0xFF)]
  | _ => [(c.hb.toNat % 2 ^ 32, 0xFF), (c.hc.toNat % 2 ^ 32, 0xFF)]

/-- The spans of a copy command for the range scoreboard: destination, source, index array (R308). -/
def State.copySpans (s : State) (c : Cmd) (ts : List Tensor) : List MemSpan :=
  match c.word, ts with
  | .ceFill _, [d] => [d.span true]
  | .ceGatherrows _, [b, d] =>
    let len := 4 * d.ext.getLastD 0
    [b.span false, d.span true] ++
      ((s.arrayPlace c (field c.desc.toNat 256 64) len).map fun p => { write := false, cl := p.1, base := p.2, len := len : MemSpan }).toList
  | _, [b, d] => [b.span false, d.span true]
  | _, _ => []

/-- The spans of a command as its layout records give them at acceptance, read past an `lr.flush` of the wave that is
still to drop them; none where a record cannot be read or is faulty. -/
def State.peekSpans (s : State) (c : Cmd) : List MemSpan :=
  if !isCopy c.word then []
  else
    let flushed := s.cmds.any fun d => d.wave == c.wave && d.unfinished && (match d.word with | .lrFlush _ => true | _ => false)
    let s1 := if flushed then s.setCluster c.cl fun x => { x with lcache := [] } else s
    match s1.tensorsOf c c.copyHandles with
    | .ok (_, .ok ts) => s1.copySpans c ts
    | _ => []

/-- Accepts a command or record: SEQ, the acceptance count, the ticket to D, the copy of the descriptor
(R222 to R224, R308, R334). -/
def State.acceptCmd (s : State) (k : Ctx) (i : Instr) (f : RWord) (wv : Wave) (a desc : Nat) (b c : Word64) : State :=
  let tick := (f.mod.extractLsb' 0 4).toNat
  let ticket := (k.l.acnt.toList.getD tick 0).toNat + 1
  let w1 := { s.keepEpoch k wv with seq := wv.seq + 1 }
  let w2 := if OpField.isS f.d then w1.later [] (some (k.sname (f.d.toNat - 128), BitVec.ofNat 64 ticket)) 0 none else w1
  let cmd0 := Cmd.fresh k i (engineOf i).1 (wv.seq + 1) tick ticket desc a b c
  let cmd := { cmd0 with view := if k.l.determ then s.viewOps k.wv else [], spans := s.peekSpans cmd0 }
  let s1 := s.commit k w2 i.len
  let s2 := s1.setLaunch k.wv.launch fun x =>
    { x with acnt := Vector.ofFn fun j => if j.val = tick then BitVec.ofNat 64 ticket else x.acnt[j] }
  { s2 with cmds := s2.cmds ++ [cmd] }

/-- An engine instruction with its operands as of issue: the checks of R222 in order, R367, then acceptance or the wait
at check 4. -/
def State.engineGo (s : State) (k : Ctx) (i : Instr) (f : RWord) (a b c : Word64) : State :=
  let e := engineOf i
  let tick := (f.mod.extractLsb' 0 4).toNat
  let us := k.use f.a f.actl 1 0 ++ k.use f.b f.bctl 1 0 ++ k.use f.c f.cctl 1 0
  if e.1 == .tsq && slotInvalid (k.l.slot f.dt.toNat) then s.trapWhole k 0x16 i
  else s.issueRegs k i us (k.dst f.d 1 0) fun wv =>
    if !hasEngine k.cl e.1 || k.l.tlcsrc tick != 0 then s.trapWhole k 0x0A i
    else if e.2 ≠ 0 && a.toNat % 64 ≠ 0 then s.takeTrap k.w k.slot (k.whole s 0x07 i.baseWord a.toNat)
    else
      let rs := s.descRead k a.toNat e.2
      match s.laneTrap k i .read true 0 rs with
      | some t => s.takeTrap k.w k.slot t
      | none =>
        match s.memBegin k false false true rs with
        | .error t => t
        | .ok s1 =>
          if !s1.engineRoom k i then s1.unitWait k i (.engine a b c)
          else
            let desc := ofBytes (rs.flatMap fun r => r.spans.flatMap (s1.spanRead k true))
            s1.acceptCmd k i f wv a.toNat desc b c

/-- The issue of an engine instruction. -/
def State.engineOp (s : State) (i : Instr) (f : RWord) : Host.Outcome State Fault Refusal :=
  simt s fun k =>
    let src := fun (x : BitVec 8) => BitVec.ofNat 64 (if OpField.isNone x then 0 else k.scalSrc s.now f.lit 64 x)
    s.engineGo k i f (src f.a) (src f.b) (src f.c)

/-- The fields of an engine word. -/
def engineWord : Instr → Option RWord
  | .ceCopy f | .ceFill f | .ceGatherrows f | .lrFlush f | .mxPost f | .tvPair f | .tvBox f | .tvResume f
  | .rsTri f | .rsSplat f | .visFlow f | .visDisp f | .visRefine f => some f
  | _ => none

/-- `ce.copy` (R220 to R225, R239). -/
def execCeCopy (f : RWord) (s : State) : Host.Outcome State Fault Refusal := s.engineOp (.ceCopy f) f
/-- `ce.fill` (R240). -/
def execCeFill (f : RWord) (s : State) : Host.Outcome State Fault Refusal := s.engineOp (.ceFill f) f
/-- `ce.gatherrows` (R240). -/
def execCeGatherrows (f : RWord) (s : State) : Host.Outcome State Fault Refusal := s.engineOp (.ceGatherrows f) f
/-- `lr.flush` (R238). -/
def execLrFlush (f : RWord) (s : State) : Host.Outcome State Fault Refusal := s.engineOp (.lrFlush f) f
/-- `mx.post` (R242). -/
def execMxPost (f : RWord) (s : State) : Host.Outcome State Fault Refusal := s.engineOp (.mxPost f) f
/-- `tv.pair` (R255, R257). -/
def execTvPair (f : RWord) (s : State) : Host.Outcome State Fault Refusal := s.engineOp (.tvPair f) f
/-- `tv.box` (R257, R260). -/
def execTvBox (f : RWord) (s : State) : Host.Outcome State Fault Refusal := s.engineOp (.tvBox f) f
/-- `tv.resume` (R257, R259). -/
def execTvResume (f : RWord) (s : State) : Host.Outcome State Fault Refusal := s.engineOp (.tvResume f) f
/-- `rs.tri` (R261). -/
def execRsTri (f : RWord) (s : State) : Host.Outcome State Fault Refusal := s.engineOp (.rsTri f) f
/-- `rs.splat` (R261, R265). -/
def execRsSplat (f : RWord) (s : State) : Host.Outcome State Fault Refusal := s.engineOp (.rsSplat f) f
/-- `vis.flow` (R266, R269). -/
def execVisFlow (f : RWord) (s : State) : Host.Outcome State Fault Refusal := s.engineOp (.visFlow f) f
/-- `vis.disp` (R266, R268). -/
def execVisDisp (f : RWord) (s : State) : Host.Outcome State Fault Refusal := s.engineOp (.visDisp f) f
/-- `vis.refine` (R266, R271). -/
def execVisRefine (f : RWord) (s : State) : Host.Outcome State Fault Refusal := s.engineOp (.visRefine f) f

/-- A fragment waiting at check 4 is accepted once there is room (R222). -/
def execEngineQueueRoom (w slot : Nat) (s : State) : Host.Outcome State Fault Refusal :=
  .next <|
    match s.waiter w slot with
    | none => s
    | some k =>
      match k.fr.st with
      | .unit i (.engine a b c) => (match engineWord i with | some f => s.engineGo k i f a b c | none => s)
      | _ => s

/-! ## `mx.cancel` and `mx.status` -/

/-- The result of a tile-sequencer query (R251, R252). -/
def State.tsqResult (s : State) (k : Ctx) (i : Instr) (f : RWord) (wv : Wave) (v : Nat) : State :=
  s.commit k (if OpField.isS f.d then wv.later [] (some (k.sname (f.d.toNat - 128), BitVec.ofNat 64 v)) 0 none else wv) i.len

/-- A record that `mx.cancel` discards (R251). -/
def Cmd.discards (c : Cmd) (w q : Nat) : Bool := c.isRecord && c.wave == w && c.st == .queued && !c.begun && decide (q < c.seq)

/-- `mx.cancel` (R251). -/
def execMxCancel (f : RWord) (s : State) : Host.Outcome State Fault Refusal :=
  simt s fun k =>
    let i := Instr.mxCancel f
    s.issueRegs k i (k.use f.a f.actl 1 0) (k.dst f.d 1 0) fun wv =>
      if isG k.cl then s.trapWhole k 0x0A i
      else
        let q := k.scalSrc s.now f.lit 64 f.a
        let hit := fun (c : Cmd) => c.discards k.w q
        let s1 := s.tsqResult k i f wv (s.cmds.filter hit).length
        let gone := (List.range s.cmds.length).filter fun j => match s.cmds[j]? with | some c => hit c | none => false
        (gone.foldl (fun st j => match st.cmds[j]? with
          | some c => ((st.releaseCmd j).setCmd j fun x => { x with st := .finished, code := 2 }).traceCmd { c with code := 2 }
          | none => st) s1).publish.settle

/-- STATE of a record (R252). -/
def Cmd.recState (c : Cmd) : Nat :=
  if c.code = 2 then 3 else if c.code = 1 then 4 else if c.code = 7 then 5
  else match c.st with | .queued => 0 | .started | .faulted _ => 1 | .finished | .retired => 2

/-- The status word of the record with a SEQ among the wave's 64 newest (R252).  SAT stays set in every later reading of a
record (R74; log entry 19). -/
def State.recStatus (s : State) (w q : Nat) : Nat :=
  let mine := s.cmds.filter fun c => c.isRecord && c.wave == w
  match (mine.drop (mine.length - 64)).find? fun c => c.seq == q with
  | none => 6
  | some c =>
    c.recState + putAt (b2n (c.sat || c.flags.getLsbD 5)) 8 + putAt (b2n c.badscale) 9 + putAt (c.step % 2 ^ 16) 16

/-- `mx.status` (R252). -/
def execMxStatus (f : RWord) (s : State) : Host.Outcome State Fault Refusal :=
  simt s fun k =>
    let i := Instr.mxStatus f
    s.issueRegs k i (k.use f.a f.actl 1 0) (k.dst f.d 1 0) fun wv =>
      if isG k.cl then s.trapWhole k 0x0A i
      else s.tsqResult k i f wv (s.recStatus k.w (k.scalSrc s.now f.lit 64 f.a))

/-! ## Locks (10 R310, R311) -/

/-- The banks that spans touch, with a write lock where some span writes. -/
def lockWants (spans : List MemSpan) : List (Nat × Nat × Bool) :=
  let one := spans.flatMap fun x =>
    match x.cl with
    | none => []
    | some cl => if x.len = 0 then [] else
        (List.range ((x.base + x.len - 1) / bankBytes - x.base / bankBytes + 1)).map fun i => (cl, x.base / bankBytes + i, x.write)
  (one.map fun w => (w.1, w.2.1, one.any fun v => v.1 == w.1 && v.2.1 == w.2.1 && v.2.2)).eraseDups

/-- Every lock of the set may be granted to command k now. -/
def State.lockFree (s : State) (k : Nat) (ws : List (Nat × Nat × Bool)) : Bool :=
  ws.all fun w =>
    match s.clusters[w.1]? with
    | none => true
    | some x =>
      (x.locks.all fun l => l.cmd == k || l.bank != w.2.1 || !(l.write || w.2.2)) &&
      (x.lockReqs.takeWhile fun r => r.1 != k).all fun r => r.2.all fun b => b.1 != w.2.1

/-- Requests the locks of command k: all are granted, or the request waits in order (R311). -/
def State.tryLocks (s : State) (k : Nat) (ws : List (Nat × Nat × Bool)) : State × Bool :=
  let cls := (ws.map (·.1)).eraseDups
  let of := fun (cl : Nat) => (ws.filter fun w => w.1 == cl).map (·.2)
  if s.lockFree k ws then
    (cls.foldl (fun st cl => st.setCluster cl fun x =>
      { x with locks := (x.locks.filter fun l => l.cmd != k) ++ (of cl).map fun b => { cmd := k, bank := b.1, write := b.2 },
               lockReqs := x.lockReqs.filter fun r => r.1 != k }) s, true)
  else
    (cls.foldl (fun st cl => st.setCluster cl fun x =>
      if x.lockReqs.any fun r => r.1 == k then x else { x with lockReqs := x.lockReqs ++ [(k, of cl)] }) s, false)

/-! ## When a command may start (R226, R232, R376) -/

/-- The predecessor distances of a command (R227, R243). -/
def Cmd.preds (c : Cmd) : List Nat :=
  let d := c.desc.toNat
  if c.isRecord then [field d 32 32] else match c.word with | .lrFlush _ => [] | _ => [field d 64 32, field d 96 32]

/-- Accumulator regions overlap (R243). -/
def Cmd.regionsMeet (a b : Cmd) : Bool := a.hasRegion && b.hasRegion && overlaps a.region.1 a.region.2 b.region.1 b.region.2

/-- The recess request of its job keeps a command from starting (R232, R376); so do a gang that is not placed, and a fault
that the request found pending (R422). -/
def State.recessStops (s : State) (c : Cmd) : Bool :=
  match s.launches[c.launch]? with
  | none => true
  | some l =>
    let placed := match l.gangs[c.gang]? with | some g => g.placed | none => false
    let asked := match s.inst? l.job with | some i => i.st == .recessing | none => false
    !placed || c.parked || (asked && (if c.isRecord then recessAny l else recessAny l || recessDeclared l))

/-- The gang of a command is placed. -/
def State.cmdPlaced (s : State) (c : Cmd) : Bool :=
  match s.launches[c.launch]? with
  | some l => (match l.gangs[c.gang]? with | some g => g.placed | none => false)
  | none => false

/-- The conditions of R226, with R232, R238 and R313: an `lr.flush` of the wave comes before the commands accepted after it,
and records whose regions overlap run in the order of their acceptance, whichever wave of the cluster posted them. -/
def State.canStart (s : State) (c : Cmd) : Bool :=
  let mine := s.cmds.filter fun d => d.wave == c.wave && decide (d.seq < c.seq)
  let before := s.cmds.takeWhile fun d => !(d.wave == c.wave && d.seq == c.seq)
  (c.preds.all fun p => p == 0 || decide (c.seq ≤ p) || mine.all fun d => d.seq + p != c.seq || !d.unfinished) &&
  (s.cmdDeterm c || mine.all fun d => d.eng != c.eng || !(d.st == .queued && !d.begun)) &&
  (!c.isRecord || mine.all fun d => !d.isRecord || !d.unfinished ||
    !(d.regionsMeet c || d.op == 6 || d.op == 7 || c.op == 6)) &&
  (!c.isRecord || before.all fun d => !(d.isRecord && d.unfinished && d.cl == c.cl && d.regionsMeet c && s.cmdPlaced d)) &&
  (mine.all fun d => !d.unfinished || d.cl != c.cl || (match d.word with | .lrFlush _ => false | _ => true)) &&
  !s.recessStops c

/-! ## Rejections, deferred traps and overlaps -/

/-- The first 64-bit word of bits lo to hi - 1 that is not zero (R228, R229). -/
def rsvWord (d lo hi : Nat) : Option Nat :=
  ((List.range (hi - lo)).find? fun i => bitOf d (lo + i)).map fun i => (lo + i) / 64

/-- The faulty words of a header (R227, R229). -/
def Cmd.headerFaults (c : Cmd) : List Nat :=
  let d := c.desc.toNat
  (if field d 0 8 != kindOf c.word then [0] else []) ++ (rsvWord d 8 64).toList ++
  (if c.preds.any fun p => p != 0 && decide (c.seq ≤ p) then [1] else []) ++ (rsvWord d 192 256).toList

/-- The command is rejected: it performs nothing and has only to retire (R229). -/
def State.rejectCmd (s : State) (k detail : Nat) : State :=
  (s.releaseCmd k).setCmd k fun x =>
    { x with st := .started, begun := true, ran := true, code := 1, detail := detail, todo := [], out := [] }

/-- A deferred trap of R230: the command is rejected, and its wave traps at its next boundary; a wave that has retired
leaves a job exception. -/
def State.deferTrap (s : State) (k cause : Nat) : State :=
  match s.cmds[k]? with
  | none => s
  | some c =>
    let s1 := s.rejectCmd k 0
    match s.waves[c.wave]?, s.launches[c.launch]? with
    | some v, some l =>
      if v.status == .retired then s1.raiseJob l.job 0 cause 0 l.entry 0 c.seq s.now
      else s1.setWave c.wave fun x => { x with deferred := x.deferred ++ [(BitVec.ofNat 8 cause, c.seq)] }
    | _, _ => s1

/-- A record writes its accumulator region (R245, R247, R248). -/
def Cmd.writesRegion (c : Cmd) : Bool := c.hasRegion && (c.op != 3 || bitOf c.desc.toNat 17)

/-- R233, R234: in a deterministic launch, a command that starts while another runs in the same cluster on a common
scratch byte or accumulator element that one of them writes.  A command that is ordered before it has retired already,
by the conditions of its start. -/
def State.scratchOverlap (s : State) (k : Nat) (c : Cmd) : Bool :=
  s.cmdDeterm c && (List.range s.cmds.length).any fun j =>
    j != k && (match s.cmds[j]? with
     | some d =>
       d.launch == c.launch && d.cl == c.cl && d.begun && d.unfinished && d.st != .queued &&
       ((c.regionsMeet d && (c.writesRegion || d.writesRegion)) ||
        c.touch.any fun x => d.touch.any fun y => x.cl.isSome && x.meets y && (x.write || y.write))
     | none => false)

/-! ## Faults of commands (R231, 15 R418 to R420) -/

/-- OPND, STEP, ROW and ELEM of a record at its present progress; an `rsum` step that has gathered its rows keeps the row
whose sums it could not write in `prog` (R420). -/
def Cmd.rowProg (c : Cmd) (k : Nat) : RowProg :=
  let d := c.desc.toNat
  let n := field d 72 8 + 1
  if c.op == 3 || c.op == 4 then
    let i := if c.todo.isEmpty then c.prog else c.prog - 1
    { cmd := k, opnd := if c.todo.isEmpty then 3 else 2, step := 0, row := i / n, elem := i % n }
  else
    let g := c.rows.length
    let ma := field d 64 8 + 1
    if c.op == 5 then
      { cmd := k, opnd := field d 18 1, step := c.step, row := if g < (if bitOf d 18 then n else ma) then g else c.prog, elem := 0 }
    else if g < ma then { cmd := k, opnd := 0, step := c.step, row := g, elem := 0 }
    else { cmd := k, opnd := 1, step := c.step, row := g - ma, elem := 0 }

/-- The row-progress register as the fault record holds it. -/
def RowProg.word (r : RowProg) (seq : Nat) : Nat :=
  1 + putAt r.opnd 1 + putAt (r.step % 2 ^ 16) 8 + putAt (r.row % 256) 24 + putAt (r.elem % 256) 32 + putAt (seq % 2 ^ 64) 64

/-- ENGINE of a fault record (R418). -/
def Engine.num : Engine → Nat
  | .ce => 0 | .tsq => 1 | .tvu => 2 | .rsu => 3 | .vse => 4

/-- A translation fault of command k: a record with a token, or a wait for a row-progress register, or, with its whole
engine, for a token or room in the fault queue (R418, R420). -/
def State.cmdFault (s : State) (k cause : Nat) (malf : Bool) (va kind : Nat) : State :=
  match s.cmds[k]? with
  | none => s
  | some c =>
    let p := s.partOf c.launch
    let job := match s.launches[c.launch]? with | some l => l.job | none => 0
    match s.parts[p]?, s.clusters[c.cl]? with
    | some pt, some cl =>
      let prog := c.rowProg k
      let full := s.setCmd k fun x => { x with blocked := true }
      if c.isRecord && 4 ≤ cl.rowprog.length then s
      else if 256 ≤ pt.faults.length then full
      else
        let rec_ := faultRecord s.now va p job c.cl c.eng.num kind cause malf c.seq pt.nextToken
          (if c.isRecord then prog.word c.seq else 0)
        match s.faultAppend p c.cl rec_ with
        | none => full
        | some s1 =>
          let s2 := s1.setPart p fun x =>
            { x with faults := x.faults ++ [{ token := pt.nextToken, cmd := k }],
                     nextToken := if x.nextToken = 65535 then 1 else x.nextToken + 1 }
          let s3 := if c.isRecord then s2.setCluster c.cl fun x => { x with rowprog := x.rowprog ++ [prog] } else s2
          s3.setCmd k fun x => { x with st := .faulted pt.nextToken, detail := if x.wstat then x.detail else cause }
    | _, _ => s

/-- Another command of the same engine waits for room in the fault queue, and the engine with it (R418). -/
def State.engineStalled (s : State) (k : Nat) : Bool :=
  match s.cmds[k]? with
  | some c => (List.range s.cmds.length).any fun j => j != k && (match s.cmds[j]? with
    | some d => d.blocked && d.unfinished && d.cl == c.cl && d.eng == c.eng
    | none => false)
  | none => false

/-- A turn of a command at its engine, unless the engine waits for another's fault (R418). -/
def State.engineTurn (s : State) (k : Nat) (f : State → State) : State :=
  if s.engineStalled k then s else f (s.setCmd k fun x => { x with blocked := false })

/-- What a stop does to a command (R231). -/
def State.cmdStop (s : State) (k : Nat) : EStop → State
  | .wait => s
  | .lines writes us walks => match s.cmds[k]? with | some c => s.engineTake c writes us walks | none => s
  | .poison => match s.cmds[k]? with | some c => s.containGang c.launch c.gang 0x0E c.cl [] | none => s
  | .fault cause malf va kind => s.cmdFault k cause malf va kind

end Sys2Proof.Machine
end

