-- ==== Sys2Proof/Machine/CopyEngine.lean ====
section
/-!
DEFINITION. The copy engine (08 R238 to R241): what a command checks when it starts and what it does for each element.
-/

namespace Sys2Proof.Machine

/-- What a command finds when it starts: a rejection with its DETAIL, an end without work, or what it works on: tensors
and spans, the state of a descent, and writes that come first (R229, R239, R255). -/
inductive Setup where
  | reject (detail : Nat)
  | stop (code : Nat)
  | go (tens : List Tensor) (touch : List MemSpan)
  | descend (tv : TvState) (todo : List EWrite)

/-- What one item of a command's work does: writes to make, elements to count, and, where the work ends, CODE. -/
structure EItem where
  writes : List EWrite
  cnt    : Nat
  tv     : Option TvState
  code   : Option Nat

/-- An item that writes. -/
def EItem.put (ws : List EWrite) (cnt : Nat := 0) : EItem := { writes := ws, cnt := cnt, tv := none, code := none }

/-- The lowest faulty word, as DETAIL (R228). -/
def rejectAt : List Nat → Option Nat
  | [] => none
  | x :: xs => some (xs.foldl min x)

/-! ## `ce.copy` -/

/-- ORGd and PERMd (R239). -/
def copyOrg (d i : Nat) : Int := sgn 32 (field d (256 + 32 * i) 32)
def copyPerm (d i : Nat) : Nat := field d (544 + 4 * i) 4
/-- Every PERMd is 0: the identity. -/
def copyIdentity (d : Nat) : Bool := field d 544 36 == 0
/-- The source dimension that destination dimension i reads. -/
def copyDim (d i : Nat) : Nat := if copyIdentity d then i else copyPerm d i

/-- The faulty words of ORG and PERM for nd dimensions (R239). -/
def copyFaults (d nd : Nat) : List Nat :=
  ((List.range 9).filterMap fun i => if nd ≤ i && field d (256 + 32 * i) 32 != 0 then some ((256 + 32 * i) / 64) else none) ++
  (if copyIdentity d then [] else (List.range 9).filterMap fun i =>
    let p := copyPerm d i
    let bad := if i < nd then nd ≤ p || (List.range i).any (fun j => copyPerm d j == p) else p != 0
    if bad then some ((544 + 4 * i) / 64) else none)

/-- The source coordinate of a destination coordinate (R239). -/
def copySource (d : Nat) (cs : List Nat) (e : Nat) : Int :=
  match (List.range cs.length).find? fun i => copyDim d i == e with
  | some i => copyOrg d e + (cs.getD i 0 : Int)
  | none => 0

/-! ## Starting -/

/-- The faulty words above the header of a copy command's descriptor, given its tensors where they are in order
(R229, R239, R240). -/
def State.ceFaults (s : State) (c : Cmd) (ts : Option (List Tensor)) : List Nat :=
  let d := c.desc.toNat
  match c.word with
  | .ceCopy _ => (match ts with | some [_, t] => copyFaults d t.ext.length | _ => []) ++ (rsvWord d 580 1024).toList
  | .ceFill _ => (rsvWord d 288 512).toList
  | _ =>
    let idx := field d 256 64
    let off := match ts with | some [_, t] => (s.arrayPlace c idx (4 * t.ext.getLastD 0)).isNone | _ => false
    (if idx % 4 != 0 || off then [4] else []) ++ (rsvWord d 320 512).toList

/-- The checks of a copy command when it starts: its header, then its other fields, which need its layout records, in the
order of its descriptor, and then those records (R229, R237, R239, R240). -/
def State.ceSetup (s : State) (c : Cmd) : Except EStop (State × Setup) :=
  match rejectAt c.headerFaults with
  | some x => .ok (s, .reject x)
  | none =>
    match s.tensorsOf c c.copyHandles with
    | .error e => .error e
    | .ok (s1, .error detail) => .ok (s1, .reject ((rejectAt (s1.ceFaults c none)).getD detail))
    | .ok (s1, .ok ts) =>
      match rejectAt (s1.ceFaults c (some ts)) with
      | some x => .ok (s1, .reject x)
      | none =>
        let spans := s1.copySpans c ts
        match c.word, ts with
        | .ceFill _, _ => .ok (s1, .go ts spans)
        | _, [b, t] =>
          if b.ext.length ≠ t.ext.length ∨ b.ew ≠ t.ew then .ok (s1, .reject 0xFF)
          else if spans.any fun x => !x.write && x.meets (t.span true) then .ok (s1, .stop 5)
          else .ok (s1, .go ts spans)
        | _, _ => .ok (s1, .reject 0xFF)

/-! ## Elements -/

/-- The element of a source tensor at signed coordinates, or its PAD outside the extents (R239). -/
def State.copyElt (s : State) (c : Cmd) (b : Tensor) (cs : List Int) : Except EStop Nat :=
  if (cs.zip b.ext).all fun p => decide (0 ≤ p.1) && decide (p.1 < (p.2 : Int)) then
    s.eltRead c b (b.lin (cs.map Int.toNat))
  else .ok (b.padValue b.pad)

/-- Element i of a copy command (R239, R240). -/
def State.ceItem (s : State) (c : Cmd) (i : Nat) : Except EStop EItem :=
  let d := c.desc.toNat
  match c.word, c.tens with
  | .ceFill _, [t] => .ok (.put [t.eltWrite (t.lin (Tensor.coords t.ext i)) (t.padValue (field d 256 32)) 1])
  | .ceCopy _, [b, t] =>
    let cs := Tensor.coords t.ext i
    (match s.copyElt c b ((List.range cs.length).map (copySource d cs)) with
     | .error e => .error e
     | .ok v => .ok (.put [t.eltWrite (t.lin cs) v 1]))
  | .ceGatherrows _, [b, t] =>
    let cs := Tensor.coords t.ext i
    let row := cs.getLastD 0
    let at_ := (s.arrayPlace c (field d 256 64) (4 * t.ext.getLastD 0)).getD (none, field d 256 64)
    (match s.eRead c at_.1 (at_.2 + 4 * row) 4 with
     | .error e => .error e
     | .ok bs =>
       let ix := ofBytes bs
       let src := (cs.dropLast.map fun (x : Nat) => Int.ofNat x) ++ [if ix = 2 ^ 32 - 1 then (-1 : Int) else (ix : Int)]
       match s.copyElt c b src with
       | .error e => .error e
       | .ok v => .ok (.put [t.eltWrite (t.lin cs) v 1]))
  | _, _ => .ok (.put [])

/-- `lr.flush` drops one cached layout record of the launch, or every cached record of the cluster (R238). -/
def State.flushLayouts (s : State) (c : Cmd) : State :=
  let h := c.daddr % 2 ^ 32
  let gone := fun (l handle : Nat) => h == 2 ^ 32 - 1 || (l == c.launch && handle == h)
  s.setCluster c.cl fun x =>
    { x with lcache := x.lcache.filter fun e => !gone e.1 e.2.1, lpoison := x.lpoison.filter fun e => !gone e.1 e.2 }

end Sys2Proof.Machine
end

