-- ==== Sys2Proof/Machine/Raster.lean ====
section
/-!
DEFINITION. The raster unit (08 R261 to R265).
-/

namespace Sys2Proof.Machine

/-- RoundF with direction 0b000 and satp 1, to an fp32 number (R264, R265). -/
def rnd32 (x : Num) : Num := fmtFp32.decode (roundF x fmtFp32 0 1).1
/-- One rounded difference and product. -/
def rSub (x y : Num) : Num := rnd32 (numAdd x y.negate 0).1
def rMul (x y : Num) : Num := rnd32 (numMul x y).1
/-- x * y + z, rounded once. -/
def rFma (x y z : Num) : Num := rnd32 (numAdd (numMul x y).1 z 0).1
/-- x < y under IEEE comparison. -/
def ieeeLt (x y : Num) : Bool := !x.isNaN && !y.isNaN && numLt x y
/-- The fp32 pattern of a number. -/
def bits32 (x : Num) : Nat := (roundF x fmtFp32 0 1).1

/-! ## Starting (R261) -/

/-- NPRIM, NATTR, DEPTH, CULL, X0, Y0 of a raster descriptor (R261). -/
def rsCount (d : Nat) : Nat := field d 320 32
def rsAttrs (d : Nat) : Nat := field d 352 4
def rsX0 (d : Nat) : Int := sgn 32 (field d 384 32)
def rsY0 (d : Nat) : Int := sgn 32 (field d 416 32)
/-- The command draws triangles. -/
def Cmd.isTri (c : Cmd) : Bool := match c.word with | .rsTri _ => true | _ => false
/-- fp32 values of one primitive (R262, R265). -/
def Cmd.primWords (c : Cmd) : Nat := let n := rsAttrs c.desc.toNat; if c.isTri then 3 * (2 + n) else 6 + n

/-- The length of the primitive array. -/
def Cmd.primBytes (c : Cmd) : Nat := 4 * c.primWords * rsCount c.desc.toNat

/-- The checks of a raster command when it starts (R229, R261). -/
def State.rsSetup (s : State) (c : Cmd) : Except EStop (State × Setup) :=
  let d := c.desc.toNat
  let vbase := field d 256 64
  let array := s.arrayPlace c vbase c.primBytes
  let body := (if vbase % 4 != 0 || array.isNone then [4] else []) ++
    (if 8 < rsAttrs d then [5] else []) ++ (rsvWord d 358 384).toList ++ (rsvWord d 448 512).toList
  match rejectAt (c.headerFaults ++ body) with
  | some x => .ok (s, .reject x)
  | none =>
    match s.tensorsOf c [(c.hc.toNat % 2 ^ 32, 0xFF)] with
    | .error e => .error e
    | .ok (s1, .error detail) => .ok (s1, .reject detail)
    | .ok (s1, .ok [t]) =>
      let need := if c.isTri then max (rsAttrs d) 1 else rsAttrs d + 1
      if t.ext.length ≠ 3 ∨ t.ew ≠ 32 ∨ t.ext.headD 0 < need then .ok (s1, .reject 0xFF)
      else .ok (s1, .go [t] (t.span true :: (array.map fun p => { write := false, cl := p.1, base := p.2, len := c.primBytes : MemSpan }).toList))
    | .ok (s1, .ok _) => .ok (s1, .reject 0xFF)

/-- Items of a raster command: every pixel of the target for every primitive, in index order. -/
def Cmd.rsItems (c : Cmd) : Nat :=
  match c.tens with
  | [t] => rsCount c.desc.toNat * (t.ext.getD 1 0 * t.ext.getD 2 0)
  | _ => 0

/-! ## Triangles (R262 to R264) -/

/-- A coordinate snapped to 24.8 fixed point, or none where it discards its triangle (R262). -/
def snap (x : Num) : Option Int :=
  match x with
  | .fin neg m e =>
    let v : Nat := (roundAt false m (e + 8) 0 0).1
    let i : Int := if neg then -(v : Int) else (v : Int)
    if -2 ^ 31 ≤ i ∧ i ≤ 2 ^ 31 - 1 then some i else none
  | _ => none

/-- A vertex: snapped x and y, and its attributes. -/
structure Vertex where
  x : Int
  y : Int
  attrs : List Num

/-- Vertex j of a triangle's words (R262). -/
def vertexOf (ws : List Num) (n j : Nat) : Option Vertex :=
  let w := ws.drop (j * (2 + n))
  match snap (w.getD 0 (.fin false 0 0)), snap (w.getD 1 (.fin false 0 0)) with
  | some x, some y => some { x := x, y := y, attrs := (w.drop 2).take n }
  | _, _ => none

/-- The doubled area (R263). -/
def areaOf (a b c : Vertex) : Int := (b.x - a.x) * (c.y - a.y) - (c.x - a.x) * (b.y - a.y)
/-- The edge function of a sample (R263). -/
def edge (a b : Vertex) (px py : Int) : Int := (b.x - a.x) * (py - a.y) - (b.y - a.y) * (px - a.x)
/-- A sample lies inside an edge, or on one that owns its samples (R263). -/
def edgeCovers (a b : Vertex) (px py : Int) : Bool :=
  let e := edge a b px py
  0 < e || (e == 0 && (b.y - a.y < 0 || (b.y - a.y == 0 && 0 < b.x - a.x)))

/-- The triangle as it is drawn: positive area, or discarded (R263). -/
def orient (cull : Bool) : Option Vertex → Option Vertex → Option Vertex → Option (Vertex × Vertex × Vertex)
  | some a, some b, some c =>
    let area := areaOf a b c
    if area = 0 then none else if area < 0 then (if cull then none else some (a, c, b)) else some (a, b, c)
  | _, _, _ => none

/-- The exact quotient of two integers as a number, rounded once to fp32 (R264). -/
def ratio32 (a b : Int) : Num := rnd32 (numDiv (numOfInt a) (numOfInt b)).1

/-- The attribute values of a covered sample (R264). -/
def interpolate (t : Vertex × Vertex × Vertex) (px py : Int) (n : Nat) : List Num :=
  let (a, b, c) := t
  let area := areaOf a b c
  let l1 := ratio32 (edge c a px py) area
  let l2 := ratio32 (edge a b px py) area
  (List.range n).map fun i =>
    let z := Num.fin false 0 0
    let a0 := a.attrs.getD i z
    let d1 := rSub (b.attrs.getD i z) a0
    let d2 := rSub (c.attrs.getD i z) a0
    rFma l2 d2 (rFma l1 d1 a0)

/-- Channel writes of one pixel. -/
def pixelWrites (t : Tensor) (col row : Nat) (vs : List Num) : List EWrite :=
  vs.zipIdx.map fun p => t.eltWrite (t.lin [p.2, col, row]) (bits32 p.1) 0

/-- One triangle at one pixel of the target (R262 to R264). -/
def State.triPixel (s : State) (c : Cmd) (t : Tensor) (ws : List Num) (col row : Nat) (first : Bool) : Except EStop EItem :=
  let d := c.desc.toNat
  let n := rsAttrs d
  match orient (bitOf d 357) (vertexOf ws n 0) (vertexOf ws n 1) (vertexOf ws n 2) with
  | none => .ok (.put [] (b2n first))
  | some tri =>
    let px := 256 * (rsX0 d + (col : Int)) + 128
    let py := 256 * (rsY0 d + (row : Int)) + 128
    let (v0, v1, v2) := tri
    if !(edgeCovers v0 v1 px py && edgeCovers v1 v2 px py && edgeCovers v2 v0 px py) then .ok (.put [])
    else if n = 0 then .ok (.put (pixelWrites t col row [numOfInt 1]))
    else
      let vs := interpolate tri px py n
      if !bitOf d 356 then .ok (.put (pixelWrites t col row vs))
      else match s.eltRead c t (t.lin [0, col, row]) with
      | .error e => .error e
      | .ok z => if ieeeLt (vs.headD (.fin false 0 0)) (fmtFp32.decode z) then .ok (.put (pixelWrites t col row vs)) else .ok (.put [])

/-! ## Splats (R265) -/

/-- The channels of a pixel, in order. -/
def State.channels (s : State) (c : Cmd) (t : Tensor) (col row : Nat) : Nat → Except EStop (List Num)
  | 0 => .ok []
  | n + 1 =>
    match s.channels c t col row n with
    | .error e => .error e
    | .ok vs => match s.eltRead c t (t.lin [n, col, row]) with
      | .error e => .error e
      | .ok v => .ok (vs ++ [fmtFp32.decode v])

/-- x ≥ 2^-n under IEEE comparison. -/
def atLeastPow (x : Num) (n : Int) : Bool := !x.isNaN && !numLt x (.fin false 1 (-n))

/-- ALPHA of a splat at a pixel centre (R265). -/
def splatAlpha (ws : List Num) (px py : Int) : Num :=
  let w := fun (i : Nat) => ws.getD i (.fin false 0 0)
  let half := fun (p : Int) => (numAdd (numOfInt p) (.fin false 1 (-1)) 0).1
  let dx := rSub (half px) (w 0)
  let dy := rSub (half py) (w 1)
  let u := rMul dx dx
  let v := rMul dx dy
  let ww := rMul dy dy
  let two := numOfInt 2
  let q1 := rMul (w 2) u
  let q2 := rnd32 (numAdd (numMul (numMul two (w 3)).1 v).1 q1 0).1
  let q := rFma (w 4) ww q2
  rMul (w 5) (rnd32 (numExp2 q.negate).1)

/-- One splat at one pixel of the target (R265). -/
def State.splatPixel (s : State) (c : Cmd) (t : Tensor) (ws : List Num) (col row : Nat) (first : Bool) : Except EStop EItem :=
  let d := c.desc.toNat
  let n := rsAttrs d
  if (ws.take 6).any Num.isNaN then .ok (.put [] (b2n first))
  else match s.channels c t col row (n + 1) with
  | .error e => .error e
  | .ok ch =>
    let tr := ch.getD n (.fin false 0 0)
    let alpha := splatAlpha ws (rsX0 d + (col : Int)) (rsY0 d + (row : Int))
    if !(atLeastPow alpha 8) || !(atLeastPow tr 14) then .ok (.put [])
    else
      let g := rMul tr alpha
      let vs := (List.range n).map fun i => rFma g (ws.getD (6 + i) (.fin false 0 0)) (ch.getD i (.fin false 0 0))
      .ok (.put (pixelWrites t col row (vs ++ [rSub tr g])))

/-- Item i of a raster command: primitive i / pixels at pixel i mod pixels, columns fastest. -/
def State.rsItem (s : State) (c : Cmd) (i : Nat) : Except EStop EItem :=
  match c.tens with
  | [t] =>
    let w := t.ext.getD 1 1
    let pixels := w * t.ext.getD 2 1
    let prim := i / pixels
    let px := i % pixels
    let n := c.primWords
    let at_ := (s.arrayPlace c (field c.desc.toNat 256 64) c.primBytes).getD (none, field c.desc.toNat 256 64)
    (match s.eRead c at_.1 (at_.2 + 4 * n * prim) (4 * n) with
     | .error e => .error e
     | .ok bs =>
       let x := ofBytes bs
       let ws := (List.range n).map fun j => fmtFp32.decode (field x (32 * j) 32)
       if c.isTri then s.triPixel c t ws (px % w) (px / w) (px == 0)
       else s.splatPixel c t ws (px % w) (px / w) (px == 0))
  | _ => .ok (.put [])

end Sys2Proof.Machine
end

