-- ==== Sys2Proof/Machine/Matrix.lean ====
section
/-!
DEFINITION. The tile sequencer: records and their checks (08 R242 to R244), the summation order of the matrix engine
(03 R66 to R75), the gather of a step (15 R421), block sums (R246), accumulator conversion (R247) and `ewise` (R248).
-/

namespace Sys2Proof.Machine

/-! ## Record fields (R243) -/

def recM (d : Nat) : Nat := field d 64 8 + 1
def recN (d : Nat) : Nat := field d 72 8 + 1
def recKstep (d : Nat) : Nat := field d 80 16
def recNstep (d : Nat) : Nat := field d 96 16
def recRing (d : Nat) : Nat := field d 112 8
def recFunc (d : Nat) : Nat := field d 120 8
def recAcmo (d : Nat) : Nat := field d 128 16
def recAslot (d : Nat) : Nat := field d 160 32
def recBslot (d : Nat) : Nat := field d 192 32
def recAbase (d : Nat) : Nat := field d 224 64
def recBbase (d : Nat) : Nat := field d 288 64
def recWbase (d : Nat) : Nat := field d 352 64
def recSA (d : Nat) : Nat := field d 416 32
def recSB (d : Nat) : Nat := field d 448 32
def recOpitch (d : Nat) : Nat := field d 480 32
/-- The format slot that DT named at the post (R242). -/
def Cmd.dtSlot (c : Cmd) : Nat := match engineWord c.word with | some f => f.dt.toNat | none => 0

/-- The slots of a record: FS(DT), FS(SLB) and FS(SLO). -/
def State.recSlots (s : State) (c : Cmd) : Nat × Nat × Nat :=
  match s.launches[c.launch]? with
  | some l => (l.slot c.dtSlot, l.slot (field c.desc.toNat 8 3), l.slot (field c.desc.toNat 11 3))
  | none => (0, 0, 0)

/-- The record writes through FS(SLO): `cvacc` and CONVERT. -/
def Cmd.usesSlo (c : Cmd) : Bool := c.op == 3 || (c.op == 4 && recFunc c.desc.toNat == 0)

/-- R242: the slots of a record fault. -/
def State.slotsFault (s : State) (c : Cmd) : Bool :=
  let (a, b, o) := s.recSlots c
  slotInvalid b || slotFmt b != slotFmt a || slotSmode b != slotSmode a || slotBlk b != slotBlk a ||
  (c.usesSlo && slotInvalid o)

/-- The bytes of one row of KSTEP elements, of its affine pairs and of its block sums (R244). -/
def rowBytes (slot kstep : Nat) : Nat := kstep * fmtWidth (slotFmt slot) / 8
def pairBytes (slot kstep : Nat) : Nat := if slotSmode slot = 2 then 2 * (kstep / blkLen (slotBlk slot)) else 0
def sumBytes (slot kstep : Nat) : Nat :=
  if slotSmode slot = 2 && fmtIsInt (slotFmt slot) then 4 * (kstep / blkLen (slotBlk slot)) else 0
/-- Where the block sums of a slot of `rows` rows start (R244). -/
def sumsAt (slot kstep rows : Nat) : Nat := (rows * (rowBytes slot kstep + pairBytes slot kstep) + 3) / 4 * 4
/-- The bytes that a ring slot holds (R244). -/
def slotNeed (slot kstep rows : Nat) : Nat :=
  if sumBytes slot kstep = 0 then rows * (rowBytes slot kstep + pairBytes slot kstep)
  else sumsAt slot kstep rows + rows * sumBytes slot kstep

/-- The bytes of an output or input of M rows of N elements of width w with a pitch. -/
def tileBytes (m n w pitch : Nat) : Nat := (m - 1) * pitch + (n * w + 7) / 8

/-- A field of a record that its operation does not use, as bit and width (R243; log entry 19). -/
def unusedFields (op func sel : Nat) : List (Nat × Nat) :=
  let always := [(19, 1), (30, 2), (144, 16)]
  let slo := (11, 3)
  let loop := [(20, 4), (24, 1), (25, 4), (29, 1), (80, 16), (96, 16), (112, 8), (352, 64)]
  let scales := [(416, 32), (448, 32)]
  let a := [(14, 1), (64, 8), (160, 32), (224, 64)]
  let b := [(15, 1), (72, 8), (192, 32), (288, 64)]
  always ++
  (if op = 1 ∨ op = 2 then [slo, (17, 1), (18, 1), (120, 8), (480, 32)] ++ scales
   else if op = 3 then [(14, 1), (16, 1), (18, 1), (120, 8), (160, 32), (192, 32), (224, 64)] ++ loop
   else if op = 4 then
     [(16, 1), (17, 1), (18, 1), (192, 32)] ++ loop ++
     (if func = 0 then [(128, 16)]
      else [slo, (15, 1), (160, 32), (288, 64), (448, 32), (480, 32)] ++
        (if func = 1 then [(416, 32)] else [(14, 1), (224, 64)] ++ (if func = 2 then [(416, 32)] else [])))
   else if op = 5 then
     [slo, (16, 1), (17, 1), (120, 8), (128, 16), (480, 32)] ++ scales ++ (if sel = 0 then b else a)
   else
     [slo, (14, 1), (15, 1), (16, 1), (17, 1), (18, 1), (24, 1), (25, 4), (29, 1), (64, 8), (72, 8), (80, 16), (96, 16),
      (112, 8), (120, 8), (128, 16), (160, 32), (192, 32), (224, 64), (288, 64), (480, 32)] ++ scales ++
     (if op = 6 then [(20, 4), (352, 64)] else []))

/-- The bytes of a ring from its base (R244). -/
def ringBytes (ring slotB need : Nat) : Nat := (ring - 1) * slotB + need

/-- The spans that a record names: space bit, address, length, and whether it writes them. -/
def State.recSpans (s : State) (c : Cmd) : List (Bool × Nat × Nat × Bool) :=
  let d := c.desc.toNat
  let (fa, _, fo) := s.recSlots c
  let m := recM d
  let n := recN d
  let asp := bitOf d 14
  let bsp := bitOf d 15
  let ringA := (asp, recAbase d, ringBytes (recRing d) (recAslot d) (slotNeed fa (recKstep d) m), c.op == 5)
  let ringB := (bsp, recBbase d, ringBytes (recRing d) (recBslot d) (slotNeed fa (recKstep d) n), c.op == 5)
  let out := (bsp, recBbase d, tileBytes m n (fmtWidth (slotFmt fo)) (recOpitch d), true)
  if c.op = 1 ∨ c.op = 2 then [ringA, ringB]
  else if c.op = 5 then (if bitOf d 18 then [ringB] else [ringA])
  else if c.op = 3 then [out]
  else if c.op = 4 then
    (if recFunc d = 0 then [(asp, recAbase d, tileBytes m n (fmtWidth (slotFmt fa)) (recAslot d), false), out]
     else if recFunc d = 1 then [(asp, recAbase d, 4 * n, false)] else [])
  else []

/-- An output row that does not begin a whole group of R62: element size, or 3 bytes from the output's start. -/
def groupFault (w base pitch m : Nat) : Bool :=
  if w = 6 then decide (1 < m) && pitch % 3 != 0
  else if 8 < w then base % (w / 8) != 0 || (decide (1 < m) && pitch % (w / 8) != 0)
  else false

/-- R243, R246 to R248: a record that is rejected, its slots being in order. -/
def State.recFaulty (s : State) (c : Cmd) : Bool :=
  let d := c.desc.toNat
  let (fa, _, fo) := s.recSlots c
  let sel := field d 18 1
  let loop := c.op == 1 || c.op == 2 || c.op == 5
  let useA := c.op == 1 || c.op == 2 || (c.op == 5 && sel == 0)
  let useB := c.op == 1 || c.op == 2 || (c.op == 5 && sel == 1)
  let bl := blkLen (slotBlk fa)
  let outW := fmtWidth (slotFmt fo)
  let convert := c.op == 4 && recFunc d == 0
  c.op == 0 || 7 < c.op || (unusedFields c.op (recFunc d) sel).any (fun f => field d f.1 f.2 != 0) ||
  c.preds.any (fun p => p != 0 && decide (c.seq ≤ p)) ||
  (c.hasRegion && decide (65536 < c.region.1 + c.region.2)) ||
  (loop && (recKstep d == 0 || recKstep d % 32 != 0 || (slotSmode fa == 2 && recKstep d % bl != 0) || recNstep d == 0 ||
    recRing d == 0)) ||
  (useA && decide (recAslot d < slotNeed fa (recKstep d) (recM d))) ||
  (useB && decide (recBslot d < slotNeed fa (recKstep d) (recN d))) ||
  (c.op == 5 && !(slotSmode fa == 2 && fmtIsInt (slotFmt fa))) ||
  (c.op == 4 && 3 < recFunc d) || (c.op == 4 && recFunc d == 3 && slotAccInt fa) ||
  (convert && (slotSmode fa == 2 || slotSmode fo == 2)) ||
  (c.usesSlo && groupFault outW (recBbase d) (recOpitch d) (recM d)) ||
  (s.recSpans c).any fun x => (s.ePlace c x.1 x.2.1 x.2.2.1).isNone

/-- What a record touches, with its places resolved (R233, R310). -/
def State.recTouch (s : State) (c : Cmd) : List MemSpan :=
  (s.recSpans c).filterMap fun x =>
    (s.ePlace c x.1 x.2.1 x.2.2.1).map fun p => { write := x.2.2.2, cl := p.1, base := p.2, len := x.2.2.1 }

/-! ## Reductions (R71 to R74) -/

/-- The exact sum of values, where an exact zero is +0 and the specials of R72 take precedence. -/
def exactSum (xs : List Num) : Num :=
  match xs.foldl (fun a x => (numAdd a x 0).1) (.fin false 0 0) with
  | .fin neg m e => if m = 0 then .fin false 0 0 else .fin neg m e
  | x => x

/-- A row or column of a step: its decoded elements, its codes, its affine pairs and block sums. -/
structure Operand where
  nums  : List Num
  codes : List Nat
  pairs : List Nat
  sums  : List Int

/-- The operand that a gathered row holds: KSTEP elements, then pairs, then sums (R244). -/
def operandOf (slot kstep : Nat) (ownsum : Bool) (row : List Byte) : Operand :=
  let w := fmtWidth (slotFmt slot)
  let rb := rowBytes slot kstep
  let x := ofBytes (row.take rb)
  let codes := (List.range kstep).map fun i => (x >>> (w * i)) % 2 ^ w
  let nb := if slotSmode slot = 2 then kstep / blkLen (slotBlk slot) else 0
  let y := ofBytes ((row.drop rb).take (2 * nb))
  let z := ofBytes (row.drop (rb + 2 * nb))
  let bl := blkLen (slotBlk slot)
  let raw := fun (q : Nat) => if fmtSigned (slotFmt slot) then sgn w q else (q : Int)
  let own := fun (b : Nat) => (((codes.drop (b * bl)).take bl).map raw).foldl (· + ·) 0
  { nums := codes.map (decodeCode (slotFmt slot)), codes := codes,
    pairs := (List.range nb).map fun b => field y (16 * b) 16,
    sums := (List.range nb).map fun b => if ownsum then own b else sgn 32 (field z (32 * b) 32) }

/-- The accumulator after a step with the record's SAT and BADSCALE (R67, R74). -/
structure AccVal where
  c   : Nat
  sat : Bool
  bad : Bool

/-- R71: fp32 operands. -/
def reduceFp32 (a b : Operand) (c : Nat) : Nat :=
  (a.nums.zip b.nums).foldl (fun c p => fp32Fma p.1 p.2 (fmtFp32.decode c)) c

/-- R72: groups of 16 exact products; `n` groups are left. -/
def reduceGroups (a b : List Num) (c : Nat) : Nat → Nat
  | 0 => c
  | n + 1 =>
    let g := exactSum (((a.take 16).zip (b.take 16)).map fun p => (numMul p.1 p.2).1)
    reduceGroups (a.drop 16) (b.drop 16) (fp32Add (roundF g fmtFp32 0 1).1 c) n

/-- The value of block j before scaling (R69, R73). -/
def blockValue (fmt bl : Nat) (a b : Operand) (j : Nat) : Num :=
  let cut := fun {α : Type} (l : List α) => (l.drop (j * bl)).take bl
  if fmtIsInt fmt then
    let raw := fun (q : Nat) => if fmtSigned fmt then sgn (fmtWidth fmt) q else (q : Int)
    let sab := ((cut a.codes).zip (cut b.codes)).foldl (fun (t : Int) p => t + raw p.1 * raw p.2) 0
    let za := sgn 8 (field (a.pairs.getD j 0) 8 8)
    let zb := sgn 8 (field (b.pairs.getD j 0) 8 8)
    numOfInt (sab - zb * a.sums.getD j 0 - za * b.sums.getD j 0 + (bl : Int) * za * zb)
  else exactSum (((cut a.nums).zip (cut b.nums)).map fun p => (numMul p.1 p.2).1)

/-- R73: one affine-scaled block; a reserved scale contributes a NaN and sets BADSCALE (R67). -/
def reduceBlock (fmt bl : Nat) (a b : Operand) (x : AccVal) (j : Nat) : AccVal :=
  let sa := field (a.pairs.getD j 0) 0 8
  let sb := field (b.pairs.getD j 0) 0 8
  if sa = 0xFF ∨ sb = 0xFF then { x with c := 0x7FC00000, bad := true }
  else
    let v := rnd32 (blockValue fmt bl a b j)
    { x with c := fp32Fma v (numMul (ue4m4 sa) (ue4m4 sb)).1 (fmtFp32.decode x.c) }

/-- R74: integer and bin1 operands, saturating at each k. -/
def reduceInt (a b : Operand) (x : AccVal) : AccVal :=
  (a.nums.zip b.nums).foldl (fun x p =>
    let t := (numAdd (numMul p.1 p.2).1 (numOfInt (sgn 32 x.c)) 0).1
    let r := satI t 32 true 0
    { x with c := r.1, sat := x.sat || r.2 &&& flSAT != 0 }) x

/-- One step of the reduction of an accumulator element (R71 to R74). -/
def reduceStep (slot : Nat) (a b : Operand) (c : Nat) : AccVal :=
  let fmt := slotFmt slot
  let x : AccVal := { c := c, sat := false, bad := false }
  if slotSmode slot = 2 then
    (List.range a.pairs.length).foldl (reduceBlock fmt (blkLen (slotBlk slot)) a b) x
  else if slotAccInt slot then reduceInt a b x
  else if fmt = 1 then { x with c := reduceFp32 a b c }
  else { x with c := reduceGroups a.nums b.nums c ((a.nums.length + 15) / 16) }

/-! ## Steps (R245, R246, R421) -/

/-- The base of a ring slot for the record's current step, with its place: ring A or B (R244). -/
def State.slotPlace (s : State) (c : Cmd) (b : Bool) : Option (Option Nat × Nat) :=
  let d := c.desc.toNat
  let (fa, _, _) := s.recSlots c
  let i := c.step % recRing d
  if b then s.ePlace c (bitOf d 15) (recBbase d + i * recBslot d) (slotNeed fa (recKstep d) (recN d))
  else s.ePlace c (bitOf d 14) (recAbase d + i * recAslot d) (slotNeed fa (recKstep d) (recM d))

/-- The rows that a step gathers, in order: rows of A, then columns of B; `rsum` takes one ring (R421). -/
def Cmd.stepRows (c : Cmd) : List (Bool × Nat) :=
  let d := c.desc.toNat
  let ra := (List.range (recM d)).map fun i => (false, i)
  let rb := (List.range (recN d)).map fun i => (true, i)
  if c.op = 5 then (if bitOf d 18 then rb else ra) else ra ++ rb

/-- Reads one row of a slot: its elements, pairs and, where the record takes them from the slot, block sums. -/
def State.gatherRow (s : State) (c : Cmd) (r : Bool × Nat) : Except EStop (List Byte) :=
  let d := c.desc.toNat
  let (fa, _, _) := s.recSlots c
  let ks := recKstep d
  let rows := if r.1 then recN d else recM d
  match s.slotPlace c r.1 with
  | none => .ok []
  | some (g, base) =>
    let rb := rowBytes fa ks
    let pb := pairBytes fa ks
    let sb := sumBytes fa ks
    match s.eRead c g (base + r.2 * rb) rb with
    | .error e => .error e
    | .ok x =>
      if c.op = 5 ∨ pb = 0 then .ok x
      else match s.eRead c g (base + rows * rb + r.2 * pb) pb with
      | .error e => .error e
      | .ok y =>
        if bitOf d 16 || sb = 0 then .ok (x ++ y)
        else match s.eRead c g (base + sumsAt fa ks rows + r.2 * sb) sb with
        | .error e => .error e
        | .ok z => .ok (x ++ y ++ z)

/-- Gathers the remaining rows of a step; rows already gathered are kept at a stop (R421). -/
def State.gather (s : State) (k : Nat) (c : Cmd) : List (Bool × Nat) → List (List Byte) → State × Option EStop
  | [], acc => (s.setCmd k fun x => { x with rows := acc }, none)
  | r :: rs, acc =>
    match s.gatherRow c r with
    | .error e => (s.setCmd k fun x => { x with rows := acc }, some e)
    | .ok row => s.gather k c rs (acc ++ [row])

/-- The accumulator elements after a step of `mm` or `mmz` (R245). -/
def State.mmApply (s : State) (k : Nat) (c : Cmd) : State :=
  let d := c.desc.toNat
  let (fa, _, _) := s.recSlots c
  let own := bitOf d 16
  let ops := c.rows.map (operandOf fa (recKstep d) own)
  let n := recN d
  let none_ : Operand := { nums := [], codes := [], pairs := [], sums := [] }
  let cl := s.clusters.getD c.cl (Cluster.reset c.cl)
  let vals := (List.range (recM d * n)).map fun i =>
    (recAcmo d + i, reduceStep fa (ops.getD (i / n) none_) (ops.getD (recM d + i % n) none_) (cl.acmGet (recAcmo d + i)))
  let s1 := vals.foldl (fun st v => st.acmSet c.cl v.1 v.2.c) s
  s1.setCmd k fun x => { x with sat := x.sat || vals.any (fun v => v.2.sat), badscale := x.badscale || vals.any fun v => v.2.bad }

/-- The block sums that an `rsum` step writes (R244, R246). -/
def State.rsumWrites (s : State) (c : Cmd) : List EWrite :=
  let d := c.desc.toNat
  let (fa, _, _) := s.recSlots c
  let ks := recKstep d
  let b := bitOf d 18
  match s.slotPlace c b with
  | none => []
  | some (g, base) =>
    let start := base + sumsAt fa ks (if b then recN d else recM d)
    let nb := ks / blkLen (slotBlk fa)
    (List.range c.rows.length).flatMap fun r =>
      (operandOf fa ks true (c.rows.getD r [])).sums.zipIdx.map fun p =>
        { g := g, a := start + 4 * (r * nb + p.2), off := 0, bits := 32, val := wrap 32 p.1, cnt := 0, post := .none }

/-- The end of a step as the last of its writes. -/
def stepMark : EWrite := { g := none, a := 0, off := 0, bits := 0, val := 0, cnt := 0, post := .step }

/-- The locks of a step: read locks on scratch slots, or a write lock on the slot that `rsum` writes (R310). -/
def State.stepLocks (s : State) (c : Cmd) : List (Nat × Nat × Bool) :=
  let d := c.desc.toNat
  let (fa, _, _) := s.recSlots c
  let one := fun (b : Bool) => match s.slotPlace c b with
    | some (some cl, base) =>
      [{ write := c.op == 5, cl := some cl, base := base,
         len := slotNeed fa (recKstep d) (if b then recN d else recM d) : MemSpan }]
    | _ => []
  lockWants (if c.op = 5 then one (bitOf d 18) else one false ++ one true)

/-- The counter that a step waits for has come (R245). -/
def State.stepDue (s : State) (c : Cmd) : Bool :=
  let d := c.desc.toNat
  !bitOf d 24 || decide (recWbase d + c.step ≤ s.tlcVal c.launch (field d 20 4))

/-- A slot of the step reaches a bank that is no longer in SCRATCH (R301). -/
def State.slotLost (s : State) (c : Cmd) : Bool :=
  if c.op = 5 then (s.slotPlace c (bitOf c.desc.toNat 18)).isNone
  else (s.slotPlace c false).isNone || (s.slotPlace c true).isNone

/-- The sums of an `rsum` step and its end: all of them, or none where one cannot be written; its row is kept (R246,
R420, R421). -/
def State.rsumEnd (s : State) (k : Nat) (c : Cmd) : State × Option EStop :=
  let ws := s.rsumWrites c
  match s.drainTodo k (ws ++ [stepMark]) with
  | (s1, none) => (s1, none)
  | (s1, some e) =>
    let left := match s1.cmds[k]? with | some x => x.todo.length | none => 0
    let perRow := recKstep c.desc.toNat / blkLen (slotBlk (s.recSlots c).1)
    (s.setCmd k fun x => { x with prog := (ws.length + 1 - left) / perRow }, some e)

/-- One step of a started `mm`, `mmz` or `rsum`, from its wait and locks to FTLC; what stops it stays with the record
(R245, R246, R301, R310, R421). -/
def State.recStep (s : State) (k : Nat) (c : Cmd) : State × Option EStop :=
  if !s.stepDue c then (s, none)
  else match s.tryLocks k (s.stepLocks c) with
  | (s1, false) => (s1, none)
  | (s1, true) =>
    if s1.slotLost c then (s1.rejectCmd k 0, none)
    else match s1.gather k c (c.stepRows.drop c.rows.length) c.rows with
    | (s2, some e) => (s2, some e)
    | (s2, none) =>
      match s2.cmds[k]? with
      | none => (s2, none)
      | some c2 =>
        if c2.op = 5 then s2.rsumEnd k c2
        else (s2.mmApply k c2).drainTodo k [stepMark]

/-! ## `cvacc` and `ewise` (R75, R247, R248) -/

/-- R75: an accumulator element as the output slot's code. -/
def cvaccCode (fa fo sa sb c : Nat) : Nat :=
  let acc := if slotAccInt fa then numOfInt (sgn 32 c) else fmtFp32.decode c
  if slotSmode fa = 1 then
    let p := rMul (fmtFp32.decode sa) (fmtFp32.decode sb)
    (encodeSlot fo (rMul (rnd32 acc) p)).1
  else (encodeSlot fo acc).1

/-- The accumulator element after BIAS, RELU or SCALE, with its conditions (R248). -/
def ewiseAcc (func fa sa beta c : Nat) : Flagged Nat :=
  if slotAccInt fa then
    (if func = 1 then satI (numOfInt (sgn 32 c + sgn 32 beta)) 32 true 0
     else (wrap 32 (max (sgn 32 c) 0), 0))
  else
    let x := fmtFp32.decode c
    if func = 1 then roundF (numAdd x (fmtFp32.decode beta) 0).1 fmtFp32 0 1
    else if func = 2 then (if x.isNaN then 0x7FC00000 else if numLt (.fin false 0 0) x then c else 0, 0)
    else roundF (numMul x (fmtFp32.decode sa)).1 fmtFp32 0 1

/-- The write of output element (m, n) of a record. -/
def State.outWrite (s : State) (c : Cmd) (m n val : Nat) (post : EPost) : List EWrite :=
  let d := c.desc.toNat
  let (_, _, fo) := s.recSlots c
  let w := fmtWidth (slotFmt fo)
  match s.ePlace c (bitOf d 15) (recBbase d) (tileBytes (recM d) (recN d) w (recOpitch d)) with
  | none => []
  | some (g, base) =>
    [{ g := g, a := base + m * recOpitch d + n * w / 8, off := n * w % 8, bits := w, val := val, cnt := 0, post := post }]

/-- Element i of a `cvacc` or `ewise` record, in row-major order: the state with the accumulator element changed, and
what is written (R247, R248). -/
def State.tileItem (s : State) (k : Nat) (c : Cmd) (i : Nat) : Except EStop (State × EItem) :=
  let d := c.desc.toNat
  let (fa, _, fo) := s.recSlots c
  let n := recN d
  let m := i / n
  let j := i % n
  let at_ := recAcmo d + i
  let cl := s.clusters.getD c.cl (Cluster.reset c.cl)
  let keep := fun (st : State) (fl : Nat) => st.setCmd k fun x => { x with flags := x.flags ||| BitVec.ofNat 32 fl }
  if c.op = 3 then
    .ok (s, .put (s.outWrite c m j (cvaccCode fa fo (recSA d) (recSB d) (cl.acmGet at_))
      (if bitOf d 17 then .zero at_ else .none)))
  else if recFunc d = 0 then
    let w := fmtWidth (slotFmt fa)
    match s.ePlace c (bitOf d 14) (recAbase d) (tileBytes (recM d) n w (recAslot d)) with
    | none => .ok (s, .put [])
    | some (g, base) =>
      match s.eRead c g (base + m * recAslot d + j * w / 8) ((j * w % 8 + w + 7) / 8) with
      | .error e => .error e
      | .ok bs =>
        let code := (ofBytes bs >>> (j * w % 8)) % 2 ^ w
        let f := convFrom fa code (recSA d)
        let q := convTo fo f.1 (recSB d)
        .ok (s, .put (s.outWrite c m j q.1 (.flags (f.2 ||| q.2))))
  else
    let beta : Except EStop Nat :=
      if recFunc d = 1 then
        (match s.ePlace c (bitOf d 14) (recAbase d) (4 * n) with
         | none => .ok 0
         | some (g, base) => (match s.eRead c g (base + 4 * j) 4 with | .error e => .error e | .ok bs => .ok (ofBytes bs)))
      else .ok 0
    match beta with
    | .error e => .error e
    | .ok b =>
      let r := ewiseAcc (recFunc d) fa (recSA d) b (cl.acmGet at_)
      .ok (keep (s.acmSet c.cl at_ r.1) r.2, .put [])

end Sys2Proof.Machine
end

