-- ==== Sys2Proof/Machine/Traverse.lean ====
section
/-!
DEFINITION. The traversal unit (08 R253 to R260).
-/

namespace Sys2Proof.Machine

/-! ## Nodes (R253, R254) -/

/-- A hierarchy node or a query box. -/
structure Node where
  lo     : List Num
  hi     : List Num
  leaf   : Bool
  self   : Bool
  levels : Nat
  prim   : Nat
  kids   : List Nat

/-- An address that engines may not use for n bytes (R177, R306, R443), or that is not a multiple of `al`. -/
def badAddr (a n al : Nat) : Bool := a % al != 0 || decide (0x00FFFE0000000000 < a + n)

/-- The node of 64 bytes; none for a faulty one (R253). -/
def nodeOf (x : Nat) : Option Node :=
  let leaf := bitOf x 194
  let nch := field x 192 2
  let levels := field x 200 8
  let prim := field x 224 32
  let child := fun (i : Nat) => field x (256 + 64 * i) 64
  let bad :=
    field x 196 4 != 0 || field x 208 16 != 0 ||
    (if leaf then nch != 0 || levels != 0 || (List.range 4).any fun i => child i != 0
     else levels == 0 || prim != 0 || (List.range 4).any fun i =>
       if i ≤ nch then child i == 0 || badAddr (child i) 64 64 else child i != 0)
  let f := fun (i : Nat) => fmtFp32.decode (field x (32 * i) 32)
  if bad then none
  else some { lo := [f 0, f 1, f 2], hi := [f 3, f 4, f 5], leaf := leaf, self := bitOf x 195, levels := levels, prim := prim,
              kids := if leaf then [] else (List.range (nch + 1)).map child }

/-- A query box as a leaf (R257, R260). -/
def boxOf (x : Nat) : Node :=
  let f := fun (i : Nat) => fmtFp32.decode (field x (32 * i) 32)
  { lo := [f 0, f 1, f 2], hi := [f 3, f 4, f 5], leaf := true, self := false, levels := 0, prim := 0, kids := [] }

/-- a ≤ b under IEEE comparison. -/
def ieeeLe (a b : Num) : Bool := !a.isNaN && !b.isNaN && !numLt b a
/-- R254. -/
def boxesMeet (a b : Node) : Bool :=
  (List.range 3).all fun i =>
    ieeeLe (a.lo.getD i (.nan false)) (b.hi.getD i (.nan false)) && ieeeLe (b.lo.getD i (.nan false)) (a.hi.getD i (.nan false))

/-! ## Starting (R255 to R260) -/

/-- ROOTA, ROOTB, QHDR, CBASE, QCOUNT (R257). -/
def tvRootA (d : Nat) : Nat := field d 256 64
def tvRootB (d : Nat) : Nat := field d 320 64
def tvQhdr (d : Nat) : Nat := field d 384 64
def tvCbase (d : Nat) : Nat := field d 448 64
def tvQcount (d : Nat) : Nat := field d 512 32
def Cmd.isBox (c : Cmd) : Bool := match c.word with | .tvBox _ => true | _ => false
def Cmd.isResume (c : Cmd) : Bool := match c.word with | .tvResume _ => true | _ => false

/-- The output queue of a command: a header of R212 whose ring holds 16-byte entries (R229, R256). -/
def State.tvQueue (s : State) (c : Cmd) (x : Nat) : Option RingHdr :=
  match ringOf x, s.launches[c.launch]? with
  | some h, some l =>
    if h.base % 16 != 0 || decide (0x00FFFE0000000000 < h.base + 16 * h.cap) || (h.tlcen && l.tlcsrc h.tlc != 0) then none
    else some h
  | _, _ => none

/-- A descent over a queue. -/
def TvState.onQueue (h : RingHdr) (box selfq : Bool) (stack : List (Nat × Nat)) (rootA qbox qcnt : Nat) : TvState where
  stack := stack
  rseq := 0
  query := 0
  selfq := selfq
  rootA := rootA
  qbox := qbox
  qcnt := qcnt
  box := box
  pend := none
  qbase := h.base
  qcap := h.cap
  head := h.head
  qtail := h.tail
  tlc := if h.tlcen then some h.tlc else none
  tail := 0

/-- The pairs of a continuation's stack, bottom first. -/
def stackPairs (x n : Nat) : List (Nat × Nat) :=
  (List.range n).map fun i => (field x (128 * i) 64, field x (128 * i + 64) 64)

/-- What `tv.resume` takes from the continuation at CBASE, or a rejection at word 7 (R258, R259). -/
def State.tvContinue (s : State) (c : Cmd) (h : RingHdr) : Except EStop Setup :=
  let cb := tvCbase c.desc.toNat
  match s.eRead c none cb 64 with
  | .error e => .error e
  | .ok bs =>
    let x := ofBytes bs
    let box := field x 8 8 == 0x12
    let nstk := field x 64 32
    if field x 0 8 ≠ 1 ∨ !(box || field x 8 8 == 0x11) ∨ 4096 < nstk then .ok (.reject 7)
    else match s.eRead c none (cb + 64) (16 * nstk) with
    | .error e => .error e
    | .ok sb =>
      let ps := stackPairs (ofBytes sb) nstk
      let bad := ps.any (fun p => badAddr p.1 64 64 || (if box then badAddr p.2 24 4 else badAddr p.2 64 64)) ||
        (box && (badAddr (field x 288 64) 64 64 || badAddr (field x 352 64) (24 * field x 416 32) 4))
      if bad then .ok (.reject 7)
      else
        let t := TvState.onQueue h box (bitOf x 17) ps.reverse (field x 288 64) (field x 352 64) (field x 416 32)
        .ok (.descend { t with rseq := field x 96 32, query := field x 256 32,
                               pend := if bitOf x 16 then some (BitVec.ofNat 128 (field x 128 128)) else none }
          [{ g := none, a := cb, off := 0, bits := 8, val := 2, cnt := 0, post := .none }])

/-- The checks of a traversal command when it starts, in the order of its descriptor (R229, R256, R257, R259). -/
def State.tvSetup (s : State) (c : Cmd) : Except EStop (State × Setup) :=
  let d := c.desc.toNat
  let low := c.headerFaults ++
    (if c.isResume then [] else
      (if badAddr (tvRootA d) 64 64 then [4] else []) ++
      (if (if c.isBox then badAddr (tvRootB d) (24 * tvQcount d) 4 else badAddr (tvRootB d) 64 64) then [5] else []))
  let high := (if badAddr (tvCbase d) 65600 64 then [7] else []) ++
    (if c.isBox && tvQcount d == 0 then [8] else []) ++ (rsvWord d 544 1024).toList
  match rejectAt low with
  | some x => .ok (s, .reject x)
  | none =>
    if badAddr (tvQhdr d) 64 64 then .ok (s, .reject 6)
    else match s.eRead c none (tvQhdr d) 64 with
    | .error e => .error e
    | .ok bs =>
      match s.tvQueue c (ofBytes bs) with
      | none => .ok (s, .reject 6)
      | some h =>
        match rejectAt high with
        | some x => .ok (s, .reject x)
        | none =>
          if c.isResume then (match s.tvContinue c h with | .error e => .error e | .ok r => .ok (s, r))
          else
            let a := tvRootA d
            let b := tvRootB d
            .ok (s, .descend (TvState.onQueue h c.isBox (!c.isBox && a == b) [(a, b)] a b (tvQcount d)) [])

/-! ## The descent (R255, R256, R258, R260) -/

/-- The advance of TAIL over the records written since the last, with the counter of TLCEN (R256). -/
def TvState.release (t : TvState) (qhdr : Nat) : List EWrite :=
  if t.tail = 0 then []
  else
    { g := none, a := qhdr + 24, off := 0, bits := 64, val := t.qtail % 2 ^ 64, cnt := 0, post := .tail t.tail } ::
    (match t.tlc with
     | some c => [{ g := none, a := 0, off := 0, bits := 0, val := 0, cnt := 0, post := .tlc c t.tail }]
     | none => [])

/-- A record of the output queue (R256). -/
def tvRecord (ida idb : Nat) (swapped selfpair : Bool) (rseq : Nat) : BitVec 128 :=
  BitVec.ofNat 128 (ida % 2 ^ 32 + putAt (idb % 2 ^ 32) 32 + putAt (b2n swapped) 64 + putAt (b2n selfpair) 65 +
    putAt (rseq % 2 ^ 32) 96)

/-- The continuation of a descent (R258). -/
def TvState.continuation (t : TvState) (cb : Nat) (rec_ : BitVec 128) : List EWrite :=
  let put := fun (a bits val : Nat) => ({ g := none, a := a, off := 0, bits := bits, val := val, cnt := 0, post := .none } : EWrite)
  let hdr := 1 + putAt (if t.box then 0x12 else 0x11) 8 + putAt 1 16 + putAt (b2n t.selfq) 17 +
    putAt t.stack.length 64 + putAt (t.rseq % 2 ^ 32) 96 + putAt rec_.toNat 128 +
    (if t.box then putAt (t.query % 2 ^ 32) 256 + putAt (t.rootA % 2 ^ 64) 288 + putAt (t.qbox % 2 ^ 64) 352 + putAt (t.qcnt % 2 ^ 32) 416
     else 0)
  (t.stack.reverse.zipIdx.map fun p => put (cb + 64 + 16 * p.2) 128 (p.1.1 % 2 ^ 64 + putAt (p.1.2 % 2 ^ 64) 64)) ++ [put cb 512 hdr]

/-- The pending record goes out, or the queue is full and the command overflows (R256, R258). -/
def State.tvEmit (s : State) (c : Cmd) (t : TvState) (rec_ : BitVec 128) : Except EStop EItem :=
  let d := c.desc.toNat
  let write := fun (t : TvState) =>
    let w : EWrite := { g := none, a := t.qbase + 16 * (t.qtail % t.qcap), off := 0, bits := 128, val := rec_.toNat, cnt := 1, post := .emit }
    EItem.mk [w] 0 (some t) none
  if t.qtail - t.head < t.qcap then .ok (write t)
  else match s.eRead c none (tvQhdr d + 16) 8 with
  | .error e => .error e
  | .ok bs =>
    let t1 := { t with head := ofBytes bs }
    if t1.qtail - t1.head < t1.qcap then .ok (write t1)
    else .ok (EItem.mk (t1.continuation (tvCbase d) rec_ ++ t1.release (tvQhdr d)) 0 (some t1) (some 3))

/-- The end of a command, with the last advance of TAIL (R256). -/
def TvState.finish (t : TvState) (qhdr code : Nat) : EItem := EItem.mk (t.release qhdr) 0 (some t) (some code)

/-- What a visited pair leads to: a pending record, or pairs to push (R255, R260). -/
def TvState.visit (t : TvState) (a b : Nat) (na nb : Node) (rest : List (Nat × Nat)) (qhdr : Nat) : EItem :=
  let go := fun (t : TvState) => EItem.mk [] 0 (some t) none
  let emit := fun (ida idb : Nat) (sw sp : Bool) =>
    go { t with stack := rest, pend := some (tvRecord ida idb sw sp t.rseq), rseq := (t.rseq + 1) % 2 ^ 32 }
  let push := fun (ps : List (Nat × Nat)) =>
    if 4096 < ps.length + rest.length then ({ t with stack := rest } : TvState).finish qhdr 6 else go { t with stack := ps ++ rest }
  if !boxesMeet na nb then go { t with stack := rest }
  else if na.leaf && nb.leaf then
    if t.box then emit na.prim t.query false false
    else if t.selfq && a == b then (if na.self then emit na.prim na.prim false true else go { t with stack := rest })
    else if t.selfq && decide (nb.prim < na.prim) then emit nb.prim na.prim true false
    else emit na.prim nb.prim false false
  else if t.selfq && a == b then
    let n := na.kids.length
    push ((List.range n).flatMap fun i => ((List.range n).drop i).map fun j => (na.kids.getD i 0, na.kids.getD j 0))
  else if nb.leaf || (!na.leaf && decide (nb.levels ≤ na.levels)) then push (na.kids.map fun x => (x, b))
  else push (nb.kids.map fun x => (a, x))

/-- One action of a traversal command: TAIL advances over 16 records, a record goes out, a pair is visited, the next query starts, or the command ends
(R253 to R260). -/
def State.tvItem (s : State) (c : Cmd) (t : TvState) : Except EStop EItem :=
  let qhdr := tvQhdr c.desc.toNat
  if 16 ≤ t.tail then .ok (EItem.mk (t.release qhdr) 0 (some t) none)
  else match t.pend with
  | some r => s.tvEmit c t r
  | none =>
    match t.stack with
    | [] =>
      if t.box && t.query + 1 < t.qcnt then
        .ok (EItem.mk [] 0 (some { t with query := t.query + 1, rseq := 0,
                                          stack := [(t.rootA, t.qbox + 24 * (t.query + 1))] }) none)
      else .ok (t.finish qhdr 0)
    | (a, b) :: rest =>
      match s.eRead c none a 64 with
      | .error e => .error e
      | .ok xa =>
        match s.eRead c none b (if t.box then 24 else 64) with
        | .error e => .error e
        | .ok xb =>
          match nodeOf (ofBytes xa), (if t.box then some (boxOf (ofBytes xb)) else nodeOf (ofBytes xb)) with
          | some na, some nb => .ok (t.visit a b na nb rest qhdr)
          | _, _ => .ok (({ t with stack := rest } : TvState).finish qhdr 6)

end Sys2Proof.Machine
end

