-- ==== Sys2Proof/Machine/Vision.lean ====
section
/-!
DEFINITION. The vision engine (08 R266 to R271).
-/

namespace Sys2Proof.Machine

/-! ## Descriptor (R266) -/

def vsOutV (d : Nat) : Nat := field d 256 32
def vsOutC (d : Nat) : Nat := field d 288 32
def vsInV (d : Nat) : Nat := field d 320 32
def vsInC (d : Nat) : Nat := field d 352 32
def vsDmin (d : Nat) : Nat := field d 384 8
def vsDm1 (d : Nat) : Nat := field d 392 8
def vsAgg (d : Nat) : Nat := field d 400 2
def vsCoarse (d : Nat) : Bool := bitOf d 402
def vsMode (d : Nat) : Nat := field d 403 1
def vsBs (d : Nat) : Nat := if bitOf d 404 then 16 else 8
def vsRad (d : Nat) : Nat := field d 405 4
def vsRR (d : Nat) : Nat := field d 409 4
def vsTh (d : Nat) : Nat := field d 416 16
/-- The three commands. -/
def Cmd.isRefine (c : Cmd) : Bool := match c.word with | .visRefine _ => true | _ => false
/-- The command matches disparities, not flow. -/
def Cmd.isDisp (c : Cmd) : Bool :=
  match c.word with | .visDisp _ => true | .visRefine _ => vsMode c.desc.toNat == 0 | _ => false

/-- Half, rounded up. -/
def half (n : Nat) : Nat := (n + 1) / 2
/-- n over b, rounded up. -/
def ceilDiv (n b : Nat) : Nat := (n + b - 1) / b

/-! ## Images (R266, R267) -/

/-- An image: width, height, pixels by row. -/
structure Image where
  w  : Nat
  h  : Nat
  px : Array Nat

/-- A pixel, with each coordinate clamped to the nearest edge. -/
def Image.at (im : Image) (x y : Int) : Nat :=
  let cx := (max 0 (min x ((im.w : Int) - 1))).toNat
  let cy := (max 0 (min y ((im.h : Int) - 1))).toNat
  im.px.getD (cy * im.w + cx) 0

/-- The image at quarter resolution (R267). -/
def Image.reduce (im : Image) : Image :=
  let w := half im.w
  let h := half im.h
  let p := fun (i : Nat) =>
    let x : Int := 2 * (i % w : Nat)
    let y : Int := 2 * (i / w : Nat)
    (im.at x y + im.at (x + 1) y + im.at x (y + 1) + im.at (x + 1) (y + 1) + 2) >>> 2
  { w := w, h := h, px := ((List.range (w * h)).map p).toArray }

/-- The census of a position (R267): bit n is 1 when neighbour n is less than the centre. -/
def Image.census (im : Image) (x y : Int) : Nat :=
  let c := im.at x y
  let offs := ((List.range 49).filter fun i => i != 24).map fun i => (((i % 7 : Nat) : Int) - 3, ((i / 7 : Nat) : Int) - 3)
  (offs.zipIdx.map fun o => if im.at (x + o.1.1) (y + o.1.2) < c then 2 ^ o.2 else 0).foldl (· + ·) 0

/-- The number of set bits of a 48-bit value. -/
def count48 (x : Nat) : Nat := ((List.range 48).filter fun i => bitOf x i).length

/-- A table of census values around an image, so that each is formed once: positions -m to w + m - 1. -/
structure CensusMap where
  im   : Image
  m    : Nat
  vals : Array Nat

/-- The census values of an image with a margin. -/
def Image.censusMap (im : Image) (m : Nat) : CensusMap :=
  let w := im.w + 2 * m
  { im := im, m := m,
    vals := ((List.range (w * (im.h + 2 * m))).map fun i =>
      im.census (((i % w : Nat) : Int) - m) (((i / w : Nat) : Int) - m)).toArray }
/-- The census of a position, from the table where it lies there. -/
def CensusMap.at (t : CensusMap) (x y : Int) : Nat :=
  let w := t.im.w + 2 * t.m
  let i := x + t.m
  let j := y + t.m
  if 0 ≤ i ∧ i < (w : Int) ∧ 0 ≤ j ∧ j < ((t.im.h + 2 * t.m : Nat) : Int) then t.vals.getD (j.toNat * w + i.toNat) 0
  else t.im.census x y

/-- The Hamming cost of two positions. -/
def hamming (b c : CensusMap) (xb yb xc yc : Int) : Nat := count48 (b.at xb yb ^^^ c.at xc yc)

/-! ## Winners (R268 to R270) -/

/-- The first candidate of lowest cost. -/
def bestOf {α : Type} : List (α × Nat) → Option (α × Nat)
  | [] => none
  | x :: xs => match bestOf xs with | some y => if y.2 < x.2 then some y else some x | none => some x
/-- The confidence: second-best less best, saturated; 0xFFFF without a second (R268). -/
def confidence (best : Nat) (others : List Nat) : Nat :=
  match others with
  | [] => 0xFFFF
  | x :: xs => min 0xFFFF (xs.foldl min x - best)
/-- The offset of the winner in sixteenths (R270). -/
def subPixel (c0 : Nat) (cm cp : Option Nat) : Int :=
  match cm, cp with
  | some a, some b =>
    let den : Int := (a : Int) - 2 * c0 + b
    if 0 < den then
      let num : Int := 8 * ((a : Int) - b)
      -- nearest integer to num / den, ties to even
      let q := Int.fdiv num den
      let r := num - q * den
      if 2 * r < den then q else if den < 2 * r then q + 1 else if q % 2 = 0 then q else q + 1
    else 0
  | _, _ => 0

/-- A disparity match at a pixel over the candidates d (R268, R270): value and confidence. -/
def matchDisp (b c : CensusMap) (agg : Nat) (ds : List Nat) (x y : Nat) : Nat × Nat :=
  let win := (List.range ((2 * agg + 1) * (2 * agg + 1))).map fun i =>
    (((i % (2 * agg + 1) : Nat) : Int) - agg, ((i / (2 * agg + 1) : Nat) : Int) - agg)
  let cost := fun (d : Nat) => (win.map fun o =>
    hamming b c ((x : Int) + o.1) ((y : Int) + o.2) ((x : Int) - d + o.1) ((y : Int) + o.2)).foldl (· + ·) 0
  let cs := (ds.filter fun d => decide (d ≤ x)).map fun d => (d, cost d)
  match bestOf cs with
  | none => (0x8000, 0)
  | some (d, k) =>
    let others := (cs.filter fun e => decide (e.1 + 2 ≤ d) || decide (d + 2 ≤ e.1)).map (·.2)
    let cm := if d = 0 then none else cs.lookup (d - 1)
    (wrap 16 (16 * (d : Int) + subPixel k cm (cs.lookup (d + 1))), confidence k others)

/-- A flow match of a block around a centre displacement within a radius (R269, R270): packed value and confidence. -/
def matchFlow (b c : CensusMap) (bs : Nat) (cx cy : Int) (rad : Nat) (bx bY : Nat) : Nat × Nat :=
  let cells := (List.range (bs * bs)).map fun i => (((bx * bs + i % bs : Nat) : Int), ((bY * bs + i / bs : Nat) : Int))
  let cost := fun (v : Int × Int) => (cells.map fun p => hamming b c p.1 p.2 (p.1 + v.1) (p.2 + v.2)).foldl (· + ·) 0
  let side := 2 * rad + 1
  let cs := (List.range (side * side)).map fun i =>
    let v := (cx - rad + ((i % side : Nat) : Int), cy - rad + ((i / side : Nat) : Int))
    (v, cost v)
  match bestOf cs with
  | none => (0, 0)
  | some (v, k) =>
    let far := fun (e : (Int × Int) × Nat) => decide (1 < (e.1.1 - v.1).natAbs) || decide (1 < (e.1.2 - v.2).natAbs)
    let others := (cs.filter far).map (·.2)
    let at_ := fun (p : Int × Int) => (cs.find? fun e => e.1 == p).map (·.2)
    let dx := 16 * v.1 + subPixel k (at_ (v.1 - 1, v.2)) (at_ (v.1 + 1, v.2))
    let dy := 16 * v.2 + subPixel k (at_ (v.1, v.2 - 1)) (at_ (v.1, v.2 + 1))
    (wrap 16 dx + putAt (wrap 16 dy) 16, confidence k others)

/-! ## Starting (R229, R266) -/

/-- The extents of the outputs of a command on images of w × h (R268, R269, R271). -/
def Cmd.outExtents (c : Cmd) (w h : Nat) : List Nat :=
  let d := c.desc.toNat
  let reduced := vsCoarse d && !c.isRefine
  let w1 := if reduced then half w else w
  let h1 := if reduced then half h else h
  if c.isDisp then [w1, h1] else [ceilDiv w1 (vsBs d), ceilDiv h1 (vsBs d)]

/-- The extents of the coarse maps that `vis.refine` reads: those of a COARSE run (R271). -/
def Cmd.coarseExtents (c : Cmd) (w h : Nat) : List Nat :=
  if c.isDisp then [half w, half h] else [ceilDiv (half w) (vsBs c.desc.toNat), ceilDiv (half h) (vsBs c.desc.toNat)]

/-- Element widths of value and confidence. -/
def Cmd.valueBits (c : Cmd) : Nat := if c.isDisp then 16 else 32

/-- The checks of a vision command when it starts; its tensors are the two images, OUTV, OUTC and, for `vis.refine`,
INV and INC (R229, R266). -/
def State.vsSetup (s : State) (c : Cmd) : Except EStop (State × Setup) :=
  let d := c.desc.toNat
  let range := c.isDisp && decide (255 < vsDmin d + vsDm1 d)
  let flow := !c.isDisp && !c.isRefine && vsRad d == 0
  let body :=
    (if !c.isRefine && (vsInV d != 0 || vsInC d != 0) then [5] else []) ++
    (if range || (c.isDisp && vsAgg d == 3) || flow then [6] else []) ++ (rsvWord d 413 416).toList ++ (rsvWord d 432 512).toList
  match rejectAt (c.headerFaults ++ body) with
  | some x => .ok (s, .reject x)
  | none =>
    let hs := [(c.hb.toNat % 2 ^ 32, 0xFF), (c.hc.toNat % 2 ^ 32, 0xFF), (vsOutV d, 4), (vsOutC d, 4)] ++
      (if c.isRefine then [(vsInV d, 5), (vsInC d, 5)] else [])
    match s.tensorsOf c hs with
    | .error e => .error e
    | .ok (s1, .error detail) => .ok (s1, .reject detail)
    | .ok (s1, .ok (b :: i :: ov :: oc :: ins)) =>
      let w := b.ext.getD 0 0
      let h := b.ext.getD 1 0
      let image := fun (t : Tensor) => t.ext.length == 2 && t.ew == 8
      let plane := fun (t : Tensor) (ew : Nat) (ext : List Nat) => t.ew == ew && t.ext == ext
      let ok := image b && image i && b.ext == i.ext && plane ov c.valueBits (c.outExtents w h) && plane oc 16 (c.outExtents w h) &&
        (ins.zip [c.valueBits, 16]).all fun p => plane p.1 p.2 (c.coarseExtents w h)
      if ok then
        .ok (s1, .go (b :: i :: ov :: oc :: ins)
          ([b.span false, i.span false, ov.span true, oc.span true] ++ ins.map fun t => t.span false))
      else .ok (s1, .reject 0xFF)
    | .ok (s1, .ok _) => .ok (s1, .reject 0xFF)

/-! ## The work -/

/-- The last n elements of a tensor, in order. -/
def State.planeFrom (s : State) (c : Cmd) (t : Tensor) : Nat → Except EStop (List Nat)
  | 0 => .ok []
  | n + 1 =>
    match s.eltRead c t (t.lin (Tensor.coords t.ext (t.count - (n + 1)))) with
    | .error e => .error e
    | .ok v => match s.planeFrom c t n with | .error e => .error e | .ok vs => .ok (v :: vs)

/-- The elements of a 2-D tensor, row by row. -/
def State.plane (s : State) (c : Cmd) (t : Tensor) : Except EStop (List Nat) := s.planeFrom c t t.count

/-- A plane as an image. -/
def State.image (s : State) (c : Cmd) (t : Tensor) : Except EStop Image :=
  match s.plane c t with
  | .error e => .error e
  | .ok vs => .ok { w := t.ext.getD 0 0, h := t.ext.getD 1 0, px := vs.toArray }

/-- Every planes' elements, in order. -/
def State.planes (s : State) (c : Cmd) : List Tensor → Except EStop (List (List Nat))
  | [] => .ok []
  | t :: ts =>
    match s.plane c t with
    | .error e => .error e
    | .ok x => match s.planes c ts with | .error e => .error e | .ok xs => .ok (x :: xs)

/-- The candidates from lo to hi. -/
def upTo (lo hi : Nat) : List Nat := (List.range (hi + 1)).drop lo

/-- A refined disparity (R271): cv and cc are the coarse maps of width cw. -/
def refineDisp (d : Nat) (b c : CensusMap) (cw : Nat) (cv cc : Array Nat) (x y : Nat) : Nat × Nat :=
  let tx := x / 16 * 16
  let ty := y / 16 * 16
  let confs := (List.range 256).filterMap fun i =>
    let px := tx + i % 16
    let py := ty + i / 16
    if px < b.im.w ∧ py < b.im.h then some (cc.getD (py / 2 * cw + px / 2) 0) else none
  let v := cv.getD (y / 2 * cw + x / 2) 0
  if vsTh d ≤ confs.foldl min 0xFFFF then
    (if v = 0x8000 then 0x8000 else wrap 16 (2 * sgn 16 v), cc.getD (y / 2 * cw + x / 2) 0)
  else
    let mid := (2 * sgn 16 v) / 16
    let lo := (max 0 (mid - (vsRR d : Int))).toNat
    let hi := min 255 (mid + (vsRR d : Int))
    let ds := if v = 0x8000 then upTo (vsDmin d) (vsDmin d + vsDm1 d) else if hi < 0 then [] else upTo lo hi.toNat
    matchDisp b c (vsAgg d) ds x y

/-- A refined flow block (R271). -/
def refineFlow (d : Nat) (b c : CensusMap) (cw : Nat) (cv cc : Array Nat) (bx bY : Nat) : Nat × Nat :=
  let i := bY / 2 * cw + bx / 2
  let v := cv.getD i 0
  let dx := 2 * sgn 16 (field v 0 16)
  let dy := 2 * sgn 16 (field v 16 16)
  if vsTh d ≤ cc.getD i 0 then (wrap 16 dx + putAt (wrap 16 dy) 16, cc.getD i 0)
  else matchFlow b c (vsBs d) (dx / 16) (dy / 16) (vsRR d) bx bY

/-- Value and confidence at output element i of width ow. -/
def visElement (c : Cmd) (b i : CensusMap) (ins : List (List Nat)) (cw x y : Nat) : Nat × Nat :=
  let d := c.desc.toNat
  let cv := (ins.getD 0 []).toArray
  let cc := (ins.getD 1 []).toArray
  if c.isRefine then (if c.isDisp then refineDisp d b i cw cv cc x y else refineFlow d b i cw cv cc x y)
  else if c.isDisp then matchDisp b i (vsAgg d) (upTo (vsDmin d) (vsDmin d + vsDm1 d)) x y
  else matchFlow b i (vsBs d) 0 0 (vsRad d) x y

/-- The work of a vision command: every input is read, then value and confidence of each output element are written
(R266 to R271). -/
def State.vsItem (s : State) (c : Cmd) : Except EStop EItem :=
  match c.tens with
  | b :: i :: ov :: oc :: ins =>
    (match s.image c b, s.image c i, s.planes c ins with
     | .ok ib, .ok ii, .ok ps =>
       let coarse := vsCoarse c.desc.toNat && !c.isRefine
       let mb := (if coarse then ib.reduce else ib).censusMap 2
       let mi := (if coarse then ii.reduce else ii).censusMap 2
       let cw := match ins with | t :: _ => t.ext.getD 0 0 | [] => 0
       let ow := ov.ext.getD 0 1
       .ok (.put ((List.range ov.count).flatMap fun j =>
         let r := visElement c mb mi ps cw (j % ow) (j / ow)
         [ov.eltWrite (ov.lin (Tensor.coords ov.ext j)) r.1 1, oc.eltWrite (oc.lin (Tensor.coords oc.ext j)) r.2 0]))
     | .error e, _, _ => .error e
     | _, .error e, _ => .error e
     | _, _, .error e => .error e)
  | _ => .ok (.put [])

end Sys2Proof.Machine
end

