-- ==== Sys2Proof/Machine/Commands.lean ====
section
/-!
DEFINITION. The life of an engine command: its start and its work (08 R226 to R234), records (R242 to R249), its retirement
(R224, R225, R228) and the resolution of its faults (15 R419 to R422).
-/

namespace Sys2Proof.Machine

/-! ## Work -/

/-- The items of a command's work. -/
def Cmd.items (c : Cmd) : Nat :=
  match c.eng with
  | .ce => match c.word with | .lrFlush _ => 0 | _ => (c.tens.getLast?.map Tensor.count).getD 0
  | .tsq => recM c.desc.toNat * recN c.desc.toNat
  | .tvu => 65536
  | .rsu => c.rsItems
  | .vse => 1

/-- An item's effect on its command. -/
def State.applyItem (s : State) (k : Nat) (x : EItem) : State :=
  let s1 := match s.cmds[k]? with | some c => s.dropGranted c.reader | none => s
  s1.setCmd k fun c =>
    { c with todo := x.writes, prog := c.prog + 1, count := c.count + x.cnt, tv := x.tv.orElse fun _ => c.tv,
             ran := c.ran || x.code.isSome, code := x.code.getD c.code }

/-- One item of a command. -/
def State.cmdItem (s : State) (k : Nat) (c : Cmd) : Except EStop State :=
  let done := s.setCmd k fun x => { x with ran := true }
  let put := fun (r : Except EStop EItem) => match r with | .ok x => .ok (s.applyItem k x) | .error e => .error e
  match c.eng with
  | .tvu => match c.tv with | some t => put (s.tvItem c t) | none => .ok done
  | e =>
    if c.items ≤ c.prog then .ok done
    else match e with
    | .ce => put (s.ceItem c c.prog)
    | .rsu => put (s.rsItem c c.prog)
    | .vse => put (s.vsItem c)
    | .tsq => match s.tileItem k c c.prog with | .ok (s1, x) => .ok (s1.applyItem k x) | .error e => .error e
    | .tvu => .ok done

/-- Runs a command's writes and items, at most n of them in one step; a descent may take several steps (log entry 7). -/
def State.cmdRun (s : State) (k : Nat) : Nat → State × Option EStop
  | 0 => (s, some .wait)
  | n + 1 =>
    match s.cmds[k]? with
    | none => (s, none)
    | some c =>
      match s.drainTodo k c.todo with
      | (s1, some e) => (s1, some e)
      | (s1, none) =>
        if c.ran then (s1, none)
        else match s1.cmds[k]? with
        | none => (s1, none)
        | some c1 =>
          match s1.cmdItem k c1 with
          | .error e => (s1, some e)
          | .ok s2 => s2.cmdRun k n

/-- Goes on with a command's work until it is done or stops. -/
def State.cmdWork (s : State) (k : Nat) : State :=
  match s.cmds[k]? with
  | none => s
  | some c =>
    match s.cmdRun k (c.items + 2) with
    | (s1, some e) => s1.cmdStop k e
    | (s1, none) => s1

/-! ## Starting a command -/

/-- The checks of a command when it starts (R229). -/
def State.cmdSetup (s : State) (c : Cmd) : Except EStop (State × Setup) :=
  match c.eng with
  | .ce => s.ceSetup c
  | .tvu => s.tvSetup c
  | .rsu => s.rsSetup c
  | .vse => s.vsSetup c
  | .tsq => .ok (s, .reject 0)

/-- A command that has its locks starts, unless it overlaps another of a deterministic launch (R233, R234). -/
def State.cmdBegin (s : State) (k : Nat) (f : Cmd → Cmd) : State :=
  let s1 := s.setCmd k f
  match s1.cmds[k]? with
  | none => s
  | some c =>
    if s1.scratchOverlap k c then s1.deferTrap k 0x0D
    else (s1.setCmd k fun x => { x with st := .started, begun := true }).cmdWork k

/-- Starts a command whose conditions hold, or goes on with one that has started (R226, R229, R231, R310, R311). -/
def State.cmdGo (s : State) (k : Nat) (c : Cmd) : State :=
  if c.begun then s.cmdWork k
  else match c.word with
  | .lrFlush _ => (s.flushLayouts c).setCmd k fun x => { x with st := .started, begun := true, ran := true }
  | _ =>
    match s.cmdSetup c with
    | .error e => (s.setCmd k fun x => { x with st := .started }).cmdStop k e
    | .ok (s1, .reject d) => s1.rejectCmd k d
    | .ok (s1, .stop code) => s1.setCmd k fun x => { x with st := .started, begun := true, ran := true, code := code }
    | .ok (s1, .descend tv todo) => s1.cmdBegin k fun x => { x with tv := some tv, todo := todo }
    | .ok (s1, .go ts touch) =>
      match s1.tryLocks k (lockWants touch) with
      | (s2, false) => s2
      | (s2, true) =>
        s2.cmdBegin k fun x => { x with tens := ts, touch := touch, spans := if isCopy x.word then touch else x.spans }

/-! ## Retirement (R224, R225, R228) -/

/-- The command has retired: what it held is free, its writes of a deterministic launch enter the posting wave's layer,
and its ticket advances in its turn (R224, R310, R334). -/
def State.cmdFinish (s : State) (k : Nat) : State :=
  match s.cmds[k]? with
  | none => s
  | some c =>
    let s1 := s.releaseCmd k
    let s2 := (if c.out.isEmpty then s1 else s1.setWave c.wave fun v => { v with layer := v.layer ++ c.out }).traceCmd c
    ((s2.setCmd k fun x => { x with st := .finished, out := [], wstat := false }).publish).settle

/-- The write of STATUS (R228). -/
def Cmd.statusWrite (c : Cmd) : List EWrite :=
  if c.hasStatus then
    [{ g := none, a := c.daddr + 16, off := 0, bits := 64, val := statusWord c.code c.detail c.count, cnt := 0, post := .none }]
  else []

/-- Retires a command whose work is done: its last writes, then STATUS, then its ticket; a write that faults leaves it
waiting (R228). -/
def State.retireCmd (s : State) (k : Nat) : State :=
  match s.cmds[k]? with
  | none => s
  | some c =>
    if !(c.st == .started && c.ran) then s
    else match s.drainTodo k c.todo with
    | (s1, some e) => s1.cmdStop k e
    | (s1, none) =>
      match s1.drainTodo k c.statusWrite with
      | (s2, some e) => (s2.setCmd k fun x => { x with wstat := true, todo := [] }).cmdStop k e
      | (s2, none) => s2.cmdFinish k

/-- COMMAND_RETIRE (R224). -/
def execCommandRetire (k : Nat) (s : State) : Host.Outcome State Fault Refusal :=
  .next (s.engineTurn k fun st => st.retireCmd k)

/-! ## Records (R242 to R249) -/

/-- The posting wave still has fragments. -/
def State.posterLives (s : State) (c : Cmd) : Bool := match s.waves[c.wave]? with | some v => v.status == .resident | none => false
/-- A recess request is pending for the job of a record under DECLARED (R249). -/
def State.rckptStops (s : State) (c : Cmd) : Bool :=
  match s.launches[c.launch]? with
  | some l => recessDeclared l && s.posterLives c && (match s.inst? l.job with | some i => i.st == .recessing | none => false)
  | none => false

/-- A record whose conditions hold starts (R226, R242, R243, R249). -/
def State.recStart (s : State) (k : Nat) (c : Cmd) : State :=
  let run := fun (st : State) => st.setCmd k fun x => { x with st := .started, begun := true }
  if c.begun then
    (if c.op = 3 ∨ c.op = 4 then
      match s.tryLocks k (lockWants c.touch) with
      | (s1, false) => s1
      | (s1, true) => (run s1).cmdWork k
     else run s)
  else if s.slotsFault c then s.deferTrap k 0x16
  else if s.recFaulty c then s.rejectCmd k 0
  else if c.op = 6 then
    if s.rckptStops c then
      (run s).setWave c.wave fun v => { v with deferred := v.deferred ++ [(0x10, 0)] }
    else ((run s).setCmd k fun x => { x with ran := true }).retireCmd k
  else if c.op = 7 then
    let d := c.desc.toNat
    if recWbase d ≤ s.tlcVal c.launch (field d 20 4) then ((run s).setCmd k fun x => { x with ran := true }).retireCmd k
    else run s
  else
    let touch := s.recTouch c
    let locks := if c.op = 3 ∨ c.op = 4 then lockWants touch else []
    match s.tryLocks k locks with
    | (s1, false) => s1
    | (s1, true) =>
      let s2 := s1.setCmd k fun x => { x with touch := touch }
      match s2.cmds[k]? with
      | none => s
      | some c2 =>
        if s2.scratchOverlap k c2 then s2.deferTrap k 0x0D
        else
          let s3 := if c.op = 2 ∧ c.step = 0 then s2.acmZero c.cl c.region.1 c.region.2 else s2
          if c.op = 3 ∨ c.op = 4 then (run s3).cmdWork k else run s3

/-- Starts a record, or goes on with a conversion or a wait that has started. -/
def State.recGo (s : State) (k : Nat) (c : Cmd) : State :=
  if c.st == .queued then (if s.canStart c then s.recStart k c else s)
  else if c.st == .started && !c.ran then
    (if c.op = 3 ∨ c.op = 4 then s.cmdWork k
     else if c.op = 7 ∧ recWbase c.desc.toNat ≤ s.tlcVal c.launch (field c.desc.toNat 20 4) then
       (s.setCmd k fun x => { x with ran := true }).retireCmd k
     else s)
  else s

/-- COMMAND_START (R226): a command or record whose conditions hold starts; one that has started and waits goes on. -/
def execCommandStart (k : Nat) (s : State) : Host.Outcome State Fault Refusal :=
  .next <| s.engineTurn k fun st =>
    match st.cmds[k]? with
    | none => st
    | some c =>
      if c.isRecord then st.recGo k c
      else if (c.st == .queued && st.canStart c) || (c.st == .started && !c.ran) then st.cmdGo k c
      else st

/-- A record of an operation starts or goes on. -/
def State.recOp (s : State) (k : Nat) (p : Cmd → Bool) : State :=
  s.engineTurn k fun st =>
    match st.cmds[k]? with
    | none => st
    | some c => if c.isRecord && p c then st.recGo k c else st

/-- `mm` (R245). -/
def execMm (k : Nat) (s : State) : Host.Outcome State Fault Refusal := .next (s.recOp k fun c => c.op == 1)
/-- `mmz`: the region is zeroed when it starts (R245). -/
def execMmz (k : Nat) (s : State) : Host.Outcome State Fault Refusal := .next (s.recOp k fun c => c.op == 2)
/-- `cvacc` (R75, R247). -/
def execCvacc (k : Nat) (s : State) : Host.Outcome State Fault Refusal := .next (s.recOp k fun c => c.op == 3)
/-- `ewise` CONVERT (R248). -/
def execEwiseConvert (k : Nat) (s : State) : Host.Outcome State Fault Refusal :=
  .next (s.recOp k fun c => c.op == 4 && recFunc c.desc.toNat == 0)
/-- `ewise` BIAS (R248). -/
def execEwiseBias (k : Nat) (s : State) : Host.Outcome State Fault Refusal :=
  .next (s.recOp k fun c => c.op == 4 && recFunc c.desc.toNat == 1)
/-- `ewise` RELU (R248). -/
def execEwiseRelu (k : Nat) (s : State) : Host.Outcome State Fault Refusal :=
  .next (s.recOp k fun c => c.op == 4 && recFunc c.desc.toNat == 2)
/-- `ewise` SCALE (R248). -/
def execEwiseScale (k : Nat) (s : State) : Host.Outcome State Fault Refusal :=
  .next (s.recOp k fun c => c.op == 4 && recFunc c.desc.toNat == 3)
/-- `rsum` (R246). -/
def execRsum (k : Nat) (s : State) : Host.Outcome State Fault Refusal := .next (s.recOp k fun c => c.op == 5)
/-- `rckpt` (R249). -/
def execRckpt (k : Nat) (s : State) : Host.Outcome State Fault Refusal := .next (s.recOp k fun c => c.op == 6)
/-- `rwait` (R249). -/
def execRwait (k : Nat) (s : State) : Host.Outcome State Fault Refusal := .next (s.recOp k fun c => c.op == 7)

/-- One step of a started record (R245, R246). -/
def State.stepRec (s : State) (k : Nat) : State :=
  match s.cmds[k]? with
  | none => s
  | some c =>
    if c.isRecord && (c.op == 1 || c.op == 2 || c.op == 5) && c.st == .started && c.begun && !c.ran then
      match s.recStep k c with
      | (s1, some e) => s1.cmdStop k e
      | (s1, none) => s1
    else s

/-- MM_STEP (R245). -/
def execMmStep (k : Nat) (s : State) : Host.Outcome State Fault Refusal := .next (s.engineTurn k fun st => st.stepRec k)

/-! ## Resolution of faults (15 R419, R421) -/

/-- Frees the token and the row-progress register of a resolved fault. -/
def State.clearFault (s : State) (p token k : Nat) : State :=
  let s1 := s.setPart p fun x => { x with faults := x.faults.filter fun f => f.token != token }
  { s1 with clusters := s1.clusters.map fun c => { c with rowprog := c.rowprog.filter fun r => r.cmd != k } }

/-- RETRY (R419): the tables are walked afresh and the command continues from the faulting access. -/
def State.faultRetry (s : State) (p token : Nat) : State :=
    match (s.parts.getD p Part.reset).faults.find? fun f => f.token == token with
    | none => s
    | some f =>
      match s.cmds[f.cmd]? with
      | none => s
      | some c =>
        let k := f.cmd
        let s1 := s.clearFault p token k
        let agents := clusterAgents c.cl
        let s2 := { s1 with tlb := s1.tlb.filter fun t => !(t.part == p && agents.contains t.agent)
                            walks := s1.walks.filter fun w => !(w.part == p && agents.contains w.agent) }
        let s3 := s2.setCmd k fun x => { x with st := .started, detail := if x.wstat then x.detail else 0 }
        if c.ran then s3.retireCmd k
        else if c.isRecord then (if c.op = 3 ∨ c.op = 4 then s3.cmdWork k else s3.stepRec k)
        else match s3.cmds[k]? with
        | some c3 => s3.cmdGo k c3
        | none => s3

/-- DECLINE (R228, R419, R421): the command ends with CODE = FAULT; one that could not write its STATUS retires without
it.  A descent still releases the records it has written, unless that write is the one that failed (R256). -/
def State.faultDecline (s : State) (p token : Nat) : State :=
    match (s.parts.getD p Part.reset).faults.find? fun f => f.token == token with
    | none => s
    | some f =>
      match s.cmds[f.cmd]? with
      | none => s
      | some c =>
        let k := f.cmd
        let s1 := s.clearFault p token k
        if c.wstat then s1.cmdFinish k
        else
          let at_ := tvQhdr c.desc.toNat
          let tailFailed := match c.todo.head? with | some w => w.a == at_ + 24 | none => false
          let rest := match c.tv with | some t => if tailFailed then [] else t.release at_ | none => []
          s1.setCmd k fun x => { x with st := .started, begun := true, ran := true, code := 4, todo := rest, rows := [] }

/-- FAULT_RETRY. -/
def execFaultRetry (p token : Nat) (s : State) : Host.Outcome State Fault Refusal := .next (s.faultRetry p token)

/-- FAULT_DECLINE. -/
def execFaultDecline (p token : Nat) (s : State) : Host.Outcome State Fault Refusal := .next (s.faultDecline p token)

end Sys2Proof.Machine
end

