-- ==== Sys2Proof/Machine/Stack.lean ====
section
/-!
DEFINITION. The reconvergence stack with its spill area (05 R113, R115; 09 R287 to R289), unwinding (05 R119), and the
end of a split (05 R117).
-/

namespace Sys2Proof.Machine

/-- Why stack work fails: the spill entry's address with the kind of access, and whether its data is uncorrectable. -/
structure StackFail where
  addr   : Nat
  acc    : Nat
  poison : Bool
  deriving DecidableEq, Repr

/-- A stack under work: the on-chip entries with their top first, and how many lie in memory. -/
structure StackWork where
  st      : State
  chip    : List StackEntry
  spilled : Nat

/-- The address of a spilled entry of a fragment slot (R287, R305). -/
def Ctx.stackAddr (k : Ctx) (slot j : Nat) : Nat :=
  (k.l.priv + k.wv.priv * k.l.privWave + 32 * k.l.privSize + (slot * k.l.stkres + j) * 32) % 2 ^ 64

/-- A spilled entry (R288). -/
def packEntry (e : StackEntry) : Nat :=
  e.tok.toNat + putAt (b2n e.running) 16 + putAt (b2n e.rpc.isSome) 17 + putAt e.dmask.toNat 32 + putAt e.rmask.toNat 64 +
  putAt e.dpc.toNat 96 + putAt (match e.rpc with | some p => p.toNat | none => 0) 160
/-- The entry of 32 bytes; none where a reserved bit is set or RPC is not 0 without RPCV (R288). -/
def unpackEntry (x : Nat) : Option StackEntry :=
  if field x 18 14 ≠ 0 ∨ field x 224 32 ≠ 0 ∨ (!bitOf x 17 ∧ field x 160 64 ≠ 0) then none
  else some { tok := BitVec.ofNat 16 (field x 0 16), running := bitOf x 16, dpc := BitVec.ofNat 64 (field x 96 64),
              dmask := BitVec.ofNat 32 (field x 32 32), rmask := BitVec.ofNat 32 (field x 64 32),
              rpc := if bitOf x 17 then some (BitVec.ofNat 64 (field x 160 64)) else none }

/-- The span of a spilled entry after checks 1 to 5 of R180. -/
def State.stackSpan (s : State) (k : Ctx) (kind : Acc) (a : Nat) : Except StackFail Span :=
  let acc := kind.code
  if 2 ^ 56 ≤ a ∨ field a 40 16 = 0xFFFE then .error ⟨a, acc, false⟩
  else match s.access k.part (coreAgents k.wv.core) kind false a 32 with
  | .fault c _ => .error ⟨a, acc, c == 0x0E⟩
  | .ok pa leaf _ _ =>
    if !outbound pa && s.poisoned pa 32 then .error ⟨a, acc, true⟩
    else .ok { place := .phys pa leaf true, va := a, n := 32 }

/-- Pushes an entry; a full on-chip stack first moves its oldest entry to memory (R115, R287). -/
def StackWork.push (x : StackWork) (k : Ctx) (slot : Nat) (e : StackEntry) : Except StackFail StackWork :=
  if x.chip.length < 16 then .ok { x with chip := e :: x.chip }
  else
    let a := k.stackAddr slot x.spilled
    if k.l.stkres ≤ x.spilled then .error ⟨a, 1, false⟩
    else match x.st.stackSpan k .write a with
    | .error f => .error f
    | .ok sp =>
      let old := match x.chip.getLast? with | some o => packEntry o | none => 0
      .ok { st := x.st.spanWrite k sp (bytesOf 32 old), chip := e :: x.chip.dropLast, spilled := x.spilled + 1 }

/-- Reads spilled entry j of a slot (R115, R288). -/
def State.stackRead (s : State) (k : Ctx) (slot j : Nat) : Except StackFail StackEntry :=
  let a := k.stackAddr slot j
  match s.stackSpan k .read a with
  | .error f => .error f
  | .ok sp =>
    match unpackEntry (ofBytes (s.spanRead k true sp)) with
    | some e => .ok e
    | none => .error ⟨a, 0, false⟩

/-- Drops the top entry; an on-chip stack left empty takes the most recent spilled entry (R115). -/
def StackWork.pop (x : StackWork) (k : Ctx) (slot : Nat) : Except StackFail StackWork :=
  match x.chip.tail with
  | [] =>
    if x.spilled = 0 then .ok { x with chip := [] }
    else match x.st.stackRead k slot (x.spilled - 1) with
    | .error f => .error f
    | .ok e => .ok { x with chip := [e], spilled := x.spilled - 1 }
  | t => .ok { x with chip := t }

/-- The stack of a fragment. -/
def State.workOf (s : State) (f : Frag) : StackWork := { st := s, chip := f.stack, spilled := f.spilled }

/-- Stack work failed: DATA_UNCORRECTABLE, or STACK_SPILL_FAIL at the entry's address (R115, R444). -/
def State.stackTrap (s : State) (k : Ctx) (i : Instr) (f : StackFail) : State :=
  s.takeTrap k.w k.slot (k.whole s (if f.poison then 0x0E else 0x15) i.baseWord f.addr f.acc)

/-! ## Unwinding -/

/-- Where unwinding stands: the stack, EXEC, the PC, and the address to go on at with EXEC = 0. -/
structure Unwind where
  work : StackWork
  exec : Word32
  pc   : Word64
  next : Word64

/-- The loop of R119, at most n rounds. -/
def Unwind.run (k : Ctx) (owned : Word32) : Nat → Unwind → Except StackFail Unwind
  | 0, u => .ok u
  | n + 1, u =>
    if u.exec ≠ 0 then .ok u
    else match u.work.chip with
    | [] => .ok u
    | e :: rest =>
      if !e.running then
        Unwind.run k owned n { u with
          work := { u.work with chip := { e with running := true, rpc := none } :: rest }
          exec := e.dmask &&& owned
          pc := e.dpc }
      else
        match u.work.pop k k.slot with
        | .error f => .error f
        | .ok w =>
          Unwind.run k owned n <| match e.rpc with
            | none => { u with work := w, exec := 0 }
            | some p => { u with work := w, exec := e.rmask &&& owned, pc := p, next := p }

/-! ## The end of a split -/

/-- Pushes entries, the first of the list first. -/
def StackWork.pushAll (x : StackWork) (k : Ctx) (slot : Nat) : List StackEntry → Except StackFail StackWork
  | [] => .ok x
  | e :: es => match x.push k slot e with | .error f => .error f | .ok y => y.pushAll k slot es

/-- The spilled entries of a slot, oldest first. -/
def State.spilledOf (s : State) (k : Ctx) (slot : Nat) : Nat → Except StackFail (List StackEntry)
  | 0 => .ok []
  | n + 1 => match s.spilledOf k slot n with
    | .error f => .error f
    | .ok es => match s.stackRead k slot n with | .error f => .error f | .ok e => .ok (es ++ [e])

/-- The resume address with which a fragment has arrived at the split, if it has arrived. -/
def Frag.arrival (f : Frag) : Option (Option Word64) := match f.st with | .splitwait r => some r | _ => none

/-- Both fragments have arrived: the merge, or the retirement of the wave (R117).  `wv` holds both arrivals. -/
def State.mergeSplit (s : State) (k : Ctx) (wv : Wave) (sp : SplitRec) (a b : Frag) (ra rb : Option Word64) :
    Except StackFail State :=
  match ra.orElse fun _ => rb with
  | none => .ok (s.retireAt k wv)
  | some pc =>
    let q := 1 - sp.parent
    match s.spilledOf k q b.spilled with
    | .error f => .error f
    | .ok es =>
      match (s.workOf a).pushAll k sp.parent (es ++ b.stack.reverse) with
      | .error f => .error f
      | .ok w =>
        let owned := a.owned ||| b.owned
        let m : Frag := { a with
          exec := sp.rmask &&& owned, owned := owned, pc := pc, st := .ready, held := false, stack := w.chip,
          spilled := w.spilled, skip := 0, restart := false }
        let w2 := (wv.setFrag sp.parent (some m)).setFrag q none
        .ok (w.st.setWave k.w fun v => { w2 with layer := v.layer, split := none, hslot := if wv.hmode then sp.parent else wv.hslot })

/-- A fragment arrives at the split with a resume address or none: it waits, or the split ends (R116, R117, R119). -/
def State.arriveSplit (s : State) (k : Ctx) (wv : Wave) (sp : SplitRec) (f : Frag) (resume : Option Word64) :
    Except StackFail State :=
  let f1 : Frag := { f with st := .splitwait resume, skip := 0, restart := false }
  let wv1 := wv.setFrag k.slot (some f1)
  match wv1.frag sp.parent, wv1.frag (1 - sp.parent) with
  | some a, some b =>
    (match a.arrival, b.arrival with
     | some ra, some rb => s.mergeSplit k wv1 sp a b ra rb
     | _, _ => .ok ((s.setWave k.w fun _ => wv1).splitArrived k.w k.slot))
  | _, _ => .ok (s.setWave k.w fun _ => wv1)

end Sys2Proof.Machine
end

