-- ==== Sys2Proof/Machine/Control.lean ====
section
/-!
DEFINITION. Control flow (05 R111 to R126), recesses (05 R122, R123; 14 R375, R376, R378, R379), deferred traps (08 R230)
and the arrival of results (02 R32, R35).
-/

namespace Sys2Proof.Machine

/-! ## Branches -/

/-- The target of a branch (R112). -/
def Ctx.target (k : Ctx) (off : BitVec 32) : Word64 := k.fr.pc + 8 * off.signExtend 64

/-- The issuing fragment goes on at an address. -/
def State.jump (s : State) (k : Ctx) (wv : Wave) (pc : Word64) : State :=
  s.setWave k.w fun _ => wv.setFrag k.slot ((wv.frag k.slot).map fun (f : Frag) => f.goto pc)

/-- `bra` (R112). -/
def execBra (f : BWord) (s : State) : Host.Outcome State Fault Refusal :=
  simt s fun k => s.jump k k.wv (k.target f.off32)

/-- The condition of `brc` on a scalar, codes 0 to 3 (R112). -/
def brcScalar (code x : Nat) : Bool :=
  if code = 0 then x == 0 else if code = 1 then x != 0
  else if code = 2 then decide (sgn 64 x < 0) else decide (0 ≤ sgn 64 x)
/-- The condition of `brc` on a mask, codes 4 to 6 (R112). -/
def brcMask (code : Nat) (m exec : Word32) : Bool :=
  if code = 4 then m &&& exec != 0 else if code = 5 then m &&& exec == exec else m &&& exec == 0

/-- `brc` (R112). -/
def execBrc (f : BWord) (s : State) : Host.Outcome State Fault Refusal :=
  simt s fun k =>
    let code := mod4 f.mod
    let us := if code ≤ 3 then k.use f.a f.actl 1 0 else []
    s.issueRegs k (.brc f) us [] fun wv =>
      let c := if code ≤ 3 then brcScalar code (k.scalSrc s.now none 64 f.a) else brcMask code (k.kread f.a.toNat) k.fr.exec
      s.jump k wv (if c then k.target f.off32 else k.fr.pc + 16)

/-- `brv` (R114). -/
def execBrv (f : BWord) (s : State) : Host.Outcome State Fault Refusal :=
  simt s fun k =>
    let c0 := k.kread f.a.toNat
    let cond := if f.mod.getLsbD 0 then ~~~c0 else c0
    let t := k.fr.exec &&& cond
    let n := k.fr.exec &&& ~~~cond
    let taken := k.target f.off32
    let fall := k.fr.pc + 16
    if t = 0 then s.jump k k.wv fall
    else if n = 0 then s.jump k k.wv taken
    else
      let takenFirst := lowestLane t < lowestLane n
      let first := if takenFirst then t else n
      let other := if takenFirst then n else t
      let pc1 := if takenFirst then taken else fall
      let pc2 := if takenFirst then fall else taken
      if !k.wv.isSplit && !k.wv.hmode then
        let mine : Frag := { (k.fr.goto pc1) with exec := first, owned := k.fr.owned &&& ~~~other }
        let wv1 := (k.wv.setFrag k.slot (some mine)).setFrag (1 - k.slot) (some (Frag.initial pc2 other))
        s.setWave k.w fun _ => { wv1 with split := some { tok := f.tok, rmask := t ||| n, parent := k.slot } }
      else
        let e : StackEntry := { tok := f.tok, running := false, dpc := pc2, dmask := other, rmask := t ||| n, rpc := none }
        match (s.workOf k.fr).push k k.slot e with
        | .error x => s.stackTrap k (.brv f) x
        | .ok w =>
          let mine : Frag := { (k.fr.goto pc1) with exec := first, stack := w.chip, spilled := w.spilled }
          w.st.setWave k.w fun v => { (k.wv.setFrag k.slot (some mine)) with layer := v.layer }

/-- `join` (R116, R117, R163). -/
def execJoin (f : BWord) (s : State) : Host.Outcome State Fault Refusal :=
  simt s fun k =>
    let i := Instr.join f
    let next := k.fr.pc + 16
    let top := match k.fr.stack with
      | e :: rest => if e.tok = f.tok then some (e, rest) else none
      | [] => none
    match top with
    | some (e, rest) =>
      if !e.running then
        let e2 : StackEntry := { e with running := true, rpc := some next }
        let mine : Frag := { (k.fr.goto e.dpc) with exec := e.dmask &&& k.fr.owned, stack := e2 :: rest }
        s.setWave k.w fun _ => k.wv.setFrag k.slot (some mine)
      else
        match (s.workOf k.fr).pop k k.slot with
        | .error x => s.stackTrap k i x
        | .ok w =>
          let mine : Frag := { (k.fr.goto next) with exec := e.rmask &&& k.fr.owned, stack := w.chip, spilled := w.spilled }
          s.setWave k.w fun _ => k.wv.setFrag k.slot (some mine)
    | none =>
      match k.wv.split with
      | some sp =>
        if sp.tok = f.tok then
          if k.mateInRoll then s.trapWhole k 0x06 i
          else match s.arriveSplit k k.wv sp k.fr (some next) with
          | .error x => s.stackTrap k i x
          | .ok t => t
        else s.jump k k.wv next
      | none => s.jump k k.wv next

/-- `call`: PC + 16 to the link register, then as `bra` (R120). -/
def execCall (f : BWord) (s : State) : Host.Outcome State Fault Refusal :=
  simt s fun k =>
    s.issueRegs k (.call f) [] (k.dst f.d 1 0) fun wv =>
      s.jump k (k.sputD wv f.d (k.fr.pc + 16).toNat) (k.target f.off32)

/-- A jump to an address from a scalar source (R78, R120). -/
def State.jumpReg (s : State) (i : Instr) (f : RWord) : Host.Outcome State Fault Refusal :=
  simt s fun k =>
    s.issueRegs k i (k.use f.a f.actl 1 0) [] fun wv =>
      let a := k.scalSrc s.now f.lit 64 f.a
      if a % 8 ≠ 0 then s.trapWhole k 0x07 i else s.jump k wv (BitVec.ofNat 64 a)

/-- `ret`. -/
def execRet (f : RWord) (s : State) : Host.Outcome State Fault Refusal := s.jumpReg (.ret f) f
/-- `jmpi`. -/
def execJmpi (f : RWord) (s : State) : Host.Outcome State Fault Refusal := s.jumpReg (.jmpi f) f

/-- `exit` (R118, R119): the active lanes leave, and the fragment unwinds; in the handler the wave retires. -/
def execExit (f : RWord) (s : State) : Host.Outcome State Fault Refusal :=
  simt s fun k =>
    let i := Instr.exit f
    if k.wv.hmode then
      s.retireAt k { k.wv with exited := k.wv.lanes }
    else if k.mateInRoll then s.trapWhole k 0x06 i
    else
      let act := k.active f.pk (modNP f.mod)
      let owned := k.fr.owned &&& ~~~act
      let next := k.fr.pc + 8
      let start : Unwind := { work := s.workOf k.fr, exec := k.fr.exec &&& ~~~act, pc := next, next := next }
      match Unwind.run k owned (2 * (k.fr.stack.length + k.fr.spilled) + 1) start with
      | .error x => s.stackTrap k i x
      | .ok u =>
        let mine : Frag := { (k.fr.goto (if u.exec = 0 then u.next else u.pc)) with
          exec := u.exec, owned := owned, stack := u.work.chip, spilled := u.work.spilled }
        let wv := { (k.wv.setFrag k.slot (some mine)) with exited := k.wv.exited ||| act }
        if u.exec ≠ 0 then s.setWave k.w fun _ => wv
        else match k.wv.split with
        | some sp =>
          (match s.arriveSplit k wv sp mine none with
           | .error x => s.stackTrap k i x
           | .ok t => t)
        | none =>
          if owned = 0 then s.retireAt k wv else s.setWave k.w fun _ => wv

/-- `nop` (R121). -/
def execNop (f : RWord) (s : State) : Host.Outcome State Fault Refusal :=
  simt s fun k => s.commit k k.wv (Instr.nop f).len
/-- `yield` (R121): the core then issues nothing of this fragment while another of its fragments can issue. -/
def execYield (f : RWord) (s : State) : Host.Outcome State Fault Refusal :=
  simt s fun k => (s.commit k k.wv (Instr.yield f).len).modFrag k.w k.slot fun g => { g with yielded := true }

/-! ## Traps and the return -/

/-- `trap` and `bkpt` (R125). -/
def execTrap (f : RWord) (s : State) : Host.Outcome State Fault Refusal :=
  simt s fun k => s.trapWhole k (if mod4 f.mod = 15 then 0x17 else 0x18) (.trap f)

/-- `rfe` (R126). -/
def execRfe (f : RWord) (s : State) : Host.Outcome State Fault Refusal :=
  simt s fun k =>
    if !k.wv.hmode then s.trapWhole k 0x0A (.rfe f)
    else if k.wv.fregs.fpc.toNat % 8 ≠ 0 then s.trapWhole k 0x07 (.rfe f)
    else
      let skip := if OpField.isNone f.a then 0 else k.kread f.a.toNat
      s.setWave k.w fun v => (v.leaveHandler k.slot skip).takeKept k.l.hentry

/-- The base word of the instruction at which a fragment stands: the one it waits at, or the next one (R44, R79). -/
def State.instAt (s : State) (k : Ctx) : Word64 :=
  match k.fr.st with
  | .rollcall i _ _ => i.baseWord
  | .unit i _ => i.baseWord
  | .sleep i _ => i.baseWord
  | .barwait gang => (barInstr gang).baseWord
  | _ => match s.fetchWord k.part k.wv.core k.fr.pc.toNat with | .ok w => w | .error _ => 0

/-! ## Sleeping -/

/-- A sleeping fragment wakes: TIME to the destination, within the footprint ceiling, and on (R31, R124). -/
def State.wakeSleep (s : State) (k : Ctx) (i : Instr) : State :=
  match i with
  | .tsleep f => s.issueRegs k i [] (k.dst f.d 1 0) fun wv => s.commit k (k.sputD wv f.d (s.now % 2 ^ 64)) i.len
  | _ => s

/-- A pending recess wakes a sleeping fragment under DECLARED and ANY (R124). -/
def Ctx.recessWakes (k : Ctx) : Bool := k.wv.recess && (recessAny k.l || recessDeclared k.l)

/-- `tsleep`: the target is A, or TIME + A, exact (R124). -/
def execTsleep (f : RWord) (s : State) : Host.Outcome State Fault Refusal :=
  simt s fun k =>
    let i := Instr.tsleep f
    s.issueRegs k i (k.use f.a f.actl 1 0) (k.dst f.d 1 0) fun wv =>
      let a := k.scalSrc s.now f.lit 64 f.a
      let target := if f.mod.getLsbD 0 then s.now + a else a
      if target ≤ s.now ∨ k.recessWakes then s.commit k (k.sputD wv f.d (s.now % 2 ^ 64)) i.len
      else s.setWave k.w fun _ => wv.setFrag k.slot ((wv.frag k.slot).map fun (g : Frag) => { g with st := .sleep i target })

/-- TIME has reached a sleeper's target, or its recess request has come (R124). -/
def execTsleepWake (w slot : Nat) (s : State) : Host.Outcome State Fault Refusal :=
  .next <|
    match s.waiter w slot with
    | none => s
    | some k =>
      match k.fr.st with
      | .sleep i target => if target ≤ s.now ∨ k.recessWakes then s.wakeSleep k i else s
      | _ => s

/-! ## Recess -/

/-- A record of the job in the cluster that has started and not retired, or, under DECLARED, that will start before the
recess: the recess handler waits for the accumulator save (R376). -/
def State.recordsRun (s : State) (j cl : Nat) (declared : Bool) : Bool :=
  let mine := s.cmds.filter fun c => c.isRecord && c.cl == cl && c.unfinished &&
    (match s.launches[c.launch]? with | some l => l.job == j | none => false)
  mine.any fun c =>
    if c.op = 6 then false
    else if c.st != .queued then true
    else declared && !mine.any fun d => d.wave == c.wave && d.op == 6 && d.seq < c.seq

/-- The RECESS trap of a fragment, which enters its handler only after the accumulator save: it waits while records of
the job run in its cluster, and a save that fails ends the recess (R376, R379). -/
def State.recessEntry (s : State) (k : Ctx) (f : State → State) : State :=
  if s.recordsRun k.l.job k.cl (recessDeclared k.l) then s
  else match s.saveAcms k.l.job k.cl with
  | none => (s.saveFails k.l.job).settle
  | some s1 => f s1

/-- Takes the RECESS trap where the fragment stands, withdrawing it from its wait (R122, R165, R191, R209, R285). -/
def State.takeRecess (s : State) (k : Ctx) : State :=
  s.recessEntry k fun st =>
    let s1 := st.takeTrap k.w k.slot (k.unskip.whole st 0x10 (st.instAt k))
    if k.l.checked && !k.wv.epochOpen then s1.syncDone k.w else s1

/-- A deferred trap of the wave is taken at this boundary or wait, with the command's SEQ (R230, R444); the one that an
`rckpt` leaves is a RECESS (R249). -/
def execDeferredTrap (w slot : Nat) (s : State) : Host.Outcome State Fault Refusal :=
  .next <|
    match s.waiter w slot with
    | none => s
    | some k =>
      match k.wv.nextDeferred with
      | none => s
      | some e =>
        if e.1 = 0x10 then s.takeRecess k
        else
          let s1 := s.setWave w fun v => { v with deferred := v.deferred.erase e }
          let s2 := s1.takeTrap w slot (k.unskip.whole s e.1.toNat (s.instAt k) 0 0 e.2)
          if k.l.checked && !k.wv.epochOpen then s2.syncDone k.w else s2

/-- A recess request acts on a fragment at a boundary or in a wait; a sleeper wakes (R278). -/
def execRecessTrap (w slot : Nat) (s : State) : Host.Outcome State Fault Refusal :=
  .next <|
    match s.waiter w slot with
    | none => s
    | some k =>
      if !k.recessDue then s
      else match k.fr.st with
      | .sleep i _ => s.wakeSleep k i
      | _ => s.takeRecess k

/-- `ckpt` (R122): under DECLARED a pending request traps, and that is a synchronisation point (R325). -/
def execCkpt (f : RWord) (s : State) : Host.Outcome State Fault Refusal :=
  simt s fun k =>
    let i := Instr.ckpt f
    if recessDeclared k.l && k.wv.recess then
      s.recessEntry k fun s1 => s1.syncPoint k i fun st => st.takeTrap k.w k.slot (k.whole st 0x10 i.baseWord)
    else s.commit k k.wv i.len

/-- The wave's dirty private lines are cleaned (R307). -/
def State.cleanPrivate (s : State) (k : Ctx) : State :=
  if s.dirty.isEmpty then s
  else (s.maintLines k (k.l.priv + k.wv.priv * k.l.privWave) k.l.privWave).foldl (fun st ln => st.cleanDev k.cl ln.1) s

/-- The wave becomes non-resident: its control state and handler bank are saved, its grants close, its own names are
unmapped, its workgroup's region is saved (R123, R339, R378); a save that fails ends the recess (R379). -/
def State.recessFinish (s : State) (k : Ctx) : State :=
  match s.saveWave k.wv with
  | none => (s.saveFails k.l.job).settle
  | some s0 =>
    let s1 := s0.cleanPrivate k
    let out := fun (v : Wave) =>
      { v with status := .recessed, vregs := v.vregs.filter (fun e => decide (128 ≤ e.1)),
               sregs := v.sregs.filter (fun e => decide (64 ≤ e.1)), epochOpen := false }
    let s2 : State := { s1.setWave k.w out with grants := s1.grants.filter fun g => g.wave != k.w }
    let idle := fun (f : Frag) => match f.st with | .unit _ .recessok => { f with st := .ready } | _ => f
    let s3 := s2.setWave k.w fun v => { v with frag0 := v.frag0.map idle, frag1 := v.frag1.map idle }
    (s3.saveRegion k.wv.launch k.wv.gang k.wv.wg).settle

/-- `recessok` (R123). -/
def execRecessok (f : RWord) (s : State) : Host.Outcome State Fault Refusal :=
  simt s fun k =>
    let i := Instr.recessok f
    if !k.wv.hmode || field k.wv.fregs.fcause.toNat 0 8 != 0x10 then s.trapWhole k 0x0A i
    else if s.pendingResults k.w then s.unitWait k i .recessok
    else match s.syncBegin k i with
    | .error t => t
    | .ok s1 => s1.recessFinish k

/-! ## RESULT_ARRIVAL -/

/-- Fragments that waited for operands can issue again (R278). -/
def Wave.wakeOps (wv : Wave) : Wave :=
  let up := fun (f : Frag) => if f.st == .opwait then { f with st := .ready } else f
  { wv with frag0 := wv.frag0.map up, frag1 := wv.frag1.map up }

/-- A `recessok` that waited for the wave's last result completes (R123). -/
def State.recessResume (s : State) (w : Nat) : State :=
  if s.pendingResults w then s
  else
    let waits := fun (slot : Nat) => match s.waiter w slot with
      | some k => (match k.fr.st with | .unit _ .recessok => true | _ => false)
      | none => false
    let slot := if waits 0 then 0 else 1
    if !waits slot then s
    else match s.ctxOf w slot with
    | none => s
    | some k =>
      match s.syncBegin k (match k.fr.st with | .unit i _ => i | _ => barInstr false) with
      | .error t => t
      | .ok s1 => s1.recessFinish k

/-- Result j of wave w arrives (R32, R141); uncorrectable data contains the gang (R183, R445). -/
def execResultArrival (w j : Nat) (s : State) : Host.Outcome State Fault Refusal :=
  .next <|
    match s.waves[w]? with
    | none => s
    | some wv =>
      match wv.pend[j]? with
      | none => s
      | some p =>
        match p.poison with
        | some (_, r) => s.containGang wv.launch wv.gang 0x0E wv.cluster r.cards
        | none => (s.setWave w fun v => ({ v with pend := v.pend.eraseIdx j }.arrive p).wakeOps).recessResume w

/-! ## Words that do not run -/

/-- A word in an unassigned cell (R36 check 1, R90). -/
def execIllegalOpcode (word : Word64) (s : State) : Host.Outcome State Fault Refusal :=
  simt s fun k => s.takeTrap k.w k.slot (k.whole s 0x01 word)

/-- A base or extension word that could not be fetched: the trap at the base word's address, with FINST 0 when the base
word is missing and the report card naming the word's address with ACC = 3 (R79, R444). -/
def execInstructionFetchFault (fw : FetchWord) (cause : BitVec 8) (malf : Bool) (s : State) :
    Host.Outcome State Fault Refusal :=
  simt s fun k =>
    let (inst, addr) := match fw with
      | .base => ((0 : Word64), k.fr.pc.toNat)
      | .ext w => (w, (k.fr.pc.toNat + 8) % 2 ^ 64)
    let lane := lowestLane k.wholeLanes
    let card := mkCard cause.toNat lane 3 false false malf k.ioff (k.wv.wid lane) addr 0 0 0 s.now
    s.takeTrap k.w k.slot { k.whole s cause.toNat inst with cards := [card] }

end Sys2Proof.Machine
end

