-- ==== Sys2Proof/Machine/Fifo.lean ====
section
/-!
DEFINITION. FIFO banks (07 R189 to R191; 10 R312), register spill and fill (07 R192 to R194; 10 R306).
-/

namespace Sys2Proof.Machine

/-! ## FIFO banks -/

/-- Words of an element: b32, b64, b128 (R189, R190). -/
def fifoWords (dt : BitVec 3) : Nat := widSize dt / 4

/-- The words of one lane's element, or of a uniform element, first word first. -/
def wordsOf (n v : Nat) : List Word32 := (List.range n).map fun i => BitVec.ofNat 32 (v >>> (32 * i))

/-- The cause of a FIFO instruction on a bank that it may not use (R189). -/
def State.fifoCause (s : State) (k : Ctx) (a : Nat) : Option Nat :=
  if bankCount k.cl ≤ a then some 0x08
  else if !bitOf k.l.banks a then some 0x0A
  else match s.clusters[k.cl]? with
  | some c => if c.modes.getD a .cache == .fifo then none else some 0x0A
  | none => some 0x0A

/-- The words that a FIFO bank holds, oldest first. -/
def State.fifoHeld (s : State) (cl a : Nat) : List Word32 :=
  match s.clusters[cl]? with | some c => (c.fifos.lookup a).getD [] | none => []

/-- A lock on the bank makes a FIFO instruction wait (R312). -/
def State.fifoLocked (s : State) (cl a : Nat) : Bool :=
  match s.clusters[cl]? with | some c => c.locks.any fun l => l.bank == a | none => false

/-- Replaces the content of a FIFO bank. -/
def State.setFifo (s : State) (cl a : Nat) (ws : List Word32) (clean : Bool) : State :=
  s.setCluster cl fun c => { c with fifos := assocSet c.fifos a ws,
                                    fpoison := if clean then c.fpoison.filter (· != a) else c.fpoison }

/-- What a popped block gives the destination of the instruction, lane by lane (R190). -/
def Ctx.popResult (k : Ctx) (f : MWord) (m : Word32) (ws : List Word32) :
    List (Nat × Word32 × Lanes) × Option (Nat × Word64) :=
  let n := fifoWords f.dt
  if f.u then ([], some (k.sname (f.d.toNat - 128), BitVec.ofNat 64 (ofElems 32 n fun i => (ws.getD i 0).toNat)))
  else
    let lanes := lanesOf m
    let word := fun (j lane : Nat) =>
      match lanes.findIdx? (· == lane) with | some r => ws.getD (r * n + j) 0 | none => 0
    ((k.vnames f.d n).zipIdx.map fun p => (p.1, m, lanesFn fun lane => word p.2 lane), none)

/-- A FIFO instruction with its operands as of issue: bank a, lanes m, the words it pushes or the number it pops
(R189 to R191, R312; 18 R442). -/
def State.fifoGo (s : State) (k : Ctx) (i : Instr) (f : MWord) (push : Bool) (a n : Nat) (m : Word32)
    (data : List Word32) : State :=
  let us := k.use f.a f.actl 1 0 ++ (if push then k.use f.d 0 (if f.u then 1 else fifoWords f.dt) m else [])
  let ds := if push then [] else k.dst f.d (if f.u then 1 else fifoWords f.dt) m
  s.issueRegs k i us ds fun wv =>
    match s.fifoCause k a with
    | some c => s.trapWhole k c i
    | none =>
      if n = 0 then s.commit k wv i.len
      else if s.fifoLocked k.cl a then s.opwait k
      else
        let held := s.fifoHeld k.cl a
        if push then
          if held.length + n ≤ 65536 then (s.commit k wv i.len).setFifo k.cl a (held ++ data) false
          else s.unitWait k i (.fifo a push n m data)
        else if n ≤ held.length then
          let bad := match s.clusters[k.cl]? with | some c => c.fpoison.contains a | none => false
          let poison := if bad then some (k.fr.pc, (k.whole s 0x0E i.baseWord).regs s.now) else none
          let out := k.popResult f m (held.take n)
          (s.commit k (wv.later out.1 out.2 0 poison) i.len).setFifo k.cl a (held.drop n) true
        else s.unitWait k i (.fifo a push n m data)

/-- The issue of a FIFO instruction: its operands are read. -/
def State.fifoOp (s : State) (i : Instr) (f : MWord) (push : Bool) : Host.Outcome State Fault Refusal :=
  simt s fun k =>
    let n := fifoWords f.dt
    let m := if f.u then 0 else k.active f.pk (modNP f.mod)
    let a := k.scalSrc s.now f.lit 64 f.a
    let data := if !push then [] else if f.u then wordsOf n (k.litS f.lit f.d)
      else (lanesOf m).flatMap fun lane => wordsOf n (k.vgroup f.d.toNat n lane)
    s.fifoGo k i f push a (if f.u then n else n * popcount m) m data

/-- `fq.push`. -/
def execFqPush (f : MWord) (s : State) : Host.Outcome State Fault Refusal := s.fifoOp (.fqPush f) f true
/-- `fq.pop`. -/
def execFqPop (f : MWord) (s : State) : Host.Outcome State Fault Refusal := s.fifoOp (.fqPop f) f false

/-- A bank serves a fragment that waits for it, or traps it where the bank has left FIFO mode (R190, R191). -/
def execFifoService (w slot : Nat) (s : State) : Host.Outcome State Fault Refusal :=
  .next <|
    match s.waiter w slot with
    | none => s
    | some k =>
      match k.fr.st with
      | .unit i (.fifo a push n m data) =>
        (match i with
         | .fqPush f => s.fifoGo k i f push a n m data
         | .fqPop f => s.fifoGo k i f push a n m data
         | _ => s)
      | _ => s

/-! ## Spill and fill -/

/-- The base b of a transfer (R192). -/
def Ctx.spillBase (k : Ctx) (f : MWord) : Nat := wrap 64 ((k.addrOf f.lit false f.a 0 : Int) + sgn 10 f.off.toNat * 128)

/-- The address of lane l of register j: in the private window every lane has its own offset o + 4j (R193, R306). -/
def spillAddr (b j lane : Nat) : Nat :=
  if b / 2 ^ 40 = 0xFFFF then b + 4 * j else (b + 128 * j + 4 * lane) % 2 ^ 64

/-- The lanes of register j resolved under R180, with the base judged at check 2 (R192, R193). -/
def State.spillLanes (s : State) (k : Ctx) (kind : Acc) (b j : Nat) (m : Word32) : List LaneRes :=
  let rs := s.resolve k .global kind { priv := true, card := false } 4 (lanesOf m) (spillAddr b j)
  if b % 128 = 0 then rs
  else rs.map fun r => match r.bad with
    | some (0x08, _, _) => r
    | _ => LaneRes.fail r.lane b 0x07

/-- The first register of a transfer (R194). -/
def Ctx.spillStart (k : Ctx) : Nat := if k.fr.restart then field k.wv.fregs.fcause.toNat 16 8 else 0

/-- The registers j to n - 1 of a spill, in order, up to the first that faults (R193). -/
def State.spillFrom (s : State) (k : Ctx) (i : Instr) (f : MWord) (b : Nat) (m : Word32) (wv : Wave) (n : Nat) :
    Nat → State
  | 0 => s.commit k (s.keepEpoch k wv) i.len
  | left + 1 =>
    let j := n - (left + 1)
    let rs := s.spillLanes k .write b j m
    match s.laneTrap k i .write false j rs with
    | some t => s.takeTrap k.w k.slot { t with lanes := m, first := lowestLane m }
    | none =>
      let s1 := rs.foldl (fun a r => a.laneWrite k r (k.vlane (f.d.toNat + j) r.lane)) (s.clearCovered rs)
      s1.spillFrom k i f b m wv n left

/-- The registers j to n - 1 of a fill: what each reads, and the trap of the first that faults (R193). -/
def State.fillFrom (s : State) (k : Ctx) (i : Instr) (f : MWord) (b : Nat) (m : Word32) (n : Nat) :
    Nat → List (Nat × Word32 × Lanes) × Option Trap
  | 0 => ([], none)
  | left + 1 =>
    let j := n - (left + 1)
    let rs := s.spillLanes k .read b j m
    match s.laneTrap k i .read false j rs with
    | some t => ([], some { t with lanes := m, first := lowestLane m })
    | none =>
      let v := laneVals m 0 fun lane => match rs.find? fun r => r.lane == lane with
        | some r => s.laneRead k false r
        | none => 0
      let rest := s.fillFrom k i f b m n left
      ((k.vname (f.d.toNat + j), m, lanesFn fun lane => BitVec.ofNat 32 (v.getD lane 0)) :: rest.1, rest.2)

/-- The accesses of the registers of a transfer up to the first that faults. -/
def State.spillGood (s : State) (k : Ctx) (kind : Acc) (b : Nat) (m : Word32) (n : Nat) : Nat → List LaneRes
  | 0 => []
  | left + 1 =>
    let rs := s.spillLanes k kind b (n - (left + 1)) m
    if rs.any fun r => r.bad.isSome then [] else rs ++ s.spillGood k kind b m n left

/-- `vspill` (R192 to R194). -/
def execVspill (f : MWord) (s : State) : Host.Outcome State Fault Refusal :=
  simt s fun k =>
    let i := Instr.vspill f
    let m := k.active f.pk (modNP f.mod)
    let n := f.b.toNat
    let us := k.use f.a f.actl 1 0 ++ k.use f.d 0 n m
    s.issueRegs k i us [] fun wv =>
      let left := if m = 0 then 0 else n - k.spillStart
      let good := s.spillGood k .write (k.spillBase f) m n left
      match s.memBegin k true true true good with
      | .error t => t
      | .ok s0 => match s0.recordAll k .write good with
      | none => s.serialise k i
      | some s1 => s1.spillFrom k i f (k.spillBase f) m wv n left

/-- `vfill` (R192 to R194). -/
def execVfill (f : MWord) (s : State) : Host.Outcome State Fault Refusal :=
  simt s fun k =>
    let i := Instr.vfill f
    let m := k.active f.pk (modNP f.mod)
    let n := f.b.toNat
    s.issueRegs k i (k.use f.a f.actl 1 0) (k.dst f.d n m) fun wv =>
      let left := if m = 0 then 0 else n - k.spillStart
      let good := s.spillGood k .read (k.spillBase f) m n left
      match s.memBegin k false true false good with
      | .error t => t
      | .ok s0 => match s0.recordAll k .read good with
      | none => s.serialise k i
      | some s1 =>
        let out := s1.fillFrom k i f (k.spillBase f) m n left
        match out.2 with
        | some t =>
          let s2 := if out.1.isEmpty then s1 else s1.setWave k.w fun v => v.later out.1 none 0 none
          s2.takeTrap k.w k.slot t
        | none =>
          let w0 := s1.keepEpoch k wv
          s1.commit k (if out.1.isEmpty then w0 else w0.later out.1 none 0 none) i.len

end Sys2Proof.Machine
end

