-- ==== Sys2Proof/Machine/Sha3.lean ====
section
/-!
DEFINITION. SHA3-512 (18 R457; 19 R467, R469).  The manual names the function; its rounds are those of the public
standard (log entry 14).
-/

namespace Sys2Proof.Machine

/-- The round constants of the permutation. -/
def keccakRC : List Word64 :=
  [0x0000000000000001, 0x0000000000008082, 0x800000000000808A, 0x8000000080008000, 0x000000000000808B, 0x0000000080000001,
   0x8000000080008081, 0x8000000000008009, 0x000000000000008A, 0x0000000000000088, 0x0000000080008009, 0x000000008000000A] ++
  [0x000000008000808B, 0x800000000000008B, 0x8000000000008089, 0x8000000000008003, 0x8000000000008002, 0x8000000000000080,
   0x000000000000800A, 0x800000008000000A, 0x8000000080008081, 0x8000000000008080, 0x0000000080000001, 0x8000000080008008]

/-- The rotation of lane x + 5y. -/
def keccakRot : List Nat :=
  [0, 1, 62, 28, 27, 36, 44, 6, 55, 20, 3, 10, 43, 25, 39, 41, 45, 15, 21, 8, 18, 2, 61, 56, 14]

/-- Lane x of row y, both taken modulo 5. -/
def lane64 (a : List Word64) (x y : Nat) : Word64 := a.getD (x % 5 + 5 * (y % 5)) 0

/-- One round. -/
def keccakRound (a : List Word64) (rc : Word64) : List Word64 :=
  let col := (List.range 5).map fun x => (List.range 5).foldl (fun acc y => acc ^^^ lane64 a x y) (0 : Word64)
  let d := (List.range 5).map fun x => col.getD ((x + 4) % 5) 0 ^^^ (col.getD ((x + 1) % 5) 0).rotateLeft 1
  let t := (List.range 25).map fun i => a.getD i 0 ^^^ d.getD (i % 5) 0
  let b := (List.range 25).map fun i =>
    let x := (i % 5 + 3 * (i / 5)) % 5
    let y := i % 5
    (lane64 t x y).rotateLeft (keccakRot.getD (x + 5 * y) 0)
  let c := (List.range 25).map fun i =>
    lane64 b (i % 5) (i / 5) ^^^ (~~~(lane64 b (i % 5 + 1) (i / 5)) &&& lane64 b (i % 5 + 2) (i / 5))
  match c with
  | x :: xs => (x ^^^ rc) :: xs
  | [] => []

/-- The permutation. -/
def keccakF (a : List Word64) : List Word64 := keccakRC.foldl keccakRound a

/-- Absorbs blocks of 72 bytes. -/
def keccakAbsorb : Nat → List Byte → List Word64 → List Word64
  | 0, _, a => a
  | n + 1, bs, a =>
    let block := (List.range 9).map fun i => BitVec.ofNat 64 (ofBytes ((bs.drop (8 * i)).take 8))
    let x := (List.range 25).map fun i => a.getD i 0 ^^^ block.getD i 0
    keccakAbsorb n (bs.drop 72) (keccakF x)

/-- The padding of a message to whole blocks. -/
def sha3Pad (bs : List Byte) : List Byte :=
  let r := 72 - bs.length % 72
  if r = 1 then bs ++ [0x86] else bs ++ [0x06] ++ List.replicate (r - 2) 0 ++ [0x80]

/-- SHA3-512 of a message: 64 bytes. -/
def sha3_512 (bs : List Byte) : List Byte :=
  let m := sha3Pad bs
  ((keccakAbsorb (m.length / 72) m (List.replicate 25 0)).take 8).flatMap fun w => bytesOf 8 w.toNat

end Sys2Proof.Machine
end

