-- ==== Sys2Proof/Machine/Persist.lean ====
section
/-!
DEFINITION. Recovery domains: `ck.begin` and `ck.seal` (07 R218, R219), the persistence unit (18 R451 to R457) and restore
(18 R459, R460).
-/

namespace Sys2Proof.Machine

/-! ## Accepting CK writes -/

/-- The agent number of the persistence unit (R398). -/
def persistAgent : Nat := 97

/-- Undo copies that a domain's log holds: of the current interval and of RCP's (R456). -/
def Domain.undoHeld (d : Domain) : Nat :=
  d.undo.length + (d.seals.map fun x => if x.hasUndo then x.undo.length else 0).foldl (· + ·) 0

/-- The physical line at which the persistence unit puts a seal record or an undo copy; where in the part of the log region
before the outbound ring is not stated (R456 to R458; log entry 15). -/
def Domain.logLine (x : Domain) (what n : Nat) : Nat :=
  x.logbase / 64 + 1 + Config.logPlace what (512 * n + 8 * x.part + x.d) % ((x.logsize - x.logsize / 4) / 64 - 2)

/-- The line of the undo copy of a line in the current interval (R456). -/
def Domain.undoLine (x : Domain) (line : Nat) : Nat := x.logLine (line + 1) x.rcp

/-- A write to a line needs an undo copy of it, and the log has room (R456). -/
def Domain.copies (x : Domain) (line : Nat) : Bool :=
  !x.tags.contains line && decide (x.undoHeld < Config.undoRoom x.logsize)

/-- The lines that the buffer of 8 MiB holds (R451). -/
def bufferLines : Nat := 131072

/-- A line enters the buffer of the persistence unit, whose oldest line goes to LPDDR-6 when the buffer is full (R399,
R451). -/
def State.bufferLine (s : State) (line : Nat) : State :=
  if s.ckBuf.contains line then s
  else if s.ckBuf.length < bufferLines then { s with ckBuf := line :: s.ckBuf }
  else match s.ckBuf.getLast? with
  | some old => { s.tallyWrite old (some .persist) with ckBuf := line :: s.ckBuf.dropLast }
  | none => s

/-- Lines of the buffer go to LPDDR-6 (R399, R451, R457). -/
def State.drainLines (s : State) (which : Nat → Bool) : State :=
  let s1 := (s.ckBuf.filter which).foldl (fun st ln => st.tallyWrite ln (some .persist)) s
  { s1 with ckBuf := s.ckBuf.filter fun ln => !which ln }

/-- The lines that the persistence unit reads are asked for as its class: true when all are admitted (R399 to R401). -/
def State.persistReads (s : State) (lines : List Nat) : State × Bool :=
  let r := s.readLines (.agent persistAgent) (some .persist) (lines.filter fun ln => !s.inSys ln && !s.ckBuf.contains ln)
  if r.2 then (r.1.dropGranted (.agent persistAgent), true) else r

/-- The first write of an interval to a line: its tag, and its undo copy where the log has room (R455, R456). -/
def State.tagLine (s : State) (p d line : Nat) (old : Line) : State :=
  match s.domain? p d with
  | none => s
  | some x =>
    if x.tags.contains line then s
    else if x.copies line then
      let at_ := x.undoLine line
      ((s.writeRaw (64 * at_) (recBytes old)).bufferLine at_).setDomain p d fun y =>
        { y with tags := y.tags ++ [line], undo := (line, old) :: y.undo }
    else
      let s1 := s.setDomain p d fun y => { y with tags := y.tags ++ [line], noundo := true }
      if x.noundo then s1 else s1.journal p persistAgent 0x0C d s.now

/-- The persistence unit is under restart, and accepts nothing (R471). -/
def State.persistDown (s : State) : Bool := s.proctor.resets.contains persistAgent

/-- Pending CK write k is accepted, after every earlier write to its line and once its undo copy has been read (R452, R455,
R456). -/
def State.ckAccept (s : State) (k : Nat) : State :=
  match s.ckPend[k]? with
  | none => s
  | some w =>
    if s.persistDown || (s.ckPend.take k).any (fun x => x.line == w.line) then s
    else
      let undo := match s.domain? w.part w.d with | some x => x.copies w.line | none => false
      let r := s.persistReads (if undo then [w.line] else [])
      if !r.2 then r.1
      else
        (({ r.1 with ckPend := r.1.ckPend.eraseIdx k } : State).bufferLine w.line).tagLine w.part w.d w.line w.old

/-- The persistence unit accepts a CK write. -/
def execCkWriteAccepted (k : Nat) (s : State) : Host.Outcome State Fault Refusal := .next (s.ckAccept k)

/-- Puts a line back from an undo copy; its poison is cleared (R460). -/
def State.putBack (s : State) (line : Nat) (old : Line) : State :=
  { s with mem := Memory.putLine s.mem line old
           poison := s.poison.filter fun l => l != line
           dirty := s.dirty.filter fun (d : DirtyLine) => d.line != line
           copies := s.copies.filter fun c => c.1 != line }

/-- CK writes that were never accepted are lost, newest first. -/
def State.dropPending (s : State) (p : CkWrite → Bool) : State :=
  let gone := (s.ckPend.filter p).reverse
  let s1 := gone.foldl (fun st w => st.putBack w.line w.old) s
  { s1 with ckPend := s1.ckPend.filter fun w => !p w }

/-! ## Checkpoints -/

/-- The accepted content of a line. -/
def State.acceptedLine (s : State) (line : Nat) : Line :=
  match s.ckPend.find? fun w => w.line == line with
  | some w => w.old
  | none => Memory.line s.mem line

/-- The digest of a set of lines, in ascending physical address (R457). -/
def State.lineDigest (s : State) (tags : List Nat) : List Byte :=
  sha3_512 ((tags.mergeSort (· ≤ ·)).flatMap fun ln => bytesOf 8 (64 * ln) ++ recBytes (s.acceptedLine ln))

/-- The seal record (R457). -/
def Seal.record (x : Seal) : List Byte :=
  bytesOf 8 x.n ++ bytesOf 8 x.count ++ bytesOf 8 x.time ++ x.digest ++ bytesOf 40 0

/-- Steps 1 and 2 of a seal: the interval's lines and undo copies go to LPDDR-6, then the seal record (R457). -/
def State.sealWrites (s : State) (x : Domain) (sl : Seal) : State :=
  let s1 := s.drainLines fun ln => x.tags.contains ln || x.undo.any fun u => x.undoLine u.1 == ln
  let at_ := x.logLine 0 sl.n
  ((s1.writeRaw (64 * at_) sl.record).tallyWrite at_ (some .persist)).tallyWrite (at_ + 1) (some .persist)

/-- R457: the seal of the open checkpoint. -/
def State.sealCk (s : State) (p d : Nat) : State :=
  match s.domain? p d with
  | none => s
  | some x =>
    let sl : Seal :=
      { n := x.openCk, count := x.tags.length, time := s.now, digest := s.lineDigest x.tags, prev := x.rcp, tags := x.tags,
        undo := x.undo, hasUndo := true, noundo := x.noundo }
    let old := x.seals.map fun (y : Seal) => { y with undo := [], hasUndo := false }
    let s1 := (s.sealWrites x sl).setDomain p d fun y =>
      { y with rcp := x.openCk, openCk := 0, state := 0, noundo := false, sealtime := s.now, tags := [], undo := [],
               seals := sl :: old }
    let done := fun (t : Nat) => s1.domains.all fun (y : Domain) => y.part != p || decide (t < y.sealtime)
    { s1 with
      domains := s1.domains.map fun (y : Domain) =>
        if y.part == p && y.d == 0 then { y with outlog := y.outlog.filter fun e => !done (field e.toNat 0 64) } else y }

/-- The checks of R218 and R334, with the domain and checkpoint number. -/
def State.ckCheck (s : State) (k : Ctx) (d n : Nat) (opening : Bool) : Option Nat :=
  if !k.l.ckctl || k.l.determ then some 0x0A
  else if 7 < d then some 0x08
  else match s.domain? k.part d with
  | none => some 0x08
  | some x =>
    if opening then (if x.openCk != 0 || decide (n ≤ x.rcp) then some 0x08 else none)
    else if x.openCk == n && n != 0 then none else some 0x08

/-- `ck.begin` (R219). -/
def execCkBegin (f : RWord) (s : State) : Host.Outcome State Fault Refusal :=
  simt s fun k =>
    let i := Instr.ckBegin f
    s.issueRegs k i (k.use f.a f.actl 1 0 ++ k.use f.b f.bctl 1 0) [] fun wv =>
      let d := k.scalSrc s.now f.lit 64 f.a
      let n := k.scalSrc s.now f.lit 64 f.b
      match s.ckCheck k d n true with
      | some c => s.trapWhole k c i
      | none => if s.persistDown then s.opwait k else (s.commit k wv i.len).setDomain k.part d fun x => { x with openCk := n, state := 1 }

/-- `ck.seal` (R219): a release at recovery scope, then the seal. -/
def execCkSeal (f : RWord) (s : State) : Host.Outcome State Fault Refusal :=
  simt s fun k =>
    let i := Instr.ckSeal f
    s.issueRegs k i (k.use f.a f.actl 1 0 ++ k.use f.b f.bctl 1 0) (k.dst f.d 1 0) fun wv =>
      let d := k.scalSrc s.now f.lit 64 f.a
      let n := k.scalSrc s.now f.lit 64 f.b
      match s.ckCheck k d n false with
      | some c => s.trapWhole k c i
      | none =>
        if s.ckOutstanding k.w || s.persistDown then s.opwait k
        else
          let count := match s.domain? k.part d with | some x => x.tags.length | none => 0
          (s.commit k (k.sputD wv f.d count) i.len).sealCk k.part d

/-! ## Restore -/

/-- Applies an undo log; the lines are written as the persistence unit's (R399, R460). -/
def State.applyUndo (s : State) (us : List (Nat × Line)) : State :=
  us.foldl (fun st u => (st.putBack u.1 u.2).tallyWrite u.1 (some .persist)) s

/-- What a restore has found: RCP, the torn checkpoint and the reason. -/
structure Restored where
  st     : State
  rcp    : Nat
  torn   : Nat
  reason : Nat

/-- The loop of R460 over the sealed checkpoints, at most `fuel` of them. -/
def Restored.check (seals : List Seal) : Nat → Restored → Restored
  | 0, r => r
  | fuel + 1, r =>
    if r.rcp = 0 then r
    else match seals.find? fun x => x.n == r.rcp with
    | none => { r with rcp := 0 }
    | some x =>
      let counted := x.count == x.tags.length
      let digest := !(x.tags.any fun l => r.st.poison.contains l) && r.st.lineDigest x.tags == x.digest
      if counted && digest then r
      else
        let bad := { r with torn := x.n, reason := if counted then 3 else 2 }
        if x.noundo || !x.hasUndo then { bad with rcp := 0 }
        else Restored.check seals fuel { bad with st := r.st.applyUndo x.undo, rcp := x.prev }

/-- The payload of a KIND 0x0B entry: domain, TORNCK, REASON and the RCP chosen, a word each (log entry 26). -/
def tornPayload (d torn reason rcp : Nat) : Nat := d + putAt torn 64 + putAt reason 128 + putAt rcp 192

/-- What a restore of a domain finds and undoes (R460): RCP chosen, the torn checkpoint, the reason, and the pages put
back. -/
def State.restored (s : State) (x : Domain) : Restored :=
  let lost := !x.tags.isEmpty && x.noundo
  let s1 := if x.tags.isEmpty || lost then s else s.applyUndo x.undo
  let torn := if x.tags.isEmpty then 0 else x.openCk
  Restored.check x.seals (x.seals.length + 1)
    { st := s1, rcp := if lost then 0 else x.rcp, torn := torn, reason := if lost || torn != 0 then 1 else 0 }

/-- The lines that a restore reads for the digests of the checkpoints that it tries (R460). -/
def Domain.digestLines (x : Domain) (r : Restored) : List Nat :=
  ((x.seals.filter fun y => decide (r.rcp ≤ y.n) && decide (y.n ≤ x.rcp)).flatMap (·.tags)).eraseDups

/-- CHECKPOINT_TORN: the journal of the partition, and the exception queue of every loaded job of it whose last launch record
has CKCTL = 1 (R460). -/
def State.reportTorn (s : State) (p d : Nat) (r : Restored) : State :=
  let s1 := s.journal p persistAgent 0x0B (tornPayload d r.torn r.reason r.rcp) s.now
  let js := (s1.jobs.filter fun e => e.2.loaded && cardPart e.2.card == p && e.2.lastCkctl).map (·.1)
  js.foldl (fun st j => st.raiseJob j 0 0x19 0 noSeq (d + putAt r.reason 8) r.torn s.now) s1

/-- R460: a restore that has been requested runs, once the reads for its digests are admitted (R401). -/
def State.restoreDomain (s : State) (p d : Nat) : State :=
  match s.domain? p d with
  | none => s
  | some x =>
    if !x.busy || s.persistDown then s
    else
      let s0 := s.dropPending fun w => w.part == p && w.d == d
      let a := s0.persistReads (x.digestLines (s0.restored x))
      if !a.2 then a.1
      else
        let r := a.1.restored x
        let sealed := match x.seals.find? fun y => y.n == r.rcp with | some y => y.time | none => 0
        let s2 := r.st.setDomain p d fun y =>
          { y with rcp := r.rcp, openCk := 0, state := 0, busy := false, tornf := r.reason != 0, reason := r.reason,
                   tornck := r.torn, noundo := false, sealtime := sealed, tags := [], undo := [],
                   seals := y.seals.filter fun z => decide (z.n ≤ r.rcp) }
        if r.reason = 0 then s2 else s2.reportTorn p d r

/-- The restore of domain d of partition p. -/
def execRestore (p d : Nat) (s : State) : Host.Outcome State Fault Refusal := .next (s.restoreDomain p d)

end Sys2Proof.Machine
end

