-- ==== Sys2Proof/Machine/Links.lean ====
section
/-!
DEFINITION. Tokens, joining and leaving (11 R335 to R341), the isolation of a cluster (18 R464), lane and mesh failures
(18 R462, R463), the patrol scrub (18 R441) and the loss of input power (18 R451).
-/

namespace Sys2Proof.Machine

/-! ## Lost tokens and isolation -/

/-- The home takes all tokens of a line, advances its generation and poisons it; grants of the cluster on the line close
as lost (R341). -/
def State.lostLine (s : State) (line : Nat) (h : Holder) : State :=
  let mem := match s.dirty.find? fun d => d.line == line with
    | some d => Memory.putLine s.mem line d.home
    | none => s.mem
  let onLine := fun (g : Grant) => (match h with | .cluster n => g.cl == n | .pair _ | .timetable => false) &&
    (List.range g.count).any fun i => (List.range g.width).any fun j =>
      match s.xlate g.part (clusterAgents g.cl) (g.base + i * g.stride + j) with
      | .ok pa _ _ _ => pa / 64 == line
      | .fault _ _ => false
  { s with mem := mem
           dirty := s.dirty.filter fun d => d.line != line
           copies := s.copies.filter fun c => c.1 != line
           tokens := s.tokens.filter fun t => t.line != line
           gens := assocSet s.gens line (s.gen line + 1)
           poison := if s.poison.contains line then s.poison else line :: s.poison
           grants := s.grants.filter fun g => !onLine g }

/-- Every line of which a holder has tokens or dirty data is lost; a line of a CK page, which it holds clean, is not: its
tokens go home (R341, R451). -/
def State.loseHolder (s : State) (h : Holder) : State :=
  let spared := fun (l : Nat) => s.ckSeen.contains l && !s.dirty.any fun d => d.line == l && decide (d.holder = h)
  let s1 := (s.heldLines h).foldl (fun st l => if spared l then st.evictLine h l else st.lostLine l h) s
  { s1 with copies := s1.copies.filter fun c => c.2.1 ≠ h }

/-- The gangs with work on a cluster. -/
def State.gangsOn (s : State) (cl : Nat) : List (Nat × Nat) :=
  (List.range s.launches.length).flatMap fun l =>
    match s.launches[l]? with
    | none => []
    | some x => ((List.range x.gangs.length).filter fun g =>
        (match x.gangs[g]? with | some y => y.placed && y.cls.contains cl | none => false) ||
        (s.cmds.any fun c => c.launch == l && c.gang == g && c.cl == cl && c.unfinished)).map fun g => (l, g)

/-- A cluster is isolated: its gangs are contained with LINK_LOST and it leaves every pool (R464). -/
def State.isolate (s : State) (cl : Nat) (detail : Option Nat) : State :=
  match s.clusters[cl]? with
  | none => s
  | some c =>
    if c.isolated then s
    else
      let s1 := s.setCluster cl fun x => { x with isolated := true }
      (s.gangsOn cl).foldl (fun st p => st.containGang p.1 p.2 0x1A cl [] detail) s1

/-- The neighbours of a cluster in the 8 × 8 mesh (R12). -/
def meshNeighbours (n : Nat) : List Nat :=
  (List.range 64).filter fun m => (m / 8 == n / 8 && (m + 1 == n || n + 1 == m)) || m + 8 == n || n + 8 == m

/-- No route leads to a holder: every mesh link of its cluster has failed (R463). -/
def State.cutOff (s : State) : Holder → Bool
  | .cluster n => decide (n < 64) && (meshNeighbours n).all fun m => s.links.contains (min m n, max m n)
  | .pair _ | .timetable => false

/-- The tokens of a line that an unreachable holder has are declared lost, and its cluster is isolated (R341, R464). -/
def State.tokensLost (s : State) (line : Nat) (h : Holder) : State :=
  let s1 := s.lostLine line h
  match h with
  | .cluster n => s1.isolate n none
  | .pair _ | .timetable => s1

/-! ## Tokens -/

/-- TOKEN_REQUEST: a joined holder starts to collect tokens that it lacks, as for an access that it cannot yet make. -/
def execTokenRequest (h : Holder) (line : Nat) (wr : Bool) (s : State) : Host.Outcome State Fault Refusal :=
  .next (s.requestTokens h line wr)

/-- FORWARDED_REQUEST: the holder that a forwarded request has reached answers it by what it holds; one that has left
answers with none, one whose own persistent request is active withholds, and while another's is active every other
request gets nothing (R336, R337, R340).  One that no route leads to has lost its tokens of the line (R341, R463). -/
def execForwardedRequest (m : Nat) (s : State) : Host.Outcome State Fault Refusal :=
  .next <|
    match s.tokMsgs[m]? with
    | some (.forward line to_ req wr gen) =>
      let s1 : State := { s with tokMsgs := s.tokMsgs.eraseIdx m }
      let withheld := match s.activeReq line with | some r => decide (r.holder ≠ req) | none => false
      if gen ≠ s.gen line || withheld || !s.joinedIn to_ then s1
      else if s.cutOff to_ then s1.tokensLost line to_
      else
        let a := tokenAnswer (s.tokensAt to_ line) (s.ownsAt to_ line) wr
        s1.sendTokens (some to_) line req a.1 a.2
    | _ => s

/-- A requester that holds what its access needs performs it; a persistent request stays until it is deactivated. -/
def State.satisfied (s : State) (h : Holder) (line : Nat) : State :=
  let n := s.tokensAt h line
  { s with tokReqs := s.tokReqs.filter fun r =>
      !(r.line == line && decide (r.holder = h) && r.stage < 3 && (if r.write then n == 128 else decide (0 < n))) }

/-- Tokens for a holder that has left go home, with the data that travels with them (R340). -/
def State.comeHome (s : State) (h : Holder) (line : Nat) (owner : Bool) : State :=
  let mine := fun (d : DirtyLine) => d.line == line && decide (d.holder = h)
  (match s.dirty.find? mine with
   | some d => if owner then ({ s with dirty := s.dirty.filter fun d => !mine d } : State).writeBack line d.charge else s
   | none => s).homecoming line

/-- TOKEN_RESPONSE: tokens reach their requester, which keeps them, or passes them on to the requester whose persistent
request is active; tokens for the home or for a holder that has left go home, and those of an earlier generation are
discarded (R336, R337, R340, R341). -/
def execTokenResponse (m : Nat) (s : State) : Host.Outcome State Fault Refusal :=
  .next <|
    match s.tokMsgs[m]? with
    | some (.response line to_ n owner gen) =>
      let s1 : State := { s with tokMsgs := s.tokMsgs.eraseIdx m }
      if gen ≠ s.gen line then s1
      else match to_ with
      | none => s1.homecoming line
      | some h =>
        if !s.joinedIn h then s1.comeHome h line owner
        else
          let s2 := s1.putTokens h line (s.tokensAt h line + n) (s.ownsAt h line || owner)
          match s2.activeReq line with
          | some r => if r.holder ≠ h then s2.sendTokens (some h) line r.holder (s2.tokensAt h line) (s2.ownsAt h line)
                      else s2.satisfied h line
          | none => s2.satisfied h line
    | _ => s

/-- The home activates the oldest queued persistent request of a line, ties by agent number: every joined holder and the
home send it all their tokens (R337). -/
def State.activate (s : State) (line : Nat) : State :=
  if (s.activeReq line).isSome then s
  else
    let queued := s.tokReqs.filter fun r => r.line == line && r.stage == 2
    let older := fun (x r : TokReq) => decide (x.sent < r.sent) || (x.sent == r.sent && decide (agentOf x.holder ≤ agentOf r.holder))
    match queued.mergeSort older with
    | [] => s
    | r :: _ =>
      let s1 : State := { s with tokReqs := s.tokReqs.map fun x =>
        if x.line == line && decide (x.holder = r.holder) then { x with stage := 3 } else x }
      let send := fun (st : State) (x : Holder) =>
        if st.cutOff x then st.tokensLost line x
        else st.sendTokens (some x) line r.holder (st.tokensAt x line) (st.ownsAt x line)
      let s2 := (s1.joinedHolders.filter fun x => x ≠ r.holder).foldl send s1
      s2.sendTokens none line r.holder (s2.homeTokens line) (s2.homeOwns line)

/-- TRANSIENT_TIMEOUT: 2,048 cycles, 1,280 ns, have passed without the tokens; after the fourth failure the requester
sends a persistent request, before that the transient one again (R337). -/
def execTransientTimeout (h : Holder) (line : Nat) (s : State) : Host.Outcome State Fault Refusal :=
  .next <|
    match s.tokReqs.find? fun r => r.line == line && decide (r.holder = h) with
    | none => s
    | some r =>
      if r.stage ≠ 0 || s.now < r.last + 1280 then s
      else
        let mine := fun (x : TokReq) => x.line == line && decide (x.holder = h)
        let put := fun (f : TokReq → TokReq) => ({ s with tokReqs := updWhere mine f s.tokReqs } : State)
        if 4 ≤ r.failures + 1 then put fun x => { x with failures := x.failures + 1, stage := 1 }
        else (put fun x => { x with failures := x.failures + 1, last := s.now }).transient h line r.write

/-- PERSISTENT_REQUEST: a persistent request reaches the home (R337). -/
def execPersistentRequest (h : Holder) (line : Nat) (s : State) : Host.Outcome State Fault Refusal :=
  .next <|
    ({ s with tokReqs := s.tokReqs.map fun x =>
        if x.line == line && decide (x.holder = h) && x.stage == 1 then { x with stage := 2 } else x } : State).activate line

/-- PERSISTENT_DEACTIVATE: the active requester has performed its access; the home activates the next (R337). -/
def execPersistentDeactivate (line : Nat) (s : State) : Host.Outcome State Fault Refusal :=
  .next <|
    match s.activeReq line with
    | none => s
    | some r =>
      let n := s.tokensAt r.holder line
      if (if r.write then n == 128 else decide (0 < n)) then
        ({ s with tokReqs := s.tokReqs.filter fun x => !(x.line == line && decide (x.holder = r.holder)) } : State).activate line
      else s

/-! ## Leaving and joining -/

/-- When a cache leaves (R340): its cluster has no CACHE bank, is power-gated, isolated or held by a drain; its pair is
under restart. -/
def State.leaveDue (s : State) : Holder → Bool
  | .cluster n => match s.clusters[n]? with
    | some c => !c.modes.contains .cache || c.drain.isSome || c.isolated ||
        c.power == .powerGated || c.power == .retain || c.power == .off
    | none => false
  | .pair p => s.proctor.resets.contains (64 + p)
  | .timetable => false

/-- A cache cleans, returns its tokens and leaves (R340). -/
def State.leaveCache (s : State) : Holder → State
  | .cluster n => s.clusterLeave n
  | .pair p => { s.evictAll (.pair p) with left := if s.left.contains (.pair p) then s.left else .pair p :: s.left }
  | .timetable => s

/-- A cache joins with no tokens (R340). -/
def State.joinCache (s : State) : Holder → State
  | .cluster n => s.clusterJoin n
  | .pair p => { s with left := s.left.filter fun h => h ≠ .pair p }
  | .timetable => s

/-- LEAVE. -/
def execLeave (h : Holder) (s : State) : Host.Outcome State Fault Refusal :=
  .next (if s.joinedIn h && s.leaveDue h then s.leaveCache h else s)

/-- JOIN_MESSAGE: a cache that has left and may take part again joins. -/
def execJoinMessage (h : Holder) (s : State) : Host.Outcome State Fault Refusal :=
  .next (
    let known := match h with
      | .cluster n => (match s.clusters[n]? with | some c => c.selfTest | none => false)
      | .pair _ => true
      | .timetable => false
    if known && !s.joinedIn h && !s.leaveDue h then s.joinCache h else s)

/-- TOKENS_LOST: a forward to a joined holder cannot be delivered; an unreachable cluster is isolated (R341, R464). -/
def execTokensLost (line : Nat) (h : Holder) (s : State) : Host.Outcome State Fault Refusal :=
  .next (
    if s.joinedIn h then s.tokensLost line h else s)

/-! ## The compute die -/

/-- A cluster's own state goes: it holds nothing, its cache has left, and it is out of work until its self-test
(R11, R467). -/
def State.resetCluster (s : State) (cl : Nat) : State :=
  let s1 := s.loseHolder (.cluster cl)
  let s2 := s1.setCluster cl fun c => { Cluster.reset cl with isolated := true, withheld := c.withheld, drain := c.drain }
  let s3 := s2.dropReads fun r => match r with
    | .frag w _ => (match s2.waves[w]? with | some v => v.cluster == cl | none => false)
    | _ => false
  { s3 with l1 := s2.l1.filter fun e => e.core / 4 != cl
            tlb := s2.tlb.filter fun e => !(e.agent / 4 == cl && e.agent < 256) && e.agent != 256 + cl
            walks := s2.walks.filter fun e => !(e.agent / 4 == cl && e.agent < 256) && e.agent != 256 + cl
            grants := s2.grants.filter fun g => g.cl != cl
            tokReqs := s2.tokReqs.filter fun r => r.holder ≠ .cluster cl }

/-- A cluster passes its self-test: it is active, joins coherence and is back in its pool (R464, R467, R471). -/
def State.startCluster (s : State) (cl : Nat) (ok : Bool) : State :=
  s.setCluster cl fun c => { c with selfTest := ok, isolated := false, joined := ok, power := if ok then .active else .off }

/-- The compute-die end of the link is reset: its lanes are trained again, and what is in flight to a cluster goes: tokens
come home (R11; log entry 45). -/
def State.resetLinkEnd (s : State) : State :=
  let toCluster := fun (m : TokMsg) => match m with
    | .forward _ (.cluster _) _ _ _ => true
    | .response _ (some (.cluster _)) _ _ _ => true
    | _ => false
  { s with lanes := [], tokMsgs := s.tokMsgs.filter fun m => !toCluster m }

/-- COMPUTE_DIE_RESET: every gang ends; every job with a resident or recessed instance receives LINK_LOST with DETAIL0 = 2,
and every instance completes aborted; CK writes not yet accepted are lost with the clusters (R11, R451, R462).  Every queue
is disabled, so that what R459 asks for holds of every partition (log entry 45). -/
def State.computeDieReset (s : State) : State :=
  let js := s.insts.map (·.job)
  let placed := fun (j : Nat) => (s.jobLaunches j).any fun l =>
    match s.launches[l]? with | some x => x.gangs.any fun g => g.placed || g.recessed | none => false
  let s0 := (js.filter placed).foldl (fun st j =>
    st.raiseJob j 0 0x1A 0 (match st.inst? j with | some i => i.firstSeq | none => noSeq) 2 0 st.now) s
  let s1 := (List.range 64).foldl State.queueOff s0
  let s2 := js.foldl State.abortInst s1
  let s3 := (s2.dropPending fun w => w.wave.isSome)
  let s4 := ((List.range 64).foldl State.resetCluster s3).resetLinkEnd
  (List.range 64).foldl (fun st cl => st.startCluster cl ((s.proctor.clusterOk[cl]?).getD true)) s4

/-- FLIT_CRC_RETRY: the flit is sent again; no agent sees anything but time (R462). -/
def execFlitCrcRetry (s : State) : Host.Outcome State Fault Refusal := .next { s with outTx := s.outTx + 1 }

/-- LANE_RETRAIN: a lane of one direction is retrained out; with fewer than 48 left the compute die is reset (R462). -/
def execLaneRetrain (dir lane : Nat) (s : State) : Host.Outcome State Fault Refusal :=
  .next (
    if 2 ≤ dir || 64 ≤ lane || s.lanes.contains (dir, lane) then s
    else
      let s1 : State := { s with lanes := (dir, lane) :: s.lanes }
      if 64 - (s1.lanes.filter fun l => l.1 == dir).length < 48 then s1.computeDieReset.settle else s1)

/-- MESH_LINK_FAILURE: the flits of the failed link take the routes that the Proctor sets (R463). -/
def execMeshLinkFailure (a b : Nat) (s : State) : Host.Outcome State Fault Refusal :=
  .next (
    if a < 64 && (meshNeighbours a).contains b && !s.links.contains (min a b, max a b) then
      { s with links := (min a b, max a b) :: s.links }
    else s)

/-! ## Scrubbing and power -/

/-- PATROL_SCRUB: an uncorrectable error poisons the line; nothing is consumed (R441, R442). -/
def execPatrolScrub (line : Nat) (fnd : ScrubFinding) (s : State) : Host.Outcome State Fault Refusal :=
  .next (
    match fnd with
    | .clean | .correctable => s
    | .uncorrectable =>
      if s.poison.contains line || s.capacity ≤ 64 * line then s else { s with poison := line :: s.poison })

/-- MODULE_POWER_FAIL: the hold-up energy drains the persistence unit's buffer to LPDDR-6 (R451). -/
def execModulePowerFail (s : State) : Host.Outcome State Fault Refusal := 
  .next (s.drainLines fun _ => true)

end Sys2Proof.Machine
end

