-- ==== Sys2Proof/Machine/Pcie.lean ====
section
/-!
DEFINITION. The PCIe link going down and coming up (16 R426).
-/

namespace Sys2Proof.Machine

/-- The partitions bound to the port: those of its functions, or in the root-port role the one bound to it (R424 to R426). -/
def State.boundParts (s : State) : List Nat :=
  if s.pcie.rootPort then [s.pcie.rootPart] else (s.pcie.fns.map (·.part)).eraseDups

/-- The journal entry of KIND 0x09 of an interval: down, and up or zero (R426). -/
def State.linkEntry (s : State) (down up : Nat) : State :=
  s.boundParts.foldl (fun st p => st.journal p 98 0x09 (down + putAt up 64) st.now) s

/-- The link goes down: LINK_LOST once to every job of the partitions bound to the port (R426). -/
def State.linkDown (s : State) : State :=
  if !s.pcie.up then s
  else
    let s1 : State := { s with pcie := { s.pcie with up := false, downAt := some s.now } }
    let js := (s1.jobs.filter fun e => e.2.loaded && s1.boundParts.contains (cardPart e.2.card)).map (·.1)
    (js.foldl (fun st j => st.raiseJob j 0 0x1A 0 noSeq 0 0 st.now) s1).linkEntry s.now 0

/-- PCIE_LINK_DOWN. -/
def execPcieLinkDown (s : State) : Host.Outcome State Fault Refusal := .next s.linkDown

/-- PCIE_LINK_UP: the link is trained, after the boot has released the port; the interval it was down, if any, is complete
(R426, R467). -/
def execPcieLinkUp (s : State) : Host.Outcome State Fault Refusal :=
  .next (
    if s.pcie.up || s.proctor.resets.contains 98 then s
    else
      let s1 : State := { s with pcie := { s.pcie with up := true, downAt := none } }
      match s.pcie.downAt with
      | some t => s1.linkEntry t s.now
      | none => s1)

end Sys2Proof.Machine
end

