-- ==== Sys2Proof/Machine/Proctor.lean ====
section
/-!
DEFINITION. The Proctor: boot (19 R467, R468), its own restart (R465), quotes (R469), heartbeats and the restart of one
domain (R470, R471), power states (R472) and the power cap (R473).
-/

namespace Sys2Proof.Machine

def State.setProctor (s : State) (f : Proctor → Proctor) : State := { s with proctor := f s.proctor }

/-! ## Boot -/

/-- Stage 1 accepts a firmware slot: the root key, the signature over the slot's digest, the security version (R467). -/
def FwSlot.valid (x : FwSlot) (svn : Nat) : Bool :=
  sha3_512 x.key == Config.rootKeyDigest && Config.mldsaVerify x.key (sha3_512 x.image) x.sig && decide (svn ≤ x.svn)

/-- Stage 1: slot A, else slot B (R467). -/
def Proctor.pickSlot (p : Proctor) : Option (Bool × FwSlot) :=
  match p.slotA, p.slotB with
  | some a, some b => if a.valid p.fwsvn then some (false, a) else if b.valid p.fwsvn then some (true, b) else none
  | some a, none => if a.valid p.fwsvn then some (false, a) else none
  | none, some b => if b.valid p.fwsvn then some (true, b) else none
  | none, none => none

/-- LENGTH of a configuration record: the bytes signed (R468). -/
def ConfigRec.signed (c : ConfigRec) : List Byte := c.image.take (field (ofBytes (c.image.take 64)) 64 32)

/-- The header of a configuration record is in order (R468). -/
def ConfigRec.headerOk (c : ConfigRec) (svn : Nat) : Bool :=
  let h := ofBytes (c.image.take 64)
  field h 0 32 == 0x43464721 && field h 32 16 == 1 && decide (1 ≤ field h 48 16) && decide (field h 48 16 ≤ 64) &&
  decide (64 ≤ field h 64 32) && decide (field h 64 32 ≤ c.image.length) && field h 96 32 == c.svn && decide (svn ≤ c.svn) &&
  field h 128 384 == 0

/-- A PCIe function of the record is in range (R423, R424). -/
def PcieFn.inRange (f : PcieFn) : Bool :=
  decide (f.fn < 64) && decide (f.part < 64) && decide (30 ≤ f.hbits) && decide (f.hbits ≤ 38) &&
  f.hbase.toNat % 2 ^ f.hbits == 0 && (!f.sysWin || f.fn == 0)

/-- A CSI-2 port of the record is in range (R428). -/
def CsiPort.inRange (c : CsiPort) : Bool :=
  (match c.phy with
   | .dphy n => n == 1 || n == 2 || n == 4
   | .cphy n => decide (1 ≤ n) && decide (n ≤ 3)) &&
  decide (c.chan < 16) && c.types.all fun x => match x with | .other _ => false | _ => true

/-- An Ethernet filter of the record is in range (R429). -/
def EthFilter.inRange (f : EthFilter) : Bool :=
  let below := fun (x : Option Nat) (n : Nat) => match x with | some v => decide (v < n) | none => true
  below f.mac (2 ^ 48) && below f.vlan 4096 && below f.etype 65536

/-- No value occurs twice. -/
def noRepeats (l : List Nat) : Bool := l.eraseDups.length == l.length

/-- Every field of a configuration record lies in its stated range (R388, R403, R405, R423 to R430, R453, R468). -/
def ConfigRec.inRange (c : ConfigRec) : Bool :=
  let mib := 2 ^ 20
  (c.parts.all fun e => decide (e.1 < 64) && e.2.2.2.1.toNat % 4096 == 0) && (c.pools.all fun e => decide (e.1 < 64)) &&
  c.classes.length == 4 && (c.classes.all fun x => decide (10000 ≤ x.window.toNat) && decide (x.window.toNat ≤ 10000000)) &&
  c.owners.length == 12 && decide (c.rootPart < 64) && c.fns.all PcieFn.inRange && noRepeats (c.fns.map (·.fn)) &&
  c.csi.length == 8 && c.csi.all CsiPort.inRange && c.filters.length == 4 &&
  (c.filters.all fun x => decide (x.length ≤ 16) && x.all EthFilter.inRange) &&
  (c.rings.all fun x => decide (x.1 < 4) && decide (x.2.length ≤ 4) && x.2.all fun h => h.toNat % 64 == 0) &&
  (c.timed.all fun x => decide (x < 4)) &&
  (c.domains.all fun d => decide (d.1 < 64) && decide (d.2.1 < 8) && d.2.2.1 % mib == 0 && d.2.2.2 % mib == 0 &&
    decide (0 < d.2.2.2)) && noRepeats (c.domains.map fun d => 8 * d.1 + d.2.1) &&
  decide (60000 ≤ c.pcap) && decide (c.pcap ≤ 240000)

/-- Stage 2: 0 for a record that is signed and well formed, else the failure code (R467, R468). -/
def configFault (p : Proctor) (owners : List (List Byte)) : Nat :=
  match p.config with
  | none => 0x02
  | some c =>
    if !(owners.take 4).any fun k => Config.mldsaVerify k (sha3_512 c.signed) c.sig then 0x02
    else if !(c.headerOk p.cfgsvn && c.wf && c.inRange) then 0x03
    else 0

/-- A pool entry that a cluster's kind allows (R390). -/
def poolAllowed (cl : Nat) (v : BitVec 2) : Bool := !(isG cl && v == 0) && !(!isG cl && v == 1)

/-- QMASK of a partition: the bit of an enabled queue stays, and a bit set in another entry is not set (R389). -/
def State.writeQmask (s : State) (p : Nat) (v : Word64) : State :=
  let others := fun (q : Nat) => (List.range 64).any fun i => i != p && match s.parts[i]? with
    | some x => x.qmask.getLsbD q
    | none => false
  let bit := fun (x : Part) (q : Nat) =>
    if (s.qtab.getD q QEntry.reset).en then x.qmask.getLsbD q else v.getLsbD q && !others q
  let mask := fun (x : Part) => ((List.range 64).map fun q => if bit x q then 2 ^ q else 0).foldl (· + ·) 0
  s.setPart p fun x => { x with qmask := BitVec.ofNat 64 (mask x) }

/-- A recovery domain as the record defines it, with the header as it stands in memory (R453, R454, R467). -/
def State.foundDomain (s : State) (d : Nat × Nat × Nat × Nat) : Domain :=
  let h := ofBytes (Memory.read s.mem d.2.2.1 64)
  { part := d.1, d := d.2.1, logbase := d.2.2.1, logsize := d.2.2.2, rcp := field h 0 64, openCk := field h 64 64,
    state := field h 128 8, noundo := bitOf h 136, tornf := bitOf h 137, reason := field h 138 2,
    sealtime := field h 192 64, tornck := field h 256 64, req := BitVec.ofNat 8 (field h 320 8), busy := bitOf h 328,
    tags := [], undo := [], seals := [], outlog := [], outlost := 0, outCount := 0 }

/-- Stage 4: the tables of the record are written, and PCIe, Ethernet and CSI-2 are released (R389, R390, R467). -/
def State.applyConfig (s : State) (c : ConfigRec) : State :=
  let s1 := c.parts.foldl (fun (st : State) e =>
    (st.setPart e.1 fun x => { x with en := e.2.1, ways := e.2.2.1, ptroot := e.2.2.2.1 }).writeQmask e.1 e.2.2.2.2) s
  let pool := c.pools.foldl (fun (ps : List (BitVec 2)) e => if poolAllowed e.1 e.2 then ps.set e.1 e.2 else ps) s.pool
  let own := fun (xs : List Stream) (e : (BitVec 6 × Bool) × Nat) =>
    xs.modify e.2 fun x => { x with owner := e.1.1, ownen := e.1.2 }
  let streams := c.owners.zipIdx.foldl own s.streams
  let streams := c.rings.foldl (fun (xs : List Stream) e => xs.modify (8 + e.1) fun x => { x with rings := e.2 }) streams
  { s1 with
      pool := pool, streams := streams
      classes := if c.classes.length = 4 then c.classes else s.classes
      pcie := { s.pcie with rootPort := c.rootPort, rootPart := c.rootPart, fns := c.fns }
      domains := c.domains.map fun d => match s.domain? d.1 d.2.1 with | some x => x | none => s.foundDomain d
      proctor := { s.proctor with pcap := c.pcap } }

/-- A journal entry that the manual asks for without its KIND and PAYLOAD, copied to every partition: a cluster has failed its
self-test (R467; log entry 51). -/
def State.failedEntry (s : State) (cl : Nat) : State :=
  s.journalAll 255 (Config.entryKind 2).toNat (Config.entryPayload 2 cl).toNat s.now

/-- Stage 6: each cluster runs its self-test and joins; one that fails stays in pool 3 and is reported (R467). -/
def State.releaseClusters (s : State) : State :=
  (List.range 64).foldl (fun st cl =>
    let ok := (s.proctor.clusterOk[cl]?).getD true
    let st1 := st.startCluster cl ok
    if ok then st1 else ({ st1 with pool := st1.pool.set cl 3 } : State).failedEntry cl) s

/-- The boot ends, with the last stage completed and RESULT (R467). -/
def State.bootEnd (s : State) (stage code : Nat) : State :=
  s.setProctor fun p =>
    { p with stage := BitVec.ofNat 8 stage, result := BitVec.ofNat 8 code, booted := true, up := max p.up stage }

/-- Stages 3 to 7.  A stage whose domains run already is skipped (R465). -/
def State.laterStages (s : State) (c : ConfigRec) (svn : Nat) : State :=
  let up := s.proctor.up
  if up < 3 ∧ !s.proctor.memOk then s.bootEnd 2 0x04
  else if up < 3 ∧ !s.proctor.linkOk then s.bootEnd 2 0x05
  else
    let s3 : State := if up < 3 then { s with clock := { s.clock with time := 0 } } else s
    if up < 4 ∧ !s3.proctor.portOk then s3.bootEnd 3 0x06
    else
      let s4 := if up < 4 then s3.applyConfig c else s3.setProctor fun p => { p with pcap := c.pcap }
      if up < 5 ∧ !s4.proctor.pairOk then s4.bootEnd 4 0x07
      else
        let off := (List.range 8).filter fun p => !c.pairs.getLsbD p
        let s5 : State := if up < 5 then { s4 with left := off.map Holder.pair } else s4
        let s6 := if up < 6 then s5.releaseClusters else s5
        if !s6.proctor.storeOk then s6.bootEnd 6 0x08
        else (s6.setProctor fun p => { p with fwsvn := max p.fwsvn svn }).bootEnd 7 0

/-- The boot stages in order (R467). -/
def State.bootStages (s : State) : State :=
  match s.proctor.pickSlot with
  | none => s.bootEnd 0 0x01
  | some (b, slot) =>
    let s1 := s.setProctor fun p => { p with slot := b }
    match s1.proctor.config with
    | none => s1.bootEnd 1 0x02
    | some c =>
      let f := configFault s1.proctor slot.owners
      if f ≠ 0 then s1.bootEnd 1 f else s1.laterStages c slot.svn

/-- After a failed boot only the Proctor and its window run; a restart of the Proctor that boots in full ends that, and one
that fails leaves the domains that run alone (R465, R467). -/
def State.judgeBoot (s : State) (first : Bool) : State :=
  s.setProctor fun p => { p with halted := p.result != 0 && (first || p.halted) }

/-- BOOT. -/
def execBoot (s : State) : Host.Outcome State Fault Refusal :=
  .next (if s.proctor.booted then s else s.bootStages.judgeBoot true)

/-! ## Restart of the Proctor -/

/-- PROCTOR_RESTART: the Proctor's own domain is reset, its window with it; every other domain runs on (R465). -/
def execProctorRestart (cause : Nat) (s : State) : Host.Outcome State Fault Refusal :=
  .next (
    if !s.proctor.booted || s.proctor.restarting.isSome || cause = 0 || 3 < cause then s
    else s.setProctor fun p =>
      { p with stage := 0, result := 0, slot := false, domain := 0, tolm := 0, tolg := 0, tols := 0, hbpair := 0, hben := 0,
               nonce := 0, qaddr := 0, qbusy := false, restarting := some cause, missed := [], samples := [],
               sram := [] })

/-! ## Domains -/

/-- The link of a direction has fewer than 48 lanes (R462). -/
def State.lanesShort (s : State) : Bool := [0, 1].any fun d => 64 - (s.lanes.filter fun l => l.1 == d).length < 48

/-- A step of a domain's restart in the journal (R471). -/
def State.restartMark (s : State) (dom step : Nat) : State := s.journalAll 255 0x0F (dom + putAt step 8) s.now

/-- A memory controller is reset with its regulator: its counts go, and the reads that it held are asked for again (R11,
R471). -/
def State.resetController (s : State) (g : Nat) : State :=
  let mine := s.regs.filter fun r => r.g == g
  (mine.flatMap fun r => r.held ++ r.slice).foldl State.wakeReader { s with regs := s.regs.filter fun r => r.g != g }

/-- The Timetable is reset: the registers of R360 go, the tables that R11 lists stay. -/
def State.resetTimetable (s : State) : State :=
  { s with ttDown := true, ttSince := s.now
           parts := s.parts.map fun x => { x with jtbase := 0, jobload := 0, lbusy := false, lok := false, ldet := 0 } }

/-- The Ethernet block is reset: its ports and its time discipline.  That the device-time registers other than LOCKED
belong to no block that restarts, and so keep STEPEN, STEPTH, RATE and LASTSTEP, is a choice of the model (log entry 45). -/
def Clock.restart (c : Clock) : Clock := { c with locked := false, good := 0, missed := 0, masters := [] }

/-- The link comes back with its lanes trained again; which of those that were out return is not stated (R471; log entries
11, 45). -/
def State.retrain (s : State) : State :=
  { s with lanes := s.lanes.filter fun l =>
      (Config.freeValue (s.freeCtr * 2 ^ 64 + 2 ^ 59 + 64 * l.1 + l.2)).getLsbD 0 }

/-- The reset of an I/O-die block (R471): the registers of its domain take their reset values; the memory controllers lose
no data, the persistence unit drains its buffer first, the Timetable keeps what R11 lists.  What becomes of lines dirty in
a system cache that is reset is not stated: in this model they are in memory, and nothing is charged (log entry 45). -/
def State.resetBlock (s : State) (dom : Nat) : State :=
  let wipe := fun (x : Stream) => { Stream.reset with owner := x.owner, ownen := x.ownen, rings := x.rings }
  let ports := fun (lo hi : Nat) => s.streams.zipIdx.map fun e => if lo ≤ e.2 ∧ e.2 ≤ hi then wipe e.1 else e.1
  if 72 ≤ dom ∧ dom ≤ 95 then s.resetController (dom - 72)
  else if dom = 96 then { s with sys := [] }
  else if dom = 97 then s.drainLines fun _ => true
  else if dom = 98 then
    let s1 := s.linkDown
    { s1 with pcie := { s1.pcie with fns := s1.pcie.fns.map fun f => { f with msix := false, masked := 0, pending := 0 } } }
  else if dom = 99 then { s with streams := ports 8 11, clock := s.clock.restart }
  else if dom = 100 then { s with streams := ports 0 7 }
  else if dom = 101 then s.retrain
  else if dom = 102 then s.resetTimetable
  else s

/-- A pair is reset: its two cores, and its L2, which has left coherence (R471). -/
def State.resetPair (s : State) (p : Nat) : State :=
  { s with cores := s.cores.zipIdx.map fun e => if e.2 / 2 = p then AppCore.reset else e.1
           tlb := s.tlb.filter fun e => !((e.agent - 512) / 2 == p && decide (512 ≤ e.agent))
           walks := s.walks.filter fun e => !((e.agent - 512) / 2 == p && decide (512 ≤ e.agent)) }

/-- Step 1 for a pair: its cache leaves, or, where it does not answer, its tokens are lost; which of the two is not known
beforehand (R340, R341, R471; log entry 11). -/
def State.isolatePair (s : State) (p : Nat) : State :=
  if !s.joinedIn (.pair p) then s
  else if (Config.freeValue (s.freeCtr * 2 ^ 64 + 2 ^ 58 + p)).getLsbD 0 then s.leaveCache (.pair p)
  else (s.loseHolder (.pair p)).leaveCache (.pair p)

/-- Steps 1 and 2 of the restart of a domain: it is isolated, or leaves, and is reset (R471). -/
def State.startRestart (s : State) (dom : Nat) : State :=
  if 102 < dom || !s.proctor.resets.isEmpty || !s.proctor.booted || s.proctor.halted then s
  else if s.proctor.restarting.isSome then s.setProctor fun p => { p with waiting := some dom }
  else
    let s1 := (s.setProctor fun p => { p with domain := BitVec.ofNat 7 dom, resets := [dom] }).restartMark dom 1
    let s2 := if dom < 64 then s1.isolate dom (some 3)
      else if dom < 72 then s1.isolatePair (dom - 64)
      else s1
    let s3 := s2.restartMark dom 2
    if dom < 64 then s3.resetCluster dom else if dom < 72 then s3.resetPair (dom - 64) else s3.resetBlock dom

/-- DOMAIN_RESTART: GO is written for a domain (R466, R471). -/
def execDomainRestart (dom : Nat) (s : State) : Host.Outcome State Fault Refusal := .next (s.startRestart dom)

/-- The Timetable runs again: its watchdogs have not counted meanwhile, and what fell due is taken in its order, each with its
own stamp (R471). -/
def State.resumeTimetable (s : State) : State :=
  let gone := s.now - s.ttSince
  let s1 : State := { s with ttDown := false, insts := s.insts.map fun i => { i with progress := i.progress + gone } }
  (s1.catchUp s1.lateCount).due.settle

/-- DOMAIN_RESTART_DONE, step 3: the domain is back: it rejoins coherence and its pool, and waiting requests proceed
(R464, R471). -/
def execDomainRestartDone (dom : Nat) (s : State) : Host.Outcome State Fault Refusal :=
  .next (
    if !s.proctor.resets.contains dom || s.proctor.restarting.isSome then s
    else
      let s1 := (s.setProctor fun p => { p with resets := [], missed := assocDel p.missed dom }).restartMark dom 3
      if dom < 64 then (s1.startCluster dom ((s1.proctor.clusterOk[dom]?).getD true)).due.settle
      else if dom < 72 then s1.joinCache (.pair (dom - 64))
      else if dom = 101 then (if s1.lanesShort then s1.computeDieReset.settle else s1)
      else if dom = 102 then s1.resumeTimetable
      else s1)

/-- PROCTOR_RESTART_COMPLETE: the Proctor has booted again; KIND 0x10 names the cause, and a waiting restart request is
taken (R465). -/
def execProctorRestartComplete (s : State) : Host.Outcome State Fault Refusal :=
  .next <|
    match s.proctor.restarting with
    | none => s
    | some c =>
      let s1 := ((s.setProctor fun p => { p with restarting := none }).bootStages.judgeBoot false).journalAll 255 0x10 c s.now
      match s.proctor.waiting with
      | some d => (s1.setProctor fun p => { p with waiting := none }).startRestart d
      | none => s1

/-! ## Heartbeats -/

/-- HEARTBEAT: a domain's heartbeat clears its misses; a pair's is a write of its HBPAIR bit (R466, R470). -/
def execHeartbeat (dom : Nat) (s : State) : Host.Outcome State Fault Refusal :=
  .next (
    if s.proctor.restarting.isSome || 102 < dom then s
    else if 64 ≤ dom ∧ dom < 72 then s.setProctor fun p => { p with hbpair := p.hbpair ||| BitVec.ofNat 8 (2 ^ (dom - 64)) }
    else s.setProctor fun p => { p with missed := assocDel p.missed dom })

/-- HEARTBEAT_TIMEOUT: a millisecond of a domain ends.  A pair has beaten if its bit was written, and is supervised only in
HBEN; the third miss in a row restarts the domain as if GO were written (R470). -/
def execHeartbeatTimeout (dom : Nat) (s : State) : Host.Outcome State Fault Refusal :=
  .next (
    let pair := decide (64 ≤ dom) && decide (dom < 72)
    let bit := dom - 64
    if s.proctor.restarting.isSome || 102 < dom || s.proctor.resets.contains dom then s
    else if pair && s.proctor.hbpair.getLsbD bit then
      s.setProctor fun p => { p with hbpair := p.hbpair &&& ~~~(BitVec.ofNat 8 (2 ^ bit)), missed := assocDel p.missed dom }
    else if pair && !s.proctor.hben.getLsbD bit then s
    else
      let n := (s.proctor.missed.lookup dom).getD 0 + 1
      let s1 := s.setProctor fun p => { p with missed := assocSet p.missed dom n }
      if 3 ≤ n then s1.startRestart dom else s1)

/-! ## Attestation -/

/-- The first 288 bytes of a quote (R469). -/
def State.quoteBody (s : State) : List Byte :=
  let p := s.proctor
  let slot := if p.slot then p.slotB else p.slotA
  let img := match slot with | some x => x.image | none => []
  let fwsvn := match slot with | some x => x.svn | none => 0
  let cfg := match p.config with | some c => c.image | none => []
  let cfgsvn := match p.config with | some c => c.svn | none => 0
  bytesOf 4 0x51544F51 ++ bytesOf 4 4915 ++ bytesOf 8 s.now ++ bytesOf 64 p.nonce.toNat ++ sha3_512 img ++ sha3_512 cfg ++
  bytesOf 4 fwsvn ++ bytesOf 4 cfgsvn ++ sha3_512 Config.identityKey ++ bytesOf 8 0

/-- QUOTE: while QBUSY = 1 the quote is written at QADDR as physical stores of the Proctor, which a log region refuses, and
QBUSY clears (R453, R469). -/
def execQuote (s : State) : Host.Outcome State Fault Refusal :=
  .next (
    if !s.proctor.booted || s.proctor.restarting.isSome || !s.proctor.qbusy then s
    else
      let body := s.quoteBody
      let sig := Config.mldsaSign (sha3_512 body)
      let bs := body ++ (List.range 4627).map fun i => sig.getD i 0
      let q := s.proctor.qaddr.toNat
      let s1 := if s.logRefuses q bs.length then s else (s.unpoison q bs.length).writePA none none false none q bs
      s1.setProctor fun p => { p with qbusy := false })

/-! ## Power -/

/-- How deep a power state is, and its exit latency in ns (R472). -/
def Power.depth : Power → Nat
  | .active => 0
  | .clockGated => 1
  | .powerGated => 2
  | .retain => 3
  | .off => 4

/-- The deepest state whose exit latency is at most a tolerance (R472). -/
def deepestPower (tol : Nat) : Power :=
  (([.off, .retain, .powerGated, .clockGated] : List Power).find? fun p => decide (p.exitTime ≤ tol)).getD .active

/-- A cluster that holds nothing of any job (R472, R374). -/
def State.idleCluster (s : State) (cl : Nat) : Bool :=
  match s.clusters[cl]? with
  | some c => c.job.isNone && c.drain.isNone && c.changed.isEmpty && !c.isolated && c.selfTest && !s.clusterBusy cl
  | none => false

/-- A cluster enters a power state: what the state does not keep is gone, and the cache leaves from POWER_GATED on
(R472). -/
def State.enterPower (s : State) (cl : Nat) (to_ : Power) : State :=
  let s1 := if 2 ≤ to_.depth then s.clusterLeave cl else s
  let s2 : State := if 2 ≤ to_.depth then { s1 with l1 := s1.l1.filter fun e => e.core / 4 != cl } else s1
  s2.setCluster cl fun c =>
    if to_ = .off then { Cluster.reset cl with selfTest := c.selfTest, withheld := c.withheld, power := .off }
    else if to_ = .retain then
      { c with scratch := [], spoison := [], fifos := [], fpoison := [], acm := [], lcache := [], power := .retain }
    else { c with power := to_ }

/-- CLUSTER_POWER_DOWN (R472). -/
def execClusterPowerDown (cl : Nat) (s : State) : Host.Outcome State Fault Refusal :=
  .next <|
    match s.clusters[cl]?, s.pool[cl]? with
    | some c, some p =>
      let tol := if p = 0 then s.proctor.tolm.toNat else if p = 1 then s.proctor.tolg.toNat
        else if p = 2 then s.proctor.tols.toNat else 0
      let to_ := deepestPower tol
      if s.idleCluster cl && c.power.depth < to_.depth then s.enterPower cl to_ else s
    | _, _ => s

/-- A change of the power cap in the journal: the cluster, and 0 withheld or 1 returned (R473). -/
def State.capEntry (s : State) (cl dir : Nat) : State := s.journalAll 255 0x0E (cl + putAt dir 8) s.now

/-- POWER_SAMPLE: above PCAP the highest free cluster is withheld; below 95 % of PCAP the lowest withheld one returns
(R473). -/
def execPowerSample (milliwatts : Nat) (s : State) : Host.Outcome State Fault Refusal :=
  .next (
    if !s.proctor.booted || s.proctor.restarting.isSome then s
    else
      let xs := (milliwatts :: s.proctor.samples).take 100
      let sum := xs.foldl (· + ·) 0
      let s1 := s.setProctor fun p => { p with samples := xs }
      let cap := s.proctor.pcap * xs.length
      let withheld := fun (cl : Nat) => match s.clusters[cl]? with | some c => c.withheld | none => false
      if cap < sum then
        match (List.range 64).reverse.find? fun cl => s.idleCluster cl && !withheld cl with
        | none => s1
        | some cl =>
          let deep := match s.clusters[cl]? with | some c => c.power.depth | none => 0
          let s2 := if deep < 2 then s1.enterPower cl .powerGated else s1
          (s2.setCluster cl fun c => { c with withheld := true }).capEntry cl 0
      else if 100 * sum < 95 * cap then
        match (List.range 64).find? withheld with
        | none => s1
        | some cl => (((s1.setCluster cl fun c => { c with withheld := false }).capEntry cl 1)).due.settle
      else s1)

end Sys2Proof.Machine
end

