-- ==== Sys2Proof/Machine/Streams.lean ====
section
/-!
DEFINITION. Sensor streams (15 R405 to R408, 16 R428), Ethernet transmission (16 R429), time discipline (15 R395, 16 R430)
and the writing of the event journal (15 R397, R398).
-/

namespace Sys2Proof.Machine

/-! ## Streams -/

def State.setStream (s : State) (port : Nat) (f : Stream → Stream) : State := { s with streams := s.streams.modify port f }

/-- The agent number of a port: CSI-2 or Ethernet (R398). -/
def portAgent (port : Nat) : Nat := if port < 8 then 100 else 99

/-- EN of a stream goes to 1 when its fields are in range and the port is owned (R405). -/
def State.enableStream (s : State) (port : Nat) : State :=
  match s.streams[port]? with
  | none => s
  | some x =>
    let bad := x.nslot = 0 || x.slotb.toNat % 64 != 0 || x.slotb.toNat = 0 || x.sbase.toNat % 64 != 0 || x.dbase.toNat % 32 != 0
    if x.en || !x.ownen || bad then s
    else s.setStream port fun x => { x with en := true, cons := 0, prod := 0, drops := 0, frame := none, gap := false }

/-- STREAM_ENABLE. -/
def execStreamEnable (port : Nat) (s : State) : Host.Outcome State Fault Refusal := .next (s.enableStream port)

/-- Bytes that a stream lands as pieces that have been translated, into its owner's ways and charged to SENSOR (R406). -/
def State.land (s : State) (p va : Nat) (bs : List Byte) (xs : List (Nat × Nat × Nat × Word64)) : State :=
  xs.foldl (fun st x => st.storeAt p none (some .sensor) none false x.2.2.2 x.2.2.1 ((bs.drop (x.1 - va)).take x.2.1)) s

/-- A frame is dropped: DROPS, the journal, and GAP for the next one (R407). -/
def State.dropFrame (s : State) (port : Nat) (owner fnum : Nat) : State :=
  (s.setStream port fun x =>
    { x with drops := if x.drops = BitVec.allOnes 32 then x.drops else x.drops + 1, gap := true, frame := none,
             stalled := none }).journal
      owner (portAgent port) 0x08 (port + putAt fnum 64) s.now

/-- A stream's fault record is written and its frame dropped; while the fault queue has no room the stream waits with it
(R407, R418). -/
def State.landFault (s : State) (port owner fnum : Nat) (rec_ : BitVec 512) : State :=
  match s.faultAppend owner (portAgent port) rec_ with
  | some st => st.dropFrame port owner fnum
  | none => s.setStream port fun x => { x with stalled := some (fnum, rec_) }

/-- A stream that waits for room in the fault queue tries again (R418). -/
def State.unstall (s : State) (port : Nat) : State :=
  match s.streams[port]? with
  | some x => (match x.stalled with | some (fnum, r) => s.landFault port x.owner.toNat fnum r | none => s)
  | none => s

/-- Bytes that a stream writes at a virtual address of its owner: the state after it, whether it waited, and, where a page
faulted, the fault record of frame k (R407, R418); pages before it are written. -/
def State.landAt (s : State) (port owner va k : Nat) (bs : List Byte) : State × Bool × Option (BitVec 512) :=
  let agents := ioAgents (portAgent port)
  let r := s.xlateSpan owner agents .write false va bs.length
  let b := s.peerBegin (.agent (portAgent port)) none .sensor owner agents true r.1
  if b.2 then (b.1.land owner va bs r.1, false, r.2.map fun e => faultRecord s.now e.2.2 owner 255 0 5 1 e.1 e.2.1 k 0 0)
  else (b.1, true, none)

/-- The n bytes at offset i of a frame, the first byte the most significant. -/
def netField (bs : List Byte) (i n : Nat) : Nat := ((bs.drop i).take n).foldl (fun a b => 256 * a + b.toNat) 0

/-- An Ethernet frame matches a receive filter: destination MAC address, VLAN identifier of its 802.1Q tag, EtherType
(R429). -/
def EthFilter.accepts (f : EthFilter) (bs : List Byte) : Bool :=
  let tagged := netField bs 12 2 == 0x8100
  let is := fun (x : Option Nat) (v : Nat) => match x with | some y => y == v | none => true
  is f.mac (netField bs 0 6) && (f.vlan.isNone || tagged && is f.vlan (netField bs 14 2 % 4096)) &&
  is f.etype (if tagged then netField bs 16 2 else netField bs 12 2)

/-- What a port lands of a frame: its bytes, ERR, CHAN and FNUM; none for a frame of another channel, of a length that the
port does not carry, or that no filter accepts (R428, R429). -/
def State.received (s : State) (port : Nat) (fr : FrameIn) : Option (List Byte × Bool × Nat × Nat) :=
  match s.proctor.config with
  | none => none
  | some c =>
    if port < 8 then
      match c.csi[port]? with
      | none => none
      | some x =>
        if fr.chan ≠ x.chan then none
        else
          let mine := fr.packets.filter fun k => k.chan == x.chan && x.types.contains k.dtype
          some (mine.flatMap (·.bytes), mine.any (·.err), x.chan, fr.fnum.toNat)
    else
      let bs := fr.packets.flatMap (·.bytes)
      if bs.length < 64 ∨ 9216 < bs.length then none
      else ((c.filters.getD (port - 8) []).findIdx? fun f => f.accepts bs).map fun f => (bs, fr.packets.any (·.err), f, 0)

/-- FRAME_START: the frame's bytes land in slot PROD mod NSLOT, or the frame is dropped (R406, R407).  A port that is not
enabled, or in the middle of a frame, lands nothing; a frame that is not the port's is discarded uncounted (R428, R429). -/
def execFrameStart (port : Nat) (fr : FrameIn) (s0 : State) : Host.Outcome State Fault Refusal :=
  .next <|
    let s := s0.unstall port
    match s.streams[port]?, s.received port fr with
    | some x, some (bytes, err, chan, fnum) =>
      if !x.en || !x.ownen || x.frame.isSome || x.stalled.isSome then s
      else
        let owner := x.owner.toNat
        let k := x.prod.toNat
        if x.nslot.toNat + x.cons.toNat ≤ k then s.dropFrame port owner fnum
        else
          let slotb := x.slotb.toNat
          let bs := bytes.take slotb
          let r := s.landAt port owner (x.sbase.toNat + slotb * (k % x.nslot.toNat)) k bs
          match r.2 with
          | (true, _) => r.1
          | (false, some f) => r.1.landFault port owner fnum f
          | (false, none) =>
            r.1.setStream port fun y =>
              { y with frame := some { tstart := s.now, bytes := bs.length, fnum := BitVec.ofNat 16 fnum,
                                       chan := BitVec.ofNat 8 chan, trunc := decide (slotb < bytes.length), err := err } }
    | _, _ => s

/-- A frame descriptor (R408). -/
def frameDescriptor (f : FrameLanding) (tend : Nat) (gap : Bool) (drops k : Nat) : Nat :=
  f.tstart % 2 ^ 64 + putAt (tend % 2 ^ 64) 64 + putAt (f.bytes % 2 ^ 32) 128 + putAt f.fnum.toNat 160 +
  putAt f.chan.toNat 176 + putAt (b2n f.trunc) 184 + putAt (b2n f.err) 185 + putAt (b2n gap) 186 +
  putAt (drops % 2 ^ 32) 192 + putAt (k % 2 ^ 32) 224

/-- FRAME_END: the descriptor is written and PROD released (R406, R408). -/
def execFrameEnd (port : Nat) (s0 : State) : Host.Outcome State Fault Refusal :=
  .next <|
    let s := s0.unstall port
    match s.streams[port]? with
    | none => s
    | some x =>
      match x.frame with
      | none => s
      | some f =>
        if x.stalled.isSome then s
        else
          let k := x.prod.toNat
          let owner := x.owner.toNat
          let d := frameDescriptor f s.now x.gap x.drops.toNat k
          let r := s.landAt port owner (x.dbase.toNat + 32 * (k % x.nslot.toNat)) k (bytesOf 32 d)
          match r.2 with
          | (true, _) => r.1
          | (false, some e) => r.1.landFault port owner f.fnum.toNat e
          | (false, none) => r.1.setStream port fun y => { y with prod := y.prod + 1, frame := none, gap := false }

/-! ## Ethernet transmission -/

/-- The header of transmit ring r of an Ethernet port, when it can be read and holds an entry (R429). -/
def State.txRing (s : State) (x : Stream) (r : Nat) : Option (Nat × RingHdr) :=
  match x.rings[r]? with
  | none => none
  | some hdr =>
    if hdr = 0 then none
    else match s.ring x.owner.toNat hdr.toNat with
    | some h => if h.head = h.tail then none else some (hdr.toNat, h)
    | none => none

/-- A stream's write, which is dropped when it faults. -/
def State.tryWriteVA (s : State) (p : Nat) (agents : List Nat) (va : Nat) (bs : List Byte) : State :=
  match s.writeVA p agents false none (some .sensor) va bs with | .ok x => x | .error _ => s

/-- ETHERNET_TRANSMIT: the entry at HEAD of a ring is served when no lower ring holds one: the frame is logged and sent,
TXTIME is written if requested, and HEAD advances.  An entry that breaks its table, or whose frame cannot be read, is
dropped (R429, R458). -/
def execEthernetTransmit (port ring : Nat) (s : State) : Host.Outcome State Fault Refusal :=
  .next <|
    match s.streams[8 + port]? with
    | none => s
    | some x =>
      let agents := ioAgents 99
      if !x.ownen || 4 ≤ ring || (List.range ring).any (fun r => (s.txRing x r).isSome) then s
      else match s.txRing x ring with
      | none => s
      | some (hdr, h) =>
        let p := x.owner.toNat
        let at_ := (h.base + 32 * (h.head % h.cap)) % 2 ^ 64
        let advance := fun (st : State) => st.tryWriteVA p agents (hdr + 16) (bytesOf 8 (h.head + 1))
        match s.readVA p agents false at_ 32 with
        | .error _ => advance s
        | .ok bs =>
          let e := ofBytes bs
          let len := field e 64 14
          if field e 79 49 != 0 || field e 192 64 != 0 || len < 64 || 9216 < len then advance s
          else match s.readVA p agents false (field e 0 64) len with
          | .error _ => advance s
          | .ok frame =>
            let xs := (s.xlateSpan p agents .read false at_ 32).1 ++ (s.xlateSpan p agents .read false (field e 0 64) len).1
            let b := s.peerBegin (.agent 99) none .sensor p agents false xs
            if !b.2 then b.1
            else
              let s1 := b.1.logOut p (field e 0 64) len 1 (port * 4 + ring)
              let s2 : State := { s1 with frames := s1.frames ++ [(port, frame)] }
              advance (if bitOf e 78 then s2.tryWriteVA p agents (at_ + 16) (bytesOf 8 s.now) else s2)

/-! ## Time -/

/-- A journal entry of KIND 0x07, copied to every partition: TIME before and after (R395, R398, R430). -/
def State.timeEntry (s : State) (before after : Nat) : State := s.journalAll 99 0x07 (before + putAt after 64) after

/-- The station runs a profile on a port: 802.1AS where the record enables it, IEEE 1588 where the record selects that
too (R430). -/
def State.timedPort (s : State) (port : Nat) (p1588 : Bool) : Bool :=
  match s.proctor.config with
  | some c => c.timed.contains port && (!p1588 || c.p1588)
  | none => false

/-- The receiving port that the best-master algorithm chooses: the best priority vector heard, then the lowest port
(R430). -/
def bestPort (ms : List (Nat × Nat)) : Option Nat :=
  (ms.foldl (fun (b : Option (Nat × Nat)) m =>
    match b with
    | none => some m
    | some x => if m.2 < x.2 ∨ (m.2 = x.2 ∧ m.1 < x.1) then some m else b) none).map (·.1)

/-- A sync message of the chosen master corrects the rate within ±500 ppm, steps TIME forward when it is behind by more
than STEPTH and STEPEN is set, and counts towards LOCKED; a change of grandmaster unlocks (R395, R430). -/
def State.syncClock (s : State) (m : SyncMsg) : State :=
  let c := s.clock
  let newGm := match c.gm with | some g => g != m.gm | none => false
  let good := if m.offset.natAbs < 1000 then c.good + 1 else 0
  let good := if newGm then 0 else good
  let c1 : Clock := { c with gm := some m.gm, missed := 0, rate := max (-5000) (min 5000 m.rate), good := good,
                             locked := !newGm && (c.locked || decide (16 ≤ good)) }
  let s1 : State := { s with clock := c1 }
  let s2 := if newGm then s1.timeEntry s.now s.now else s1
  if m.offset < 0 ∧ c.stepth.toNat < m.offset.natAbs ∧ c.stepen then
    let t := s.now + m.offset.natAbs
    (({ s2 with clock := { c1 with time := t, laststep := BitVec.ofNat 64 t } } : State).timeEntry s.now t).rollAll
  else s2

/-- PTP_SYNC: a message at a port is heard; one from the master that the best-master algorithm chooses disciplines TIME
(R430). -/
def execPtpSync (m : SyncMsg) (s : State) : Host.Outcome State Fault Refusal :=
  .next (
    if !s.timedPort m.port m.p1588 then s
    else
      let ms := assocSet s.clock.masters m.port m.rank
      let s1 : State := { s with clock := { s.clock with masters := ms } }
      if bestPort ms = some m.port then s1.syncClock m else s1)

/-- SYNC_TIMEOUT: one sync interval without a sync of the chosen master; the third clears LOCKED and gives the master up.
A station that hears no master and may become grandmaster sends TIME unchanged on its ports (R430). -/
def execSyncTimeout (s : State) : Host.Outcome State Fault Refusal :=
  .next (
    let n := s.clock.missed + 1
    let ms := match bestPort s.clock.masters with
      | some p => if 3 ≤ n then assocDel s.clock.masters p else s.clock.masters
      | none => s.clock.masters
    let gm := ms.isEmpty && match s.proctor.config with | some c => c.gmOk | none => false
    let ports := (List.range 4).filter fun p => s.timedPort p false
    { s with clock := { s.clock with missed := n, good := 0, locked := s.clock.locked && decide (n < 3), masters := ms,
                                     sent := s.clock.sent ++ if gm then ports.map fun p => (p, s.now) else [] } })

/-! ## The journal -/

/-- A journal entry (R398). -/
def journalEntry (e : JEvent) (p lost : Nat) : Nat :=
  e.time % 2 ^ 64 + putAt (e.agent % 256) 64 + putAt (e.kind % 256) 72 + putAt (p % 64) 80 + putAt lost 96 +
  putAt e.payload.toNat 128

/-- The index of the event that is written next: the oldest stamp, then the lowest agent, then the first to arrive
(R397). -/
def nextEvent (jq : List JEvent) : Option (Nat × JEvent) :=
  ((List.range jq.length).zip jq).foldl (fun (b : Option (Nat × JEvent)) x =>
    match b with
    | none => some x
    | some y => if x.2.time < y.2.time ∨ (x.2.time = y.2.time ∧ x.2.agent < y.2.agent) then some x else some y) none

/-- JOURNAL_WRITE of a partition: the next event is written 2,000 ns after its stamp, or dropped and counted; without a
header it is dropped without count (R397). -/
def execJournalWrite (p : Nat) (s : State) : Host.Outcome State Fault Refusal :=
  .next <|
    match s.parts[p]? with
    | none => s
    | some pt =>
      match nextEvent pt.jq with
      | none => s
      | some (i, e) =>
        if s.now < e.time + 2000 then s
        else
          let s1 := s.setPart p fun x => { x with jq := x.jq.eraseIdx i }
          if pt.jhdr = 0 then s1
          else match s1.append p pt.jhdr.toNat (bytesOf 128 (journalEntry e p (min pt.lost (2 ^ 32 - 1)))) with
          | .done s2 => s2.setPart p fun x => { x with lost := 0 }
          | _ => s1.setPart p fun x => { x with lost := x.lost + 1 }

end Sys2Proof.Machine
end

