-- ==== Sys2Proof/Machine/Registers.lean ====
section
/-!
DEFINITION. The management range (15 R386 to R391, R396, R403 to R405, R416, R417, R419; 19 R466; 00 R5, R6): every
register, read and written by 8-byte words.  A write carries a mask of the bits it writes, so that narrower writes leave the
rest of a word alone.
-/

namespace Sys2Proof.Machine

/-- Bits of a mask replaced. -/
def putBits (old v m : Word64) : Word64 := (old &&& ~~~m) ||| (v &&& m)
/-- A field of a word. -/
def bits (w : Word64) (lo n : Nat) : Nat := field w.toNat lo n
/-- Bit i is written as 1. -/
def setsBit (v m : Word64) (i : Nat) : Bool := (v &&& m).getLsbD i
/-- Bit i is written as 0. -/
def clearsBit (v m : Word64) (i : Nat) : Bool := m.getLsbD i && !v.getLsbD i

/-! ## The system window -/

/-- Word 0 of a partition-table entry (R388). -/
def Part.word0 (x : Part) : Word64 := BitVec.ofNat 64 (b2n x.en + putAt (b2n x.fenced) 1 + putAt x.ways.toNat 8)

/-- WAYS of a partition: lines of the ways it gives up are cleaned and invalidated (R393). -/
def State.writeWays (s : State) (p : Nat) (ways : BitVec 24) : State :=
  match s.parts[p]? with
  | none => s
  | some x =>
    let gone := fun (e : SysLine) => e.part == p && x.ways.getLsbD e.way && !ways.getLsbD e.way
    let s1 := (s.sys.filter fun e => gone e && e.dirty).foldl (fun st e => st.tallyWrite e.line e.charge) s
    ({ s1 with sys := s1.sys.filter fun e => !gone e } : State).setPart p fun y => { y with ways := ways }

/-- EN of a partition: cleared only while every queue of the partition is disabled (R389). -/
def State.writePartEn (s : State) (p : Nat) (en : Bool) : State :=
  match s.parts[p]? with
  | none => s
  | some x =>
    let busy := (List.range 64).any fun q => x.qmask.getLsbD q && (s.qtab.getD q QEntry.reset).en
    if !en && busy then s else s.setPart p fun y => { y with en := en }

/-- One word of a partition-table entry (R388, R389). -/
def State.writePartition (s : State) (p word : Nat) (v m : Word64) : State :=
  match s.parts[p]? with
  | none => s
  | some x =>
    match word with
    | 0 =>
      let w := putBits x.word0 v m
      (s.writeWays p (w.extractLsb' 8 24)).writePartEn p (w.getLsbD 0)
    | 1 => s.setPart p fun y => { y with ptroot := putBits y.ptroot v m }
    | 2 => s.writeQmask p (putBits x.qmask v m)
    | _ => s

/-- A pool-map entry: taken at once while the cluster is free, else when it next is (R374, R390). -/
def State.writePool (s : State) (cl : Nat) (v : BitVec 2) : State :=
  if 64 ≤ cl || !poolAllowed cl v then s
  else
    let free := (match s.clusters[cl]? with | some c => c.job.isNone && c.drain.isNone | none => false) && !s.clusterBusy cl
    if free then { s with pool := s.pool.set cl v, poolNext := assocDel s.poolNext cl, undecided := true }
    else { s with poolNext := assocSet s.poolNext cl v }

/-- The pool-map entry of a cluster as it was last written (R390). -/
def State.poolEntry (s : State) (cl : Nat) : BitVec 2 := (s.poolNext.lookup cl).getD (s.pool.getD cl 3)

/-- The pool-map word of clusters 32 * w to 32 * w + 31. -/
def State.poolWord (s : State) (w : Nat) : Word64 :=
  BitVec.ofNat 64 (((List.range 32).map fun i => putAt (s.poolEntry (32 * w + i)).toNat (2 * i)).foldl (· + ·) 0)

/-- A write of a pool-map word. -/
def State.writePoolWord (s : State) (w : Nat) (v m : Word64) : State :=
  let x := putBits (s.poolWord w) v m
  ((List.range 32).foldl (fun st i =>
    if bits m (2 * i) 2 = 0 then st else st.writePool (32 * w + i) (BitVec.ofNat 2 (bits x (2 * i) 2))) s).settle

/-- A class budget (R403). -/
def ClassBudget.word (c : ClassBudget) : Word64 := BitVec.ofNat 64 (c.budget.toNat + putAt c.window.toNat 32)

/-- A write of a class budget: a WINDOW outside its range keeps its previous value (R403). -/
def ClassBudget.write (c : ClassBudget) (v m : Word64) : ClassBudget :=
  let w := putBits c.word v m
  let win := bits w 32 32
  { budget := w.extractLsb' 0 32
    window := if 10000 ≤ win ∧ win ≤ 10000000 then BitVec.ofNat 32 win else c.window }

/-- A word of the device-time register (R396). -/
def Clock.word (c : Clock) (w : Nat) : Word64 :=
  match w with
  | 0 => BitVec.ofNat 64 c.time
  | 1 => BitVec.ofNat 64 (b2n c.locked + putAt (b2n c.stepen) 1 + putAt (wrap 16 c.rate) 16 + putAt c.stepth.toNat 32)
  | 2 => c.laststep
  | _ => 0

/-- A write of the device-time register: STEPEN and STEPTH, the latter at least 1,000 (R396). -/
def Clock.write (c : Clock) (v m : Word64) : Clock :=
  let w := putBits (c.word 1) v m
  { c with stepen := w.getLsbD 1, stepth := if bits w 32 32 < 1000 then c.stepth else w.extractLsb' 32 32 }

/-- A word of the system window (R387). -/
def State.readSystem (s : State) (off : Nat) : Word64 :=
  if off < 0x1000 then
    match s.parts[off / 64]?, off % 64 / 8 with
    | some x, 0 => x.word0
    | some x, 1 => x.ptroot
    | some x, 2 => x.qmask
    | _, _ => 0
  else if off < 0x1010 then s.poolWord ((off - 0x1000) / 8)
  else if 0x1100 ≤ off ∧ off < 0x1140 then
    (if off % 16 = 0 then (match s.classes[(off - 0x1100) / 16]? with | some c => c.word | none => 0) else 0)
  else if 0x1200 ≤ off ∧ off < 0x1260 then
    match s.streams[(off - 0x1200) / 8]? with
    | some x => BitVec.ofNat 64 (x.owner.toNat + putAt (b2n x.ownen) 6)
    | none => 0
  else if 0x1300 ≤ off ∧ off < 0x1318 then s.clock.word ((off - 0x1300) / 8)
  else 0

/-- A write of a word of the system window. -/
def State.writeSystem (s : State) (off : Nat) (v m : Word64) : State :=
  if off < 0x1000 then s.writePartition (off / 64) (off % 64 / 8) v m
  else if off < 0x1010 then s.writePoolWord ((off - 0x1000) / 8) v m
  else if 0x1100 ≤ off ∧ off < 0x1140 then
    (if off % 16 = 0 then { s with classes := s.classes.modify ((off - 0x1100) / 16) fun c => c.write v m } else s)
  else if 0x1200 ≤ off ∧ off < 0x1260 then
    s.setStream ((off - 0x1200) / 8) fun x =>
      let w := putBits (BitVec.ofNat 64 (x.owner.toNat + putAt (b2n x.ownen) 6)) v m
      { x with owner := w.extractLsb' 0 6, ownen := w.getLsbD 6 }
  else if off = 0x1308 then { s with clock := s.clock.write v m }
  else s

/-! ## The Proctor window -/

/-- A word of the Proctor window (R466).  GO and QGO read 0: a write of 1 starts the action and leaves nothing behind
(log entry 48). -/
def Proctor.word (p : Proctor) (w : Nat) : Word64 :=
  match w with
  | 0 => BitVec.ofNat 64 (p.stage.toNat + putAt p.result.toNat 8 + putAt (b2n p.slot) 16)
  | 1 => BitVec.ofNat 64 (p.domain.toNat + putAt (b2n !p.resets.isEmpty) 8)
  | 2 => BitVec.ofNat 64 (p.tolm.toNat + putAt p.tolg.toNat 32)
  | 3 => BitVec.ofNat 64 p.tols.toNat
  | 4 => BitVec.ofNat 64 (p.hbpair.toNat + putAt p.hben.toNat 8)
  | 16 => p.qaddr
  | 17 => BitVec.ofNat 64 (putAt (b2n p.qbusy) 1)
  | _ => if 8 ≤ w ∧ w < 16 then p.nonce.extractLsb' (64 * (w - 8)) 64 else 0

/-- A write of the Proctor window.  GO requests the restart of DOMAIN, a 1 in HBPAIR is a heartbeat, QGO starts a quote
(R466, R469 to R471). -/
def State.writeProctor (s : State) (w : Nat) (v m : Word64) : State :=
  let x := putBits (s.proctor.word w) v m
  match w with
  | 1 =>
    let s1 := s.setProctor fun p => { p with domain := x.extractLsb' 0 7 }
    if setsBit v m 7 then s1.startRestart (bits x 0 7) else s1
  | 2 => s.setProctor fun p => { p with tolm := x.extractLsb' 0 32, tolg := x.extractLsb' 32 32 }
  | 3 => s.setProctor fun p => { p with tols := x.extractLsb' 0 32 }
  | 4 => s.setProctor fun p => { p with hbpair := p.hbpair ||| (v &&& m).extractLsb' 0 8, hben := x.extractLsb' 8 8 }
  | 16 => s.setProctor fun p => { p with qaddr := x }
  | 17 => if setsBit v m 0 then s.setProctor fun p => { p with qbusy := true } else s
  | _ =>
    if 8 ≤ w ∧ w < 16 then
      let lo := 64 * (w - 8)
      let nonce := fun (n : Nat) => n - putAt (field n lo 64) lo + putAt x.toNat lo
      s.setProctor fun p => { p with nonce := BitVec.ofNat 512 (nonce p.nonce.toNat) }
    else s

/-! ## A partition's window -/

/-- A queue belongs to a partition's window (R391). -/
def State.ownsQueue (s : State) (p q : Nat) : Bool := match s.parts[p]? with | some x => x.qmask.getLsbD q | none => false

/-- A word of a queue-table entry (R358). -/
def QEntry.word (x : QEntry) (w : Nat) : Word64 :=
  match w with
  | 0 => x.hdr
  | 1 => BitVec.ofNat 64 (b2n x.kind + putAt (b2n x.en) 1)
  | 2 => x.template
  | 3 => x.done
  | _ => 0

/-- A write of a queue-table entry: HDR, KIND and TEMPLATE only while EN = 0; EN enables or disables (R358). -/
def State.writeQueue (s : State) (q w : Nat) (v m : Word64) : State :=
  let qe := s.qtab.getD q QEntry.reset
  let x := putBits (qe.word w) v m
  match w with
  | 0 => if qe.en then s else s.setQ q fun y => { y with hdr := x }
  | 1 =>
    let s1 := if qe.en then s else s.setQ q fun y => { y with kind := x.getLsbD 0 }
    if setsBit v m 1 then s1.enableQueue q else if clearsBit v m 1 then s1.disableQueue q else s1
  | 2 => if qe.en then s else s.setQ q fun y => { y with template := x }
  | _ => s

/-- Regulator status of a job in the window of its partition (R404). -/
def State.readStatus (s : State) (p j w : Nat) : Word64 :=
  match s.job? j with
  | none => 0
  | some x =>
    if cardPart x.card != p then 0
    else
      let r := s.regStat j
      let held := s.regs.any fun e => decide (e.c = .job j) && !e.held.isEmpty
      if w = 0 then BitVec.ofNat 64 (r.ovcnt.toNat + putAt (b2n held) 32) else BitVec.ofNat 64 r.lasth

/-- A 1 written to a bit of OVCNT clears it (R5, R404). -/
def State.clearStatus (s : State) (p j w : Nat) (v m : Word64) : State :=
  match s.job? j with
  | none => s
  | some x =>
    if cardPart x.card != p || w != 0 then s
    else
      let r := s.regStat j
      s.setRegStat { r with ovcnt := r.ovcnt &&& ~~~((v &&& m).extractLsb' 0 32) }

/-- A word of a stream's configuration (R405). -/
def Stream.word (x : Stream) (w : Nat) : Word64 :=
  match w with
  | 0 => BitVec.ofNat 64 (b2n x.en + putAt x.nslot.toNat 8 + putAt x.slotb.toNat 32)
  | 1 => x.sbase
  | 2 => x.dbase
  | 3 => x.cons
  | 4 => x.prod
  | 5 => BitVec.ofNat 64 x.drops.toNat
  | _ => 0

/-- A write of a stream's configuration: NSLOT, SLOTB, SBASE and DBASE only while EN = 0 (R405). -/
def State.writeStream (s : State) (port w : Nat) (v m : Word64) : State :=
  match s.streams[port]? with
  | none => s
  | some y =>
    let x := putBits (y.word w) v m
    match w with
    | 0 =>
      let s1 := if y.en then s else s.setStream port fun z => { z with nslot := x.extractLsb' 8 16, slotb := x.extractLsb' 32 32 }
      if setsBit v m 0 then s1.enableStream port
      else if clearsBit v m 0 then s1.setStream port fun z => { z with en := false, frame := none }
      else s1
    | 1 => if y.en then s else s.setStream port fun z => { z with sbase := x }
    | 2 => if y.en then s else s.setStream port fun z => { z with dbase := x }
    | 3 => s.setStream port fun z => { z with cons := x }
    | _ => s

/-- A stream's configuration lies in the window of its owner (R391, R405). -/
def State.ownsPort (s : State) (p port : Nat) : Bool := match s.streams[port]? with | some x => x.owner.toNat == p | none => false

/-- An invalidation starts: a GO while BUSY = 1 or with IKIND = 3 is ignored (R416). -/
def State.startInval (s : State) (p : Nat) : State :=
  s.setPart p fun x =>
    if x.inval.isSome || x.ikind = 3 then x else { x with inval := some (x.ikind.toNat, x.iaddr.toNat, x.ilen.toNat) }

/-- A word of the window of partition p (R391). -/
def State.readWindow (s : State) (p off : Nat) : Word64 :=
  match s.parts[p]? with
  | none => 0
  | some x =>
    if off < 0x800 then (if s.ownsQueue p (off / 32) then (s.qtab.getD (off / 32) QEntry.reset).word (off % 32 / 8) else 0)
    else if off = 0x800 then x.jtbase
    else if off = 0x808 then
      BitVec.ofNat 64 (x.jobload.toNat + putAt (b2n x.lbusy) 8 + putAt (b2n x.lok) 9 + putAt x.ldet.toNat 16)
    else if off = 0x840 then x.fqhdr
    else if off = 0x850 then x.jhdr
    else if off = 0x880 then x.iaddr
    else if off = 0x888 then x.ilen
    else if off = 0x890 then BitVec.ofNat 64 (x.ikind.toNat + putAt (b2n x.inval.isSome) 3)
    else if 0x1000 ≤ off ∧ off < 0x2000 then s.readStatus p ((off - 0x1000) / 16) (off % 16 / 8)
    else if 0x2000 ≤ off ∧ off < 0x2300 then
      (if s.ownsPort p ((off - 0x2000) / 64) then
        (match s.streams[(off - 0x2000) / 64]? with | some y => y.word (off % 64 / 8) | none => 0) else 0)
    else if 0x3000 ≤ off ∧ off < 0x3018 then s.clock.word ((off - 0x3000) / 8)
    else 0

/-- A write of a word of the window of partition p. -/
def State.writeWindow (s : State) (p off : Nat) (v m : Word64) : State :=
  match s.parts[p]? with
  | none => s
  | some x =>
    if off < 0x800 then (if s.ownsQueue p (off / 32) then s.writeQueue (off / 32) (off % 32 / 8) v m else s)
    else if off = 0x800 then s.setPart p fun y => { y with jtbase := putBits y.jtbase v m }
    else if off = 0x808 then (if bits m 0 8 != 0 then s.loadJob p (bits (v &&& m) 0 8) else s)
    else if off = 0x840 then s.setPart p fun y => { y with fqhdr := putBits y.fqhdr v m }
    else if off = 0x848 then
      let w := v &&& m
      if bits w 16 2 = 1 then s.faultRetry p (bits w 0 16) else if bits w 16 2 = 2 then s.faultDecline p (bits w 0 16) else s
    else if off = 0x850 then s.setPart p fun y => { y with jhdr := putBits y.jhdr v m }
    else if off = 0x880 then s.setPart p fun y => { y with iaddr := putBits y.iaddr v m }
    else if off = 0x888 then s.setPart p fun y => { y with ilen := putBits y.ilen v m }
    else if off = 0x890 then
      let w := putBits (BitVec.ofNat 64 x.ikind.toNat) v m
      let s1 := s.setPart p fun y => { y with ikind := w.extractLsb' 0 2 }
      if setsBit v m 2 then s1.startInval p else s1
    else if 0x1000 ≤ off ∧ off < 0x2000 then s.clearStatus p ((off - 0x1000) / 16) (off % 16 / 8) v m
    else if 0x2000 ≤ off ∧ off < 0x2300 then
      (if s.ownsPort p ((off - 0x2000) / 64) then s.writeStream ((off - 0x2000) / 64) (off % 64 / 8) v m else s)
    else s

/-! ## The management range -/

/-- The word at an 8-byte aligned physical address of the management range (R386). -/
def State.readReg (s : State) (pa : Nat) : Word64 :=
  let o := pa - 0x000FFF0000000000
  if o < 0x10000 then s.readSystem o
  else if o < 0x20000 then s.proctor.word ((o - 0x10000) / 8)
  else if 0x100000 ≤ o ∧ o < 0x500000 then s.readWindow ((o - 0x100000) / 0x10000) (o % 0x10000)
  else 0

/-- A write of such a word. -/
def State.writeReg (s : State) (pa : Nat) (v m : Word64) : State :=
  let o := pa - 0x000FFF0000000000
  if o < 0x10000 then s.writeSystem o v m
  else if o < 0x20000 then s.writeProctor ((o - 0x10000) / 8) v m
  else if 0x100000 ≤ o ∧ o < 0x500000 then s.writeWindow ((o - 0x100000) / 0x10000) (o % 0x10000) v m
  else s

/-- Bytes read from the management range. -/
def State.readRegs (s : State) (pa n : Nat) : List Byte :=
  (List.range n).map fun i => (s.readReg ((pa + i) / 8 * 8)).extractLsb' (8 * ((pa + i) % 8)) 8

/-- Bytes written to the management range, word by word in ascending order. -/
def State.writeRegs (s : State) (pa : Nat) (bs : List Byte) : State :=
  let n := bs.length
  let words := if n = 0 then [] else (List.range ((pa + n - 1) / 8 - pa / 8 + 1)).map (· + pa / 8)
  words.foldl (fun st w =>
    let at_ := fun (i : Nat) => 8 * w + i
    let has := fun (i : Nat) => decide (pa ≤ at_ i) && decide (at_ i < pa + n)
    let v := ((List.range 8).map fun i => if has i then putAt (bs.getD (at_ i - pa) 0).toNat (8 * i) else 0).foldl (· + ·) 0
    let m := ((List.range 8).map fun i => if has i then putAt 0xFF (8 * i) else 0).foldl (· + ·) 0
    st.writeReg (8 * w) (BitVec.ofNat 64 v) (BitVec.ofNat 64 m)) s

/-- PARTITION_TABLE_WRITE (R388, R389). -/
def execPartitionTableWrite (p word : Nat) (v : Word64) (s : State) : Host.Outcome State Fault Refusal :=
  .next (s.writePartition p word v (BitVec.allOnes 64))

/-- WAYS_WRITE (R393). -/
def execWaysWrite (p : Nat) (ways : BitVec 24) (s : State) : Host.Outcome State Fault Refusal := .next (s.writeWays p ways)

/-- POOL_MAP_WRITE (R390), with the decision that follows (R374). -/
def execPoolMapWrite (cl : Nat) (pool : BitVec 2) (s : State) : Host.Outcome State Fault Refusal :=
  .next (s.writePool cl pool).settle

/-- REGISTER_WRITE of 8 bytes at an address of the management range (R5, R386). -/
def execRegisterWrite (pa : Nat) (v : Word64) (s : State) : Host.Outcome State Fault Refusal :=
  .next (if management pa then s.writeRegs pa (bytesOf 8 v.toNat) else s)

/-! ## Translation caches -/

/-- GO with a kind (R416). -/
def State.goInval (s : State) (p : Nat) (kind : BitVec 2) : State :=
  if (match s.parts[p]? with | some x => x.inval.isSome | none => true) then s
  else (s.setPart p fun x => { x with ikind := kind }).startInval p

/-- INVALIDATE_PARTITION, INVALIDATE_RANGE and INVALIDATE_WALK_CACHES start; what they name may be dropped from then on
and is gone when the invalidation completes (R416, R417). -/
def execInvalidatePartition (p : Nat) (s : State) : Host.Outcome State Fault Refusal := .next (s.goInval p 0)
/-- INVALIDATE_RANGE. -/
def execInvalidateRange (p : Nat) (s : State) : Host.Outcome State Fault Refusal := .next (s.goInval p 1)
/-- INVALIDATE_WALK_CACHES. -/
def execInvalidateWalkCaches (p : Nat) (s : State) : Host.Outcome State Fault Refusal := .next (s.goInval p 2)

/-- A cached leaf that an invalidation names: all of the partition, or those that map a byte of the range (R416). -/
def namesLeaf (kind addr len : Nat) (t : TlbEntry) : Bool :=
  kind == 0 || (kind == 1 && decide (t.vbase < addr + len) && decide (addr < t.vbase + t.size))

/-- INVALIDATION_COMPLETE: the named entries are gone from every core, cluster and DMA agent, and BUSY returns to 0; every
access is performed at its own step, so none is under way (R417).  Application cores keep their own caches (R417). -/
def execInvalidationComplete (p : Nat) (s : State) : Host.Outcome State Fault Refusal :=
  .next <|
    match (s.parts[p]?).bind (·.inval) with
    | none => s
    | some (kind, addr, len) =>
      let s1 : State := { s with
        tlb := s.tlb.filter fun t => !(t.part == p && t.agent < 512 && namesLeaf kind addr len t)
        walks := s.walks.filter fun w => !(w.part == p && w.agent < 512) }
      s1.setPart p fun x => { x with inval := none }

end Sys2Proof.Machine
end

