-- ==== Sys2Proof/Machine/Peers.lean ====
section
/-!
DEFINITION. The host over PCIe (16 R424 to R426, 11 R342) and the application cores (16 R431, 11 R342), as agents that meet
device memory and the management range.
-/

namespace Sys2Proof.Machine

/-! ## The host -/

/-- A completion to a host read: its data, and whether it carries Unsupported Request (no data) or poison (R424, R442). -/
def State.reply (s : State) (bs : List Byte) (bad : Bool) : State :=
  { s with pcie := { s.pcie with replies := s.pcie.replies ++ [(bs, bad)] } }

/-- The management address that a BAR 0 offset reaches: the window of the function's partition, then for a function granted
it the system window (R424). -/
def PcieFn.bar0 (f : PcieFn) (off size : Nat) : Option Nat :=
  if off + size ≤ 0x10000 then some (0x000FFF0000100000 + 0x10000 * f.part + off)
  else if f.sysWin && f.fn == 0 && decide (0x10000 ≤ off) && decide (off + size ≤ 0x20000) then
    some (0x000FFF0000000000 + (off - 0x10000))
  else none

/-- The fault record of a BAR 2 access: ENGINE 5 and JOBID all ones (R424); none while the fault queue has no room. -/
def State.hostFault (s : State) (p kind : Nat) (e : Nat × Bool × Nat) : Option State :=
  s.faultAppend p 98 (faultRecord s.now e.2.2 p 255 0 5 kind e.1 e.2.1 0 0 0)

/-- The Proctor window (R466). -/
def proctorWindow (pa : Nat) : Bool := decide (0x000FFF0000010000 ≤ pa) && decide (pa ≤ 0x000FFF000001FFFF)
/-- The system window (R386). -/
def systemWindow (pa : Nat) : Bool := decide (0x000FFF0000000000 ≤ pa) && decide (pa ≤ 0x000FFF000000FFFF)

/-- Where an access of the host lies; the Proctor window is open to the function that the record names alone (R424,
R466). -/
def State.hostSpan (s : State) (p : Nat) (fn : Option Nat) (kind : Acc) (va n : Nat) :
    Except (Nat × Bool × Nat) (List (Nat × Nat × Nat × Word64)) :=
  let named := match s.proctor.config with | some c => c.pwFn.isSome && c.pwFn == fn | none => false
  let r := s.xlateSpan p (ioAgents 98) kind true va n
  match r.2, r.1.find? fun x => proctorWindow x.2.2.1 && !named with
  | some e, none => .error e
  | _, some x => .error (0x0A, false, x.1)
  | none, none => .ok r.1

/-- What an agent outside the clusters reads at a translated place: registers, the link, or memory. -/
def State.peerRead (s : State) (h : Option Holder) (pa n : Nat) : List Byte :=
  if management pa then s.readRegs pa n
  else if outbound pa then (List.range n).map fun i => if s.pcie.up then Config.outboundByte (pa + i) else 0xFF
  else s.readPA h pa n

/-- What such an agent writes there; `h` is its token holder, `c` whom it is charged to. -/
def State.peerWrite (s : State) (p : Nat) (h : Option Holder) (c : Charge) (leaf : Word64) (pa : Nat) (bs : List Byte) : State :=
  if management pa then s.writeRegs pa bs else s.storeAt p h (some c) none false leaf pa bs

/-- Writes the bytes of an access piece by piece. -/
def State.peerPut (s : State) (p : Nat) (h : Option Holder) (c : Charge) (va : Nat) (bs : List Byte)
    (xs : List (Nat × Nat × Nat × Word64)) : State :=
  xs.foldl (fun st x => st.peerWrite p h c x.2.2.2 x.2.2.1 ((bs.drop (x.1 - va)).take x.2.1)) s

/-- A read of the host in a partition: an acquire at system scope, served from the current data with one token at the home
(R342); a read of CK lines is logged first (R458).  It waits at the home for grants, tokens and regulators (R338, R401). -/
def State.hostRead (s : State) (p : Nat) (fn : Option Nat) (va n : Nat) : State :=
  match s.hostSpan p fn .read va n with
  | .error e => ((s.hostFault p 0 e).map fun st => st.reply [] true).getD s
  | .ok xs =>
    let b := s.peerBegin (.agent 98) none .host p (ioAgents 98) false xs
    if !b.2 then b.1
    else
      let bad := xs.any fun x => !management x.2.2.1 && !outbound x.2.2.1 && b.1.poisoned x.2.2.1 x.2.1
      let s1 := xs.foldl (fun st x => if leafCK x.2.2.2 then st.logOut p x.2.2.1 x.2.1 2 0 else st) b.1
      s1.reply (xs.flatMap fun x => b.1.peerRead none x.2.2.1 x.2.1) bad

/-- A write of the host in a partition: all tokens are collected at the home, which keeps them, and the write is a release
of the host's earlier ones (R342).  A write that faults is dropped whole, with a fault record (R424). -/
def State.hostWrite (s : State) (p : Nat) (fn : Option Nat) (va : Nat) (bs : List Byte) : State :=
  match s.hostSpan p fn .write va bs.length with
  | .error e => (s.hostFault p 1 e).getD s
  | .ok xs =>
    let b := s.peerBegin (.agent 98) none .host p (ioAgents 98) true xs
    if !b.2 then b.1 else b.1.peerPut p none .host va bs xs

/-- HOST_READ of up to 4,096 bytes: through a BAR of a function, or in the root-port role a read of the attached endpoint at
an address of the partition bound to the port (R423 to R425).  While the link is down nothing arrives. -/
def execHostRead (fn bar off size : Nat) (s : State) : Host.Outcome State Fault Refusal :=
  .next (
    if !s.pcie.up || 4096 < size then s
    else if s.pcie.rootPort then s.hostRead s.pcie.rootPart none off size
    else
      match s.pcie.fns.find? fun f => f.fn == fn with
      | none => s
      | some f =>
        if bar = 0 then
          match f.bar0 off size with
          | some pa => s.reply (s.readRegs pa size) false
          | none => s.reply [] true
        else if bar = 2 then
          if 2 ^ f.hbits < off + size then s.reply [] true
          else s.hostRead f.part (some fn) (f.hbase.toNat + off) size
        else s)

/-- HOST_WRITE of up to 512 bytes, as HOST_READ (R423 to R425). -/
def execHostWrite (fn bar off : Nat) (bytes : List Byte) (s : State) : Host.Outcome State Fault Refusal :=
  .next (
    if !s.pcie.up || 512 < bytes.length then s
    else if s.pcie.rootPort then s.hostWrite s.pcie.rootPart none off bytes
    else
      match s.pcie.fns.find? fun f => f.fn == fn with
      | none => s
      | some f =>
        if bar = 0 then
          match f.bar0 off bytes.length with
          | some pa => s.writeRegs pa bytes
          | none => s
        else if bar = 2 then
          if 2 ^ f.hbits < off + bytes.length then s
          else s.hostWrite f.part (some fn) (f.hbase.toNat + off) bytes
        else s)

/-! ## Application cores -/

/-- The translation agent of an application core (its own caches, R417). -/
def appAgents (core : Nat) : List Nat := [512 + core]

/-- A pair of application cores runs: released at the boot and not under restart (R467, R471). -/
def State.pairRuns (s : State) (pair : Nat) : Bool :=
  decide (pair < 8) && !s.proctor.resets.contains (64 + pair) &&
  (match s.proctor.config with | some c => c.pairs.getLsbD pair | none => false)

/-- The result of a read-modify-write on w bits. -/
def amoResult (op : AmoOp) (w old x : Nat) : Nat :=
  match op with
  | .swap => x
  | .add => (old + x) % 2 ^ w
  | .xor => old ^^^ x
  | .and => old &&& x
  | .or => old ||| x
  | .min => if sgn w x < sgn w old then x else old
  | .max => if sgn w old < sgn w x then x else old
  | .minu => Nat.min x old
  | .maxu => Nat.max x old

/-- The levels of tables of a mode of the RISC-V privileged architecture (log entry 52). -/
def satpLevels : SatpMode → Nat
  | .sv39 => 3 | .sv48 => 4 | .sv57 => 5 | .bare | .part => 0

/-- A walk of RISC-V page tables: `host` places a table entry's address, `ok` judges a leaf's rights, `wide` widens the
index of the root.  The physical address and the leaf, or none for a fault (R431; log entry 52). -/
def State.rvWalk (s : State) (host : Nat → Option Nat) (ok : Nat → Bool) (va : Nat) : Nat → Nat → Nat → Option (Nat × Nat)
  | 0, _, _ => none
  | lv + 1, wide, tbl =>
    match host (tbl + 8 * field va (12 + 9 * lv) (9 + wide)) with
    | none => none
    | some a =>
      let e := ofBytes (Memory.read s.mem a 8)
      let ppn := field e 10 44
      let napot := bitOf e 63
      if !bitOf e 0 || (!bitOf e 1 && bitOf e 2) || s.poisoned a 8 then none
      else if !bitOf e 1 && !bitOf e 3 then s.rvWalk host ok va lv 0 (ppn * 4096)
      else if ppn % 2 ^ (9 * lv) ≠ 0 || !ok e || (napot && (lv != 0 || ppn % 16 != 8)) then none
      else if napot then some ((ppn - 8) * 4096 + va % 65536, e)
      else some (ppn * 4096 + va % 2 ^ (12 + 9 * lv), e)

/-- One stage of RISC-V translation under a mode and root page; an address outside the mode's range faults. -/
def State.rvStage (s : State) (host : Nat → Option Nat) (ok : Nat → Bool) (m : SatpMode × Nat) (wide va : Nat) :
    Option (Nat × Nat) :=
  if satpLevels m.1 = 0 then some (va, 0)
  else
    let w := 12 + 9 * satpLevels m.1
    let fits := if wide = 0 then decide (va < 2 ^ (w - 1)) || decide (2 ^ 64 - 2 ^ (w - 1) ≤ va && va < 2 ^ 64)
      else decide (va < 2 ^ (w + wide))
    if fits then s.rvWalk host ok va (satpLevels m.1) wide (m.2 * 4096) else none

/-- The rights of a RISC-V leaf for an access of a core; `user` is the level that the leaf's U bit is held against. -/
def AppCore.rvOk (c : AppCore) (kind : Acc) (user : Bool) (e : Nat) : Bool :=
  let r := bitOf e 1 || (c.mxr && bitOf e 3)
  let w := bitOf e 2 && bitOf e 7
  bitOf e 6 && (if user then bitOf e 4 else !bitOf e 4 || (c.sum && kind != .fetch)) &&
  (match kind with | .read => r | .write => w | .atomic => r && w | .fetch => bitOf e 3)

/-- A page that RISC-V tables give as a leaf of this part: rights already judged, memory type by its PBMT. -/
def rvLeaf (e : Nat) : Word64 := if field e 61 2 = 0 then 0x1C else 0x9C

/-- The translation of one piece of an access of an application core: by its satp, or when virtualised by vsatp and hgatp;
in MODE 24 by the tables of the partition in its partition register (R385, R409, R431). -/
def State.appXlate (s : State) (core : Nat) (c : AppCore) (kind : Acc) (va n : Nat) : Option (Nat × Word64) :=
  let p := c.part.toNat
  let user := c.level == .u || c.level == .vu
  let judged := fun (pa : Nat) (leaf : Word64) => if s.permitted p kind true leaf pa n && decide (pa < 2 ^ 52) then some (pa, leaf) else none
  let guest := fun (k : Acc) (g : Nat) => s.rvStage some (c.rvOk k true) c.hgatp 2 g
  match c.level with
  | .m => judged va (rvLeaf 0)
  | .u | .s =>
    if c.satp.1 = .part then
      (match s.access p (appAgents core) kind true va n with | .ok pa leaf _ _ => some (pa, leaf) | .fault _ _ => none)
    else (s.rvStage some (c.rvOk kind user) c.satp 0 va).bind fun x => judged x.1 (rvLeaf x.2)
  | .vu | .vs =>
    (s.rvStage (fun a => (guest .read a).map (·.1)) (c.rvOk kind user) c.vsatp 0 va).bind fun x =>
      (guest kind x.1).bind fun y => judged y.1 (rvLeaf x.2)

/-- The levels that the record admits to the system window and the Proctor window (R386, R466). -/
def State.levelMay (s : State) (l : Priv) (pa : Nat) : Bool :=
  match s.proctor.config with
  | some c => (!systemWindow pa || c.sysLevels.contains l) && (!proctorWindow pa || c.pwLevels.contains l)
  | none => !systemWindow pa && !proctorWindow pa

/-- Where an access of an application core lies, piece by piece; none for a fault of its profile. -/
def State.appSpan (s : State) (core : Nat) (c : AppCore) (kind : Acc) (va n : Nat) : Option (List (Nat × Nat × Nat × Word64)) :=
  (pieces (n + 1) va n).foldl (fun acc pc =>
    match acc, s.appXlate core c kind pc.1 pc.2 with
    | some xs, some (pa, leaf) => if s.levelMay c.level pa then some (xs ++ [(pc.1, pc.2, pa, leaf)]) else none
    | _, _ => none) (some [])

/-- What a claim at an IMSIC returns: the lowest identity that is pending and enabled, 0 for none. -/
def AppCore.topInt (c : AppCore) : Nat := ((List.range 256).find? fun i => (c.eip &&& c.eie).getLsbD i).getD 0

/-- What the core's instruction stream sets (R385, R431): a MODE that a register does not have is not written. -/
def AppCore.put (c : AppCore) : AppSet → AppCore
  | .level l => { c with level := l }
  | .satp m x => { c with satp := (m, x) }
  | .vsatp m x => if m = .part then c else { c with vsatp := (m, x) }
  | .hgatp m x => if m = .part then c else { c with hgatp := (m, x) }
  | .sum b => { c with sum := b }
  | .mxr b => { c with mxr := b }
  | .partition p => { c with part := p }
  | .enable ids => { c with eie := ids }

/-- The access has been made: what it returns, and no fault. -/
def State.appDone (s : State) (r : List Byte) : State := { s with appLast := some r, appOk := true }
/-- An access fault of the profile. -/
def State.appFault (s : State) : State := { s with appLast := none, appOk := false }
def State.setCore (s : State) (core : Nat) (f : AppCore → AppCore) : State := { s with cores := s.cores.modify core f }

/-- An access of an application core that translates: a fault, a wait, or its effect on the state that has taken what the
access needs; poisoned data is an access fault where they are read (R338, R342, R401, R442). -/
def State.appAccess (s : State) (core : Nat) (c : AppCore) (kind : Acc) (va n : Nat)
    (f : State → List (Nat × Nat × Nat × Word64) → State) : State :=
  match s.appSpan core c kind va n with
  | none => s.appFault
  | some xs =>
    let reads := kind == .read || kind == .atomic
    if reads && xs.any fun x => !management x.2.2.1 && !outbound x.2.2.1 && s.poisoned x.2.2.1 x.2.1 then s.appFault
    else
      let h : Option Holder := if s.joinedIn (.pair (core / 2)) then some (.pair (core / 2)) else none
      let b := s.peerBegin (.agent (512 + core)) h .app c.part.toNat (appAgents core) (kind == .write || kind == .atomic) xs
      if b.2 then f b.1 xs else b.1

/-- The lines of a cache-block operation: the pair's L2 and the system cache (R196, R431). -/
def State.appClean (s : State) (core pa : Nat) (drop : Bool) : State :=
  let ln := pa / 64
  let h := Holder.pair (core / 2)
  let was := s.dirty.any fun d => d.line == ln && decide (d.holder = h)
  let s1 := if drop then s.evictLine h ln
    else { s with dirty := s.dirty.filter fun d => !(d.line == ln && decide (d.holder = h)) }
  (if was && !drop then s1.writeBack ln (some .app) else s1).sysClean ln drop

/-- The meaning of a step of an application core that runs (R342, R385, R431).  Its pair's L2 is a token holder; an AMO, LR
or SC is made in one step, so aq and rl, like a fence, leave nothing to wait for. -/
def State.appStep (s : State) (core : Nat) (c : AppCore) (acc : AppAccess) : State :=
  let p := c.part.toNat
  let h : Option Holder := if s.joinedIn (.pair (core / 2)) then some (.pair (core / 2)) else none
  let whole := fun (va size : Nat) => (size == 4 || size == 8) && va % size == 0
  match acc with
  | .fence _ _ => s
  | .set x => s.setCore core fun y => y.put x
  | .claim => (s.setCore core fun y => { y with eip := y.eip &&& ~~~BitVec.ofNat 256 (2 ^ c.topInt) }).appDone (bytesOf 8 c.topInt)
  | .load va size => s.appAccess core c .read va size fun st xs => st.appDone (xs.flatMap fun x => st.peerRead h x.2.2.1 x.2.1)
  | .store va bytes => s.appAccess core c .write va bytes.length fun st xs => { st.peerPut p h .app va bytes xs with appOk := true }
  | .cboZero va =>
    let a := va / 64 * 64
    s.appAccess core c .write a 64 fun st xs => { st.peerPut p h .app a (List.replicate 64 0) xs with appOk := true }
  | .amo op va size operand _ _ =>
    if !whole va size then s.appFault
    else s.appAccess core c .atomic va size fun st xs =>
      let old := xs.flatMap fun x => st.peerRead h x.2.2.1 x.2.1
      let r := amoResult op (8 * size) (ofBytes old) (operand.toNat % 2 ^ (8 * size))
      (st.peerPut p h .app va (bytesOf size r) xs).appDone old
  | .lr va size _ _ =>
    if !whole va size then s.appFault
    else s.appAccess core c .read va size fun st xs =>
      match xs with
      | x :: _ =>
        if management x.2.2.1 || outbound x.2.2.1 then st.appFault
        else (st.setCore core fun y => { y with resv := some (x.2.2.1 / 64) }).appDone (st.peerRead h x.2.2.1 size)
      | [] => st
  | .sc va size operand _ _ =>
    if !whole va size then s.appFault
    else s.appAccess core c .write va size fun st xs =>
      match xs with
      | x :: _ =>
        let lost := fun (z : State) => z.setCore core fun y => { y with resv := none }
        if c.resv = some (x.2.2.1 / 64) then (lost (st.peerPut p h .app va (bytesOf size operand.toNat) xs)).appDone (bytesOf 8 0)
        else (lost st).appDone (bytesOf 8 1)
      | [] => st
  | .cboClean va => s.appAccess core c .read va 1 fun st xs =>
      xs.foldl (fun z x => { z.appClean core x.2.2.1 false with appOk := true }) st
  | .cboInval va | .cboFlush va => s.appAccess core c .read va 1 fun st xs =>
      xs.foldl (fun z x => { z.appClean core x.2.2.1 true with appOk := true }) st

/-- APPLICATION_CORE_ACCESS: a step of core 0 or 1 of a pair that runs. -/
def execApplicationCoreAccess (pair core : Nat) (acc : AppAccess) (s : State) : Host.Outcome State Fault Refusal :=
  .next (
    if !s.pairRuns pair || 2 ≤ core then s
    else match s.cores[2 * pair + core]? with
    | some c => s.appStep (2 * pair + core) c acc
    | none => s)

end Sys2Proof.Machine
end

