-- ==== Sys2Proof/Machine/Sync.lean ====
section
/-!
DEFINITION. Timeline counters (07 R210, R211; 14 R367), task spawn (07 R212 to R214) and range grants (07 R215 to R217;
11 R338, R339).
-/

namespace Sys2Proof.Machine

/-! ## Synchronisation points that may wait (11 R325) -/

/-- A point that has to wait has ended the epoch; a split wave's other fragment goes on in a new one. -/
def State.syncWait (s : State) (k : Ctx) (i : Instr) (u : UnitWait) : State :=
  let s1 := s.unitWait k i u
  if k.wv.isSplit then s1.syncDone k.w else s1

/-! ## Timeline counters -/

/-- The counter index of field B (R210). -/
def ctrOf (f : RWord) : Nat := f.b.toNat

/-- An engine command of the wave, but no record, is still to be performed (R211; log entry 21). -/
def State.commandsOf (s : State) (w : Nat) : Bool := s.cmds.any fun c => c.wave == w && c.unfinished && !c.isRecord

/-- `tl.inc` (R211). -/
def execTlInc (f : RWord) (s : State) : Host.Outcome State Fault Refusal :=
  simt s fun k =>
    let i := Instr.tlInc f
    let c := ctrOf f
    s.issueRegs k i (k.use f.a f.actl 1 0) (k.dst f.d 1 0) fun wv =>
      let a := k.scalSrc s.now f.lit 64 f.a
      let old := s.tlcVal k.wv.launch c
      if k.l.tlcsrc c ≠ 0 then s.trapWhole k 0x0A i
      else if a = 0 then s.trapWhole k 0x08 i
      else if s.commandsOf k.w then s.opwait k
      else if 2 ^ 64 ≤ old + a then s.trapWhole k 0x08 i
      else s.syncPoint k i fun st =>
        ((st.commit k (st.keepEpoch k (k.sputD wv f.d (old + a))) i.len).tlcAdd k.wv.launch c a).setGang k.wv.launch k.wv.gang
          fun g => { g with trace := true }

/-- `tl.wait` for a value, at issue or when its wait ends (R211); the point's epoch has ended. -/
def State.tlWaitGo (s : State) (k : Ctx) (f : RWord) (v : Nat) : State :=
  let i := Instr.tlWait f
  s.issueRegs k i (k.use f.a f.actl 1 0) (k.dst f.d 1 0) fun wv =>
    match s.syncBegin k i with
    | .error t => t
    | .ok s1 =>
      let seen := s1.tlcVal k.wv.launch (ctrOf f)
      if v ≤ seen then
        ((s1.commit k (s1.keepEpoch k (k.sputD wv f.d seen)) i.len).invalidateL1 k.wv.core).syncDone k.w
      else s1.syncWait k i (.tlWait (ctrOf f) v)

/-- `tl.wait`. -/
def execTlWait (f : RWord) (s : State) : Host.Outcome State Fault Refusal :=
  simt s fun k => s.tlWaitGo k f (k.scalSrc s.now f.lit 64 f.a)

/-- A counter has reached what a fragment waits for (R211). -/
def execTlWaitSatisfied (w slot : Nat) (s : State) : Host.Outcome State Fault Refusal :=
  .next <|
    match s.waiter w slot with
    | none => s
    | some k =>
      match k.fr.st with
      | .unit (.tlWait f) (.tlWait c v) => if v ≤ s.tlcVal k.wv.launch c then s.tlWaitGo k f v else s
      | _ => s

/-- `tl.read` (R211). -/
def execTlRead (f : RWord) (s : State) : Host.Outcome State Fault Refusal :=
  simt s fun k =>
    let i := Instr.tlRead f
    s.issueRegs k i [] (k.dst f.d 1 0) fun wv =>
      s.commit k (k.sputD wv f.d (s.tlcVal k.wv.launch (ctrOf f))) i.len

/-! ## Task spawn -/

/-- An access that every lane of a set makes at one address. -/
def State.spawnAccess (s : State) (k : Ctx) (kind : Acc) (n : Nat) (lanes : List Nat) (addr : Nat → Nat) : List LaneRes :=
  s.checkPoison kind (lanes.map fun lane => s.laneGlobal k kind { priv := false, card := false } n lane (addr lane))

/-- Entries that a kernel spawns into the queue of its own instance belong to the instance, and are admitted as soon as HEAD
reaches them (R372, R366). -/
def State.ownSpawned (s : State) (k : Ctx) (hdr tail n : Nat) : State :=
  match s.inst? k.l.job with
  | none => s
  | some i =>
    let q := cardQueue i.card
    let qe := s.qtab.getD q QEntry.reset
    if qe.en && qe.kind && qe.hdr.toNat == hdr && cardPart i.card == k.part then
      let own := fun (x : Instance) => { x with spawned := x.spawned ++ (List.range n).map (· + tail) }
      ((s.setQ q fun x => { x with tail := tail + n }).setInst k.l.job own).admitOwned k.l.job
    else s

/-- The write part of `spawn`: every entry, TAIL, the counter, the status bits and the slots (R214). -/
def State.spawnWrite (s : State) (k : Ctx) (i : Instr) (f : RWord) (act : Word32) (wv : Wave) (h : RingHdr)
    (es ts : List LaneRes) : State :=
  s.syncPoint k i fun st =>
    let n := popcount act
    let lanes := lanesOf act
    let rank := fun (lane : Nat) => (lanes.findIdx? (· == lane)).getD 0
    let w1 := (st.keepEpoch k wv).kwrite k.fr.owned f.c.toNat act act
    let w2 := if OpField.isV f.d then w1.vputs act (fun lane => (h.tail + rank lane) % 2 ^ 32) (k.vnames f.d 1) 0 else w1
    let s1 := (st.commit k w2 i.len).clearCovered es
    let s2 := es.foldl (fun a r => a.laneWrite k r (k.vgroup f.a.toNat 8 r.lane)) s1
    let s3 := (ts.take 1).foldl (fun a r => a.laneWrite k r ((h.tail + n) % 2 ^ 64)) s2
    let s4 := if h.tlcen then s3.tlcAdd k.wv.launch h.tlc n else s3
    s4.ownSpawned k (k.svalue f.b) h.tail n

/-- `spawn` (R213, R214). -/
def execSpawn (f : RWord) (s : State) : Host.Outcome State Fault Refusal :=
  simt s fun k =>
    let i := Instr.spawn f
    let act := k.active f.pk (modNP f.mod)
    let lanes := lanesOf act
    s.issueRegs k i (k.use f.a f.actl 8 act ++ k.use f.b f.bctl 1 0) (k.dst f.d 1 act) fun wv =>
      if k.l.determ then s.trapWhole k 0x0A i
      else if act = 0 then s.commit k wv i.len
      else
        let hdr := k.svalue f.b
        let hs := s.spawnAccess k .read 64 lanes fun _ => hdr
        match s.laneTrap k i .read false 0 hs with
        | some t => s.takeTrap k.w k.slot t
        | none =>
          match s.memBegin k false true true hs with
          | .error t => t
          | .ok s0 =>
          match (hs.head?).bind fun r => ringOf (s0.laneRead k true r) with
          | none => s.trapWhole k 0x08 i
          | some h =>
            let n := popcount act
            if h.tlcen && k.l.tlcsrc h.tlc != 0 then s.trapWhole k 0x08 i
            else if h.cap + h.head < h.tail + n then
              if f.mod.getLsbD 0 then s.trapWhole k 0x14 i
              else s0.syncPoint k i fun st => st.commit k ((st.keepEpoch k wv).kwrite k.fr.owned f.c.toNat act 0) i.len
            else
              let rank := fun (lane : Nat) => (lanes.findIdx? (· == lane)).getD 0
              let es := s.spawnAccess k .write 32 lanes fun lane => (h.base + 32 * ((h.tail + rank lane) % h.cap)) % 2 ^ 64
              let ts := s.spawnAccess k .write 8 lanes fun _ => (hdr + 24) % 2 ^ 64
              match s.laneTrap k i .write false 0 (if es.any (fun r => r.bad.isSome) then es else ts) with
              | some t => s.takeTrap k.w k.slot { t with lanes := act, first := lowestLane act }
              | none =>
                match s0.memBegin k true true true (es ++ ts) with
                | .error t => t
                | .ok s1 => s1.spawnWrite k i f act wv h es ts

/-! ## Range grants -/

/-- R215: a grant that may not be opened.  The last address lies below the report-card and private windows
(R306, R443). -/
def grantFaulty (base stride count width : Nat) : Bool :=
  width == 0 || 64 < width || stride % width != 0 || (stride == 0 && 1 < count) || count == 0 || 2 ^ 24 < count ||
  0x00FFFE0000000000 < base + (count - 1) * stride + width

/-- Two grants conflict (R216): some byte lies in an element of each and one of them is a write grant. -/
def Grant.conflicts (a b : Grant) : Bool :=
  a.part == b.part && (a.write || b.write) &&
  (List.range a.count).any fun i => (List.range a.width).any fun j => b.covers (a.base + i * a.stride + j)

/-- The physical lines that a grant's elements cover. -/
def State.grantLines (s : State) (k : Ctx) (g : Grant) : List Nat :=
  ((List.range g.count).flatMap fun i =>
    (pieces 3 (g.base + i * g.stride) g.width).flatMap fun pc =>
      match s.xlate g.part (coreAgents k.wv.core) pc.1 with
      | .ok pa _ _ _ => linesOf pa pc.2
      | .fault _ _ => []).eraseDups

/-- The holders of a line: those with tokens, dirty data or a copy of it. -/
def State.lineHolders (s : State) (ln : Nat) : List Holder :=
  (((s.tokens.filter fun (t : TokenHold) => t.line == ln).map (·.holder)) ++
    ((s.dirty.filter fun (d : DirtyLine) => d.line == ln).map (·.holder)) ++
    ((s.copies.filter fun c => c.1 == ln).map (·.2.1))).eraseDups

/-- R338: opening a write grant recalls every copy of its lines but the granting cluster's: the others write dirty data back
and give up their tokens.  Opening a read grant recalls write rights: a holder of all 128 tokens keeps one. -/
def State.grantRecall (s : State) (k : Ctx) (g : Grant) : State :=
  if s.tokens.isEmpty && s.dirty.isEmpty && s.copies.isEmpty then s
  else
    let lines := s.grantLines k g
    let mine := Holder.cluster g.cl
    if g.write then
      lines.foldl (fun st ln => ((st.lineHolders ln).filter (· ≠ mine)).foldl (fun x h => x.evictLine h ln) st) s
    else
      let full := (s.tokens.filter fun (t : TokenHold) => lines.contains t.line && t.n == 128).map (·.line)
      full.foldl State.homecoming
        { s with tokens := s.tokens.map fun (t : TokenHold) => if full.contains t.line then { t with n := 1 } else t }

/-- `rg.open`, at issue or when its wait ends (R215, R216). -/
def State.rgOpenGo (s : State) (k : Ctx) (f : RWord) (base stride count width : Nat) (wr : Bool) : State :=
  let i := Instr.rgOpen f
  let us := k.use f.a f.actl 1 0 ++ k.use f.b f.bctl 1 0 ++ k.use f.c f.cctl 1 0
  s.issueRegs k i us (k.dst f.d 1 0) fun wv =>
    if k.l.determ then s.trapWhole k 0x0A i
    else if grantFaulty base stride count width then s.trapWhole k 0x08 i
    else match s.syncBegin k i with
    | .error t => t
    | .ok s1 =>
      let used := (s1.grants.filter fun g => g.cl == k.cl).map (·.handle)
      let free := (List.range 64).find? fun h => !used.contains h
      match free with
      | none => (s1.commit k (s1.keepEpoch k (k.sputD wv f.d (2 ^ 64 - 1))) i.len).syncDone k.w
      | some h =>
        let g : Grant := { handle := h, cl := k.cl, wave := k.w, base := base, stride := stride, count := count,
                           width := width, write := wr, part := k.part }
        if s1.grants.any fun x => g.conflicts x then s1.syncWait k i (.rgOpen base stride count width wr)
        else
          let s2 := (s1.commit k (s1.keepEpoch k (k.sputD wv f.d h)) i.len).grantRecall k g
          ({ s2 with grants := s2.grants ++ [g] } : State).syncDone k.w

/-- `rg.open`. -/
def execRgOpen (f : RWord) (s : State) : Host.Outcome State Fault Refusal :=
  simt s fun k =>
    let b := k.scalSrc s.now f.lit 64 f.b
    s.rgOpenGo k f (k.scalSrc s.now f.lit 64 f.a) (b % 2 ^ 32) (b / 2 ^ 32) (k.scalSrc s.now f.lit 64 f.c) (f.mod.getLsbD 0)

/-- A waiting grant opens once no open grant conflicts with it (R216). -/
def execRgOpenGranted (w slot : Nat) (s : State) : Host.Outcome State Fault Refusal :=
  .next <|
    match s.waiter w slot with
    | none => s
    | some k =>
      match k.fr.st with
      | .unit (.rgOpen f) (.rgOpen base stride count width wr) =>
        let g : Grant := { handle := 0, cl := k.cl, wave := w, base := base, stride := stride, count := count,
                           width := width, write := wr, part := k.part }
        if s.grants.any fun x => g.conflicts x then s else s.rgOpenGo k f base stride count width wr
      | _ => s

/-- `rg.close` (R217): the writes made under the grant are at the home already. -/
def execRgClose (f : RWord) (s : State) : Host.Outcome State Fault Refusal :=
  simt s fun k =>
    let i := Instr.rgClose f
    s.issueRegs k i (k.use f.a f.actl 1 0) [] fun wv =>
      let h := k.scalSrc s.now f.lit 64 f.a
      let mine := fun (g : Grant) => g.handle == h && g.cl == k.cl && g.wave == k.w
      if !s.grants.any mine then s.trapWhole k 0x0A i
      else s.syncPoint k i fun st =>
        let s1 := st.commit k (st.keepEpoch k wv) i.len
        { s1 with grants := s1.grants.filter fun g => !mine g }

end Sys2Proof.Machine
end

