-- ==== Sys2Proof/Machine/System.lean ====
section
/-!
DEFINITION. Special registers (02 R39 to R44, R48; 05 R137) and bank modes (05 R138, R139; 10 R300).
-/

namespace Sys2Proof.Machine

/-! ## Special registers -/

/-- FCAUSE, FPC, FLANES, FINST, FCARD and FTIME are for the handler only (R39). -/
def handlerOnly (n : Nat) : Bool := 0x30 ≤ n && n ≤ 0x35
/-- The registers with writable fields (R137). -/
def sregWritable (n : Nat) : Bool := n == 0x00 || n == 0x05 || n == 0x20 || n == 0x21 || n == 0x30 || n == 0x31 || n == 0x32

/-- FOOTPRINT of a wave with the given numbers of mapped names (R40). -/
def footprintWord (l : Launch) (v sc : Nat) : Nat := v % 256 + putAt l.vceil 8 + putAt (sc % 256) 16 + putAt l.sceil 24
/-- WSTATE (R43). -/
def Ctx.wstate (k : Ctx) : Nat :=
  b2n k.wv.hmode + 2 * b2n k.wv.isSplit + 4 * k.slot + putAt (min 255 (k.fr.stack.length + k.fr.spilled)) 8 +
  putAt (b2n k.wv.recess) 16

/-- The value of a special register in a lane; `dv` and `ds` are the destination names that FOOTPRINT counts as mapped
(R39 to R44). -/
def State.sregValue (s : State) (k : Ctx) (n lane : Nat) (dv ds : List Nat) : Nat :=
  let wv := k.wv
  if n = 0x00 then k.fr.exec.toNat
  else if n = 0x01 then wv.wid lane
  else if n = 0x02 then lane
  else if n = 0x03 then s.now % 2 ^ 64
  else if n = 0x04 then footprintWord k.l ((wv.vregs.map (·.1)) ++ dv).eraseDups.length ((wv.sregs.map (·.1)) ++ ds).eraseDups.length
  else if n = 0x05 then wv.fpflags.toNat
  else if n = 0x06 then k.l.lflags (s.redund k.l)
  else if n = 0x07 then k.wstate
  else if n < 0x10 then k.l.slot (n - 0x08) % 2 ^ 13
  else if n < 0x20 then s.tlcVal wv.launch (n - 0x10)
  else if n = 0x20 then wv.rngkey.toNat
  else if n = 0x21 then (wv.rngctr.toList.getD lane 0).toNat
  else if n = 0x30 then wv.fregs.fcause.toNat
  else if n = 0x31 then wv.fregs.fpc.toNat
  else if n = 0x32 then wv.fregs.flanes.toNat
  else if n = 0x33 then wv.fregs.finst.toNat
  else if n = 0x34 then 0x00FFFE0000000000
  else if n = 0x35 then wv.fregs.ftime.toNat
  else if n = 0x38 then k.l.hentry
  else 0

/-- `sget` (R137). -/
def execSget (f : RWord) (s : State) : Host.Outcome State Fault Refusal :=
  simt s fun k =>
    let i := Instr.sget f
    let n := f.b.toNat
    if handlerOnly n && !k.wv.hmode then s.trapWhole k 0x0A i
    else if f.u then
      s.issueRegs k i [] (k.dst f.d 1 0) fun wv =>
        let v := s.sregValue k n 0 [] ((k.dst f.d 1 0).map (·.n))
        s.commit k (k.sputD wv f.d v) i.len
    else
      let m := k.active f.pk (modNP f.mod)
      let g := if RWord.sregWide f.b then 2 else 1
      s.issueRegs k i [] (k.dst f.d g m) fun wv =>
        let dv := if m = 0 then [] else k.vnames f.d g
        let vs := laneVals m 0 fun lane => s.sregValue k n lane dv []
        s.commit k (wv.vputs m (fun lane => vs.getD lane 0) (k.vnames f.d g) 0) i.len

/-- Writes a special register of the wave and fragment: EXEC keeps to the owned lanes, FPFLAGS is write-one-to-clear,
reserved bits are ignored (R27, R41, R44, R137). -/
def Wave.setSreg (wv : Wave) (slot n : Nat) (v : Nat) : Wave :=
  let v32 : Word32 := BitVec.ofNat 32 v
  if n = 0x00 then
    wv.setFrag slot ((wv.frag slot).map fun (f : Frag) => { f with exec := v32 &&& f.owned })
  else if n = 0x05 then { wv with fpflags := wv.fpflags &&& ~~~v32 }
  else if n = 0x20 then { wv with rngkey := BitVec.ofNat 64 v }
  else if n = 0x30 then { wv with fregs := { wv.fregs with fcause := v32 &&& 0x00FF3FFF } }
  else if n = 0x31 then { wv with fregs := { wv.fregs with fpc := BitVec.ofNat 64 v } }
  else if n = 0x32 then { wv with fregs := { wv.fregs with flanes := v32 } }
  else wv

/-- `sset` (R137). -/
def execSset (f : RWord) (s : State) : Host.Outcome State Fault Refusal :=
  simt s fun k =>
    let i := Instr.sset f
    let n := f.b.toNat
    if !sregWritable n || (handlerOnly n && !k.wv.hmode) then s.trapWhole k 0x0A i
    else if f.u then
      s.issueRegs k i (k.use f.a f.actl 1 0) [] fun wv =>
        s.commit k (wv.setSreg k.slot n (k.scalSrc s.now f.lit 64 f.a)) i.len
    else
      let m := k.active f.pk (modNP f.mod)
      s.issueRegs k i (k.use f.a f.actl 2 m) [] fun wv =>
        let vs := laneVals m 0 fun lane => k.vgroup f.a.toNat 2 lane
        let ctr := fun (lane : Nat) (old : Word64) => if m.getLsbD lane then BitVec.ofNat 64 (vs.getD lane 0) else old
        s.commit k { wv with rngctr := Vector.ofFn fun x => ctr x.val wv.rngctr[x] } i.len

/-! ## Bank modes -/

/-- The code of a mode (R138). -/
def BankMode.code : BankMode → Nat
  | .cache => 0 | .scratch => 1 | .fifo => 2
/-- The mode of a code. -/
def bankModeOf (n : Nat) : BankMode := if n = 0 then .cache else if n = 1 then .scratch else .fifo

/-- The bank holds scratchpad of a resident workgroup of another launch, or is reserved to one (R138, R300). -/
def State.bankOfOther (s : State) (cl b li : Nat) : Bool :=
  (match s.clusters[cl]? with
   | some c => (c.regions.any fun r => r.launch != li && r.inBank b) ||
      c.changed.any fun x => x.1 == b && x.2 != li && s.launchOnCluster cl x.2
   | none => false) ||
  (List.range s.launches.length).any fun j => j != li && s.launchOnCluster cl j &&
    (match s.launches[j]? with | some x => bitOf x.banks b | none => false)

/-- The fragments of a cluster that wait at a FIFO bank. -/
def State.fifoWaiters (s : State) (cl b : Nat) : List (Nat × Nat) :=
  (List.range s.waves.length).flatMap fun w => [0, 1].filterMap fun sl =>
    match s.waiter w sl with
    | none => none
    | some k =>
      (match k.fr.st with
       | .unit _ (.fifo a _ _ _ _) => if k.cl == cl && a == b then some (w, sl) else none
       | _ => none)

/-- The FIFO instructions that wait at a bank which leaves FIFO mode trap with PROTECTION, having moved nothing (R191). -/
def State.trapWaiters (s : State) (cl b : Nat) : State :=
  (s.fifoWaiters cl b).foldl (fun st p =>
    match st.waiter p.1 p.2 with
    | none => st
    | some k =>
      (match k.fr.st with
       | .unit i (.fifo _ _ _ _ _) => st.trapWhole k 0x0A i
       | _ => st)) s

/-- The change of a bank's mode, with the mark of R300 and, for a bank that leaves FIFO, the traps of R191. -/
def State.changeBank (s : State) (cl b li : Nat) (m : BankMode) : State :=
  match s.clusters[cl]? with
  | none => s
  | some c =>
    let old := c.modes.getD b .cache
    if old == m then s
    else
      let s1 := (s.setBank cl b m).setCluster cl fun x =>
        { x with changed := if x.changed.contains (b, li) then x.changed else (b, li) :: x.changed }
      if old == .fifo then s1.trapWaiters cl b else s1

/-- Another `bk.mode` waits for the bank that reached its controller earlier (R139). -/
def State.bankQueued (s : State) (k : Ctx) (b : Nat) : Bool :=
  s.waves.any fun v => v.status == .resident && v.cluster == k.cl && [v.frag0, v.frag1].any fun o =>
    match o with
    | some f => (match f.st with | .unit _ (.bankMode x _) => x == b && decide (f.age < k.fr.age) | _ => false)
    | none => false

/-- `bk.mode` on bank b, at issue or when its wait ends: it waits while the bank is locked or an earlier `bk.mode` waits for
it, then the mode changes and the former one goes to D (R138, R139, R312). -/
def State.bankGo (s : State) (k : Ctx) (f : RWord) (b mode : Nat) : State :=
  let i := Instr.bkMode f
  s.issueRegs k i (k.use f.a f.actl 1 0) (k.dst f.d 1 0) fun wv =>
    if bankCount k.cl ≤ b then s.trapWhole k 0x08 i
    else if s.bankOfOther k.cl b k.wv.launch then s.trapWhole k 0x0A i
    else match s.clusters[k.cl]? with
    | none => s
    | some c =>
      let old := c.modes.getD b .cache
      if s.bankQueued k b || (old.code != mode && c.locks.any fun x => x.bank == b) then s.unitWait k i (.bankMode b mode)
      else (s.commit k (k.sputD wv f.d old.code) i.len).changeBank k.cl b k.wv.launch (bankModeOf mode)

/-- `bk.mode` (R138). -/
def execBkMode (f : RWord) (s : State) : Host.Outcome State Fault Refusal :=
  simt s fun k =>
    if !k.l.bankctl then s.trapWhole k 0x0A (.bkMode f)
    else s.bankGo k f (k.scalSrc s.now f.lit 64 f.a) (f.mod.extractLsb' 0 2).toNat

/-- A `bk.mode` that waited for its bank retires (R139). -/
def execBankModeRetire (w slot : Nat) (s : State) : Host.Outcome State Fault Refusal :=
  .next <|
    match s.waiter w slot with
    | none => s
    | some k =>
      match k.fr.st with
      | .unit (.bkMode f) (.bankMode b mode) => s.bankGo k f b mode
      | _ => s

end Sys2Proof.Machine
end

