-- ==== Sys2Proof/Machine/Dispatch.lean ====
section
/-!
DEFINITION. The dispatch: one arm for every constructor of Instr.
-/

namespace Sys2Proof.Machine

/-- The meaning of an instruction. -/
def exec (i : Instr) (s : State) : Host.Outcome State Fault Refusal :=
  match i with
  | .bra f => Sys2Proof.Machine.execBra f s
  | .brc f => Sys2Proof.Machine.execBrc f s
  | .brv f => Sys2Proof.Machine.execBrv f s
  | .join f => Sys2Proof.Machine.execJoin f s
  | .call f => Sys2Proof.Machine.execCall f s
  | .ret f => Sys2Proof.Machine.execRet f s
  | .jmpi f => Sys2Proof.Machine.execJmpi f s
  | .exit f => Sys2Proof.Machine.execExit f s
  | .nop f => Sys2Proof.Machine.execNop f s
  | .yield f => Sys2Proof.Machine.execYield f s
  | .ckpt f => Sys2Proof.Machine.execCkpt f s
  | .trap f => Sys2Proof.Machine.execTrap f s
  | .rfe f => Sys2Proof.Machine.execRfe f s
  | .recessok f => Sys2Proof.Machine.execRecessok f s
  | .tsleep f => Sys2Proof.Machine.execTsleep f s
  | .tsleepWake w slot => Sys2Proof.Machine.execTsleepWake w slot s
  | .deferredTrap w slot => Sys2Proof.Machine.execDeferredTrap w slot s
  | .recessTrap w slot => Sys2Proof.Machine.execRecessTrap w slot s
  | .add f => Sys2Proof.Machine.execAdd f s
  | .sub f => Sys2Proof.Machine.execSub f s
  | .mul f => Sys2Proof.Machine.execMul f s
  | .mulh f => Sys2Proof.Machine.execMulh f s
  | .mad f => Sys2Proof.Machine.execMad f s
  | .div f => Sys2Proof.Machine.execDiv f s
  | .rem f => Sys2Proof.Machine.execRem f s
  | .min f => Sys2Proof.Machine.execMin f s
  | .max f => Sys2Proof.Machine.execMax f s
  | .abs f => Sys2Proof.Machine.execAbs f s
  | .neg f => Sys2Proof.Machine.execNeg f s
  | .adds f => Sys2Proof.Machine.execAdds f s
  | .subs f => Sys2Proof.Machine.execSubs f s
  | .sad f => Sys2Proof.Machine.execSad f s
  | .and f => Sys2Proof.Machine.execAnd f s
  | .or f => Sys2Proof.Machine.execOr f s
  | .xor f => Sys2Proof.Machine.execXor f s
  | .not f => Sys2Proof.Machine.execNot f s
  | .shl f => Sys2Proof.Machine.execShl f s
  | .shr f => Sys2Proof.Machine.execShr f s
  | .sra f => Sys2Proof.Machine.execSra f s
  | .clz f => Sys2Proof.Machine.execClz f s
  | .popc f => Sys2Proof.Machine.execPopc f s
  | .brev f => Sys2Proof.Machine.execBrev f s
  | .bfe f => Sys2Proof.Machine.execBfe f s
  | .bfi f => Sys2Proof.Machine.execBfi f s
  | .cmp f => Sys2Proof.Machine.execCmp f s
  | .sel f => Sys2Proof.Machine.execSel f s
  | .mov f => Sys2Proof.Machine.execMov f s
  | .addImm f => Sys2Proof.Machine.execAddImm f s
  | .mulImm f => Sys2Proof.Machine.execMulImm f s
  | .andImm f => Sys2Proof.Machine.execAndImm f s
  | .orImm f => Sys2Proof.Machine.execOrImm f s
  | .xorImm f => Sys2Proof.Machine.execXorImm f s
  | .shlImm f => Sys2Proof.Machine.execShlImm f s
  | .shrImm f => Sys2Proof.Machine.execShrImm f s
  | .sraImm f => Sys2Proof.Machine.execSraImm f s
  | .movImm f => Sys2Proof.Machine.execMovImm f s
  | .kand f => Sys2Proof.Machine.execKand f s
  | .kor f => Sys2Proof.Machine.execKor f s
  | .kxor f => Sys2Proof.Machine.execKxor f s
  | .knot f => Sys2Proof.Machine.execKnot f s
  | .kpop f => Sys2Proof.Machine.execKpop f s
  | .kffs f => Sys2Proof.Machine.execKffs f s
  | .kmov f => Sys2Proof.Machine.execKmov f s
  | .sget f => Sys2Proof.Machine.execSget f s
  | .sset f => Sys2Proof.Machine.execSset f s
  | .bkMode f => Sys2Proof.Machine.execBkMode f s
  | .bankModeRetire w slot => Sys2Proof.Machine.execBankModeRetire w slot s
  | .fadd f => Sys2Proof.Machine.execFadd f s
  | .fsub f => Sys2Proof.Machine.execFsub f s
  | .fmul f => Sys2Proof.Machine.execFmul f s
  | .fma f => Sys2Proof.Machine.execFma f s
  | .fdiv f => Sys2Proof.Machine.execFdiv f s
  | .fsqrt f => Sys2Proof.Machine.execFsqrt f s
  | .fmin f => Sys2Proof.Machine.execFmin f s
  | .fmax f => Sys2Proof.Machine.execFmax f s
  | .fminnum f => Sys2Proof.Machine.execFminnum f s
  | .fmaxnum f => Sys2Proof.Machine.execFmaxnum f s
  | .fabs f => Sys2Proof.Machine.execFabs f s
  | .fneg f => Sys2Proof.Machine.execFneg f s
  | .fcmp f => Sys2Proof.Machine.execFcmp f s
  | .fclass f => Sys2Proof.Machine.execFclass f s
  | .fround f => Sys2Proof.Machine.execFround f s
  | .vfrcp f => Sys2Proof.Machine.execVfrcp f s
  | .vfrsq f => Sys2Proof.Machine.execVfrsq f s
  | .vfexp2 f => Sys2Proof.Machine.execVfexp2 f s
  | .vflog2 f => Sys2Proof.Machine.execVflog2 f s
  | .vfsin f => Sys2Proof.Machine.execVfsin f s
  | .vfcos f => Sys2Proof.Machine.execVfcos f s
  | .vcvt f => Sys2Proof.Machine.execVcvt f s
  | .vcvtfTo f => Sys2Proof.Machine.execVcvtfTo f s
  | .vcvtfFrom f => Sys2Proof.Machine.execVcvtfFrom f s
  | .vdot4 f => Sys2Proof.Machine.execVdot4 f s
  | .vdot2 f => Sys2Proof.Machine.execVdot2 f s
  | .xshfl f => Sys2Proof.Machine.execXshfl f s
  | .xrot f => Sys2Proof.Machine.execXrot f s
  | .xbcast f => Sys2Proof.Machine.execXbcast f s
  | .xvote f => Sys2Proof.Machine.execXvote f s
  | .xballot f => Sys2Proof.Machine.execXballot f s
  | .xred f => Sys2Proof.Machine.execXred f s
  | .xscan f => Sys2Proof.Machine.execXscan f s
  | .xmatch f => Sys2Proof.Machine.execXmatch f s
  | .xmaxidx f => Sys2Proof.Machine.execXmaxidx f s
  | .vrand f => Sys2Proof.Machine.execVrand f s
  | .ldG f => Sys2Proof.Machine.execLdG f s
  | .stG f => Sys2Proof.Machine.execStG f s
  | .ldGAcq f => Sys2Proof.Machine.execLdGAcq f s
  | .stGRel f => Sys2Proof.Machine.execStGRel f s
  | .ldS f => Sys2Proof.Machine.execLdS f s
  | .stS f => Sys2Proof.Machine.execStS f s
  | .ldSAcq f => Sys2Proof.Machine.execLdSAcq f s
  | .stSRel f => Sys2Proof.Machine.execStSRel f s
  | .ldU f => Sys2Proof.Machine.execLdU f s
  | .stU f => Sys2Proof.Machine.execStU f s
  | .ldUAcq f => Sys2Proof.Machine.execLdUAcq f s
  | .stURel f => Sys2Proof.Machine.execStURel f s
  | .resultArrival w k => Sys2Proof.Machine.execResultArrival w k s
  | .fqPush f => Sys2Proof.Machine.execFqPush f s
  | .fqPop f => Sys2Proof.Machine.execFqPop f s
  | .fifoService w slot => Sys2Proof.Machine.execFifoService w slot s
  | .vspill f => Sys2Proof.Machine.execVspill f s
  | .vfill f => Sys2Proof.Machine.execVfill f s
  | .pref f => Sys2Proof.Machine.execPref f s
  | .cclean f => Sys2Proof.Machine.execCclean f s
  | .cinval f => Sys2Proof.Machine.execCinval f s
  | .cflush f => Sys2Proof.Machine.execCflush f s
  | .fenceAcq f => Sys2Proof.Machine.execFenceAcq f s
  | .fenceRel f => Sys2Proof.Machine.execFenceRel f s
  | .fenceAr f => Sys2Proof.Machine.execFenceAr f s
  | .atomAdd sp o f => Sys2Proof.Machine.execAtomAdd sp o f s
  | .atomMin sp o f => Sys2Proof.Machine.execAtomMin sp o f s
  | .atomMax sp o f => Sys2Proof.Machine.execAtomMax sp o f s
  | .atomAnd sp o f => Sys2Proof.Machine.execAtomAnd sp o f s
  | .atomOr sp o f => Sys2Proof.Machine.execAtomOr sp o f s
  | .atomXor sp o f => Sys2Proof.Machine.execAtomXor sp o f s
  | .atomXchg sp o f => Sys2Proof.Machine.execAtomXchg sp o f s
  | .atomCas sp o f => Sys2Proof.Machine.execAtomCas sp o f s
  | .atomFadd sp o f => Sys2Proof.Machine.execAtomFadd sp o f s
  | .atomMaxidx sp o f => Sys2Proof.Machine.execAtomMaxidx sp o f s
  | .bar f => Sys2Proof.Machine.execBar f s
  | .gbar f => Sys2Proof.Machine.execGbar f s
  | .tlInc f => Sys2Proof.Machine.execTlInc f s
  | .tlWait f => Sys2Proof.Machine.execTlWait f s
  | .tlWaitSatisfied w slot => Sys2Proof.Machine.execTlWaitSatisfied w slot s
  | .tlRead f => Sys2Proof.Machine.execTlRead f s
  | .spawn f => Sys2Proof.Machine.execSpawn f s
  | .rgOpen f => Sys2Proof.Machine.execRgOpen f s
  | .rgOpenGranted w slot => Sys2Proof.Machine.execRgOpenGranted w slot s
  | .rgClose f => Sys2Proof.Machine.execRgClose f s
  | .ckBegin f => Sys2Proof.Machine.execCkBegin f s
  | .ckSeal f => Sys2Proof.Machine.execCkSeal f s
  | .ceCopy f => Sys2Proof.Machine.execCeCopy f s
  | .ceFill f => Sys2Proof.Machine.execCeFill f s
  | .ceGatherrows f => Sys2Proof.Machine.execCeGatherrows f s
  | .lrFlush f => Sys2Proof.Machine.execLrFlush f s
  | .mxPost f => Sys2Proof.Machine.execMxPost f s
  | .mxCancel f => Sys2Proof.Machine.execMxCancel f s
  | .mxStatus f => Sys2Proof.Machine.execMxStatus f s
  | .tvPair f => Sys2Proof.Machine.execTvPair f s
  | .tvBox f => Sys2Proof.Machine.execTvBox f s
  | .tvResume f => Sys2Proof.Machine.execTvResume f s
  | .rsTri f => Sys2Proof.Machine.execRsTri f s
  | .rsSplat f => Sys2Proof.Machine.execRsSplat f s
  | .visFlow f => Sys2Proof.Machine.execVisFlow f s
  | .visDisp f => Sys2Proof.Machine.execVisDisp f s
  | .visRefine f => Sys2Proof.Machine.execVisRefine f s
  | .engineQueueRoom w slot => Sys2Proof.Machine.execEngineQueueRoom w slot s
  | .commandStart k => Sys2Proof.Machine.execCommandStart k s
  | .commandRetire k => Sys2Proof.Machine.execCommandRetire k s
  | .mm k => Sys2Proof.Machine.execMm k s
  | .mmz k => Sys2Proof.Machine.execMmz k s
  | .mmStep k => Sys2Proof.Machine.execMmStep k s
  | .cvacc k => Sys2Proof.Machine.execCvacc k s
  | .ewiseConvert k => Sys2Proof.Machine.execEwiseConvert k s
  | .ewiseBias k => Sys2Proof.Machine.execEwiseBias k s
  | .ewiseRelu k => Sys2Proof.Machine.execEwiseRelu k s
  | .ewiseScale k => Sys2Proof.Machine.execEwiseScale k s
  | .rsum k => Sys2Proof.Machine.execRsum k s
  | .rckpt k => Sys2Proof.Machine.execRckpt k s
  | .rwait k => Sys2Proof.Machine.execRwait k s
  | .faultRetry p token => Sys2Proof.Machine.execFaultRetry p token s
  | .faultDecline p token => Sys2Proof.Machine.execFaultDecline p token s
  | .queueEnable q => Sys2Proof.Machine.execQueueEnable q s
  | .queueDisable q => Sys2Proof.Machine.execQueueDisable q s
  | .jobLoad p j => Sys2Proof.Machine.execJobLoad p j s
  | .tailRecall q => Sys2Proof.Machine.execTailRecall q s
  | .periodicRelease j => Sys2Proof.Machine.execPeriodicRelease j s
  | .workgroupPlacement l g => Sys2Proof.Machine.execWorkgroupPlacement l g s
  | .recessBoundExpiry j => Sys2Proof.Machine.execRecessBoundExpiry j s
  | .deadlineMiss j => Sys2Proof.Machine.execDeadlineMiss j s
  | .exqHeadRecall j => Sys2Proof.Machine.execExqHeadRecall j s
  | .watchdogExpiry q => Sys2Proof.Machine.execWatchdogExpiry q s
  | .drainKill p => Sys2Proof.Machine.execDrainKill p s
  | .drainAbort p => Sys2Proof.Machine.execDrainAbort p s
  | .drainEnd p => Sys2Proof.Machine.execDrainEnd p s
  | .partitionTableWrite p word v => Sys2Proof.Machine.execPartitionTableWrite p word v s
  | .waysWrite p ways => Sys2Proof.Machine.execWaysWrite p ways s
  | .poolMapWrite cl pool => Sys2Proof.Machine.execPoolMapWrite cl pool s
  | .registerWrite pa v => Sys2Proof.Machine.execRegisterWrite pa v s
  | .regulatorReadRequest g c id => Sys2Proof.Machine.execRegulatorReadRequest g c id s
  | .regulatorWindowStart g c => Sys2Proof.Machine.execRegulatorWindowStart g c s
  | .streamEnable port => Sys2Proof.Machine.execStreamEnable port s
  | .frameStart port fr => Sys2Proof.Machine.execFrameStart port fr s
  | .frameEnd port => Sys2Proof.Machine.execFrameEnd port s
  | .ptpSync m => Sys2Proof.Machine.execPtpSync m s
  | .syncTimeout => Sys2Proof.Machine.execSyncTimeout s
  | .journalWrite p => Sys2Proof.Machine.execJournalWrite p s
  | .invalidatePartition p => Sys2Proof.Machine.execInvalidatePartition p s
  | .invalidateRange p => Sys2Proof.Machine.execInvalidateRange p s
  | .invalidateWalkCaches p => Sys2Proof.Machine.execInvalidateWalkCaches p s
  | .invalidationComplete p => Sys2Proof.Machine.execInvalidationComplete p s
  | .hostRead fn bar off size => Sys2Proof.Machine.execHostRead fn bar off size s
  | .hostWrite fn bar off bytes => Sys2Proof.Machine.execHostWrite fn bar off bytes s
  | .pcieLinkDown => Sys2Proof.Machine.execPcieLinkDown s
  | .pcieLinkUp => Sys2Proof.Machine.execPcieLinkUp s
  | .ethernetTransmit port ring => Sys2Proof.Machine.execEthernetTransmit port ring s
  | .tokenRequest h line wr => Sys2Proof.Machine.execTokenRequest h line wr s
  | .forwardedRequest m => Sys2Proof.Machine.execForwardedRequest m s
  | .tokenResponse m => Sys2Proof.Machine.execTokenResponse m s
  | .transientTimeout h line => Sys2Proof.Machine.execTransientTimeout h line s
  | .persistentRequest h line => Sys2Proof.Machine.execPersistentRequest h line s
  | .persistentDeactivate line => Sys2Proof.Machine.execPersistentDeactivate line s
  | .leave h => Sys2Proof.Machine.execLeave h s
  | .joinMessage h => Sys2Proof.Machine.execJoinMessage h s
  | .tokensLost line h => Sys2Proof.Machine.execTokensLost line h s
  | .restore p d => Sys2Proof.Machine.execRestore p d s
  | .modulePowerFail => Sys2Proof.Machine.execModulePowerFail s
  | .patrolScrub line fnd => Sys2Proof.Machine.execPatrolScrub line fnd s
  | .flitCrcRetry => Sys2Proof.Machine.execFlitCrcRetry s
  | .laneRetrain dir lane => Sys2Proof.Machine.execLaneRetrain dir lane s
  | .meshLinkFailure a b => Sys2Proof.Machine.execMeshLinkFailure a b s
  | .boot => Sys2Proof.Machine.execBoot s
  | .proctorRestart cause => Sys2Proof.Machine.execProctorRestart cause s
  | .proctorRestartComplete => Sys2Proof.Machine.execProctorRestartComplete s
  | .heartbeat dom => Sys2Proof.Machine.execHeartbeat dom s
  | .heartbeatTimeout dom => Sys2Proof.Machine.execHeartbeatTimeout dom s
  | .domainRestart dom => Sys2Proof.Machine.execDomainRestart dom s
  | .domainRestartDone dom => Sys2Proof.Machine.execDomainRestartDone dom s
  | .quote => Sys2Proof.Machine.execQuote s
  | .powerSample milliwatts => Sys2Proof.Machine.execPowerSample milliwatts s
  | .clusterPowerDown cl => Sys2Proof.Machine.execClusterPowerDown cl s
  | .illegalOpcode word => Sys2Proof.Machine.execIllegalOpcode word s
  | .instructionFetchFault fw cause malf => Sys2Proof.Machine.execInstructionFetchFault fw cause malf s
  | .applicationCoreAccess pair core acc => Sys2Proof.Machine.execApplicationCoreAccess pair core acc s
  | .ckWriteAccepted k => Sys2Proof.Machine.execCkWriteAccepted k s

end Sys2Proof.Machine
end

