-- ==== Sys2Proof/Machine/Step.lean ====
section
/-!
DEFINITION. One step of the machine: the next turn is taken, and the instruction it names, if any, is executed.
-/

namespace Sys2Proof.Machine

/-- One step. -/
def step (s : State) : Host.Outcome State Fault Refusal :=
  let t := s.nextTurn
  match t.2.turn t.1 with
  | (some i, s1) => exec i s1
  | (none, s1) => .next s1

/-- The bytes of an instruction word numbered as spec/opcode_table.json numbers it: base word, then extension word,
each least significant byte first (R78); bits above nbits are zero. -/
def wordBytes (w : Nat) : List Byte := bytesOf 16 w

/-- The state with an instruction placed where the next step fetches it (log entry 3). -/
def State.withFetchWord (s : State) (_nbits w : Nat) : State := s.placeWords (wordBytes w)

end Sys2Proof.Machine
end

