-- ==== Sys2Proof/Claims.lean ====
section
/-!
DEFINITION. The words that the statements use: operands that are ready at issue, what an instruction of one wave
changes and leaves, and the rule tables of the manual written over bit vectors.
-/

namespace Sys2Proof.Machine

/-! ## Ready operands (R31 to R36) -/

/-- The names that an instruction would hold fit under the ceilings of its launch, or are no more than the wave holds
already (R31). -/
def Ctx.Fits (k : Ctx) (us : List RegUse) (ds : List RegDst) : Prop :=
  let a := k.wv.freeUses us
  a.vregs.length + newNames (a.vregs.map (·.1)) ds true ≤ max k.l.vceil k.wv.vregs.length ∧
  a.sregs.length + newNames (a.sregs.map (·.1)) ds false ≤ max k.l.sceil k.wv.sregs.length

/-- No source lane is empty (R33), no destination lane is empty and no last-read name has lanes on their way (R34), the
other fragment is not about to write one of them (R282), the names fit (R31), and no register read has an uncorrectable
error (R441). -/
structure Ctx.Clear (k : Ctx) (s : State) (us : List RegUse) (ds : List RegDst) : Prop where
  sources : ∀ u ∈ us, k.wv.useEmpty u = false ∧ k.wv.usePending u = false
  targets : ∀ d ∈ ds, k.wv.dstEmpty d = false
  mate    : k.interlocked us ds = false
  fits    : k.Fits us ds
  sound   : s.upset = true → us = []

/-- The same where a wait ends, whose operands were read at issue (R278). -/
structure Ctx.Resumes (k : Ctx) (s : State) (us : List RegUse) (ds : List RegDst) : Prop where
  fits  : k.Fits us ds
  sound : s.upset = true → us = []

/-! ## Frames -/

/-- From s to t nothing changes but wave w, which becomes b; every byte of memory reads as before. -/
structure State.WaveStep (s t : State) (w : Nat) (b : Wave) : Prop where
  rest   : t = { s with waves := t.waves }
  wave   : t.waves[w]? = some b
  others : ∀ j, j ≠ w → t.waves[j]? = s.waves[j]?
  bytes  : ∀ a, Memory.get t.mem a = Memory.get s.mem a

/-- From wave a to wave b the fragment in `slot` goes on as `go` says, and nothing changes but the vector names `vs`,
the scalar names `ss`, the masks `ks`, FPFLAGS and the results on their way. -/
structure Wave.Past (a b : Wave) (slot : Nat) (go : Frag → Frag) (vs ss ks : List Nat) : Prop where
  frag  : b.frag slot = (a.frag slot).map go
  mate  : b.frag (1 - slot) = a.frag (1 - slot)
  vregs : ∀ n, n ∉ vs → b.vregs.lookup n = a.vregs.lookup n
  sregs : ∀ n, n ∉ ss → b.sregs.lookup n = a.sregs.lookup n
  masks : ∀ j : Fin 16, j.val ∉ ks → b.masks[j] = a.masks[j]
  rest  : b = { a with vregs := b.vregs, sregs := b.sregs, masks := b.masks, fpflags := b.fpflags, pend := b.pend,
                       frag0 := b.frag0, frag1 := b.frag1 }

/-- The instruction runs: the next state differs from s in the issuing wave alone, the fragment goes on as `go` says,
last-read sources are unmapped (R28), only the names given are written, and Q holds of the wave before (its last-read
sources unmapped) and after. -/
def Ctx.Goes (k : Ctx) (i : Instr) (s : State) (us : List RegUse) (go : Frag → Frag) (vs ss ks : List Nat)
    (Q : Wave → Wave → Prop) : Prop :=
  ∃ t b, exec i s = .next t ∧ s.WaveStep t k.w b ∧ (k.wv.freeUses us).Past b k.slot go vs ss ks ∧ Q (k.wv.freeUses us) b

/-- The instruction completes: as `Goes`, and the fragment is past the instruction. -/
def Ctx.Completes (k : Ctx) (i : Instr) (s : State) (us : List RegUse) (vs ss ks : List Nat) (Q : Wave → Wave → Prop) :
    Prop :=
  k.Goes i s us (fun f => f.after i.len) vs ss ks Q

/-- From wave a to wave b as `Past`, in any launch: the wave may also have gone on to another epoch (R325) and have
operations added to its layer (R330), and its other fragment may have been woken by a read that is admitted (R401). -/
structure Wave.Beyond (a b : Wave) (slot : Nat) (go : Frag → Frag) (vs ss ks : List Nat) : Prop where
  frag  : b.frag slot = (a.frag slot).map go
  mate  : b.frag (1 - slot) = a.frag (1 - slot) ∨
    b.frag (1 - slot) = (a.frag (1 - slot)).map fun g => if g.st = .opwait then { g with st := .ready } else g
  vregs : ∀ n, n ∉ vs → b.vregs.lookup n = a.vregs.lookup n
  sregs : ∀ n, n ∉ ss → b.sregs.lookup n = a.sregs.lookup n
  masks : ∀ j : Fin 16, j.val ∉ ks → b.masks[j] = a.masks[j]
  rest  : b = { a with vregs := b.vregs, sregs := b.sregs, masks := b.masks, fpflags := b.fpflags, pend := b.pend,
                       frag0 := b.frag0, frag1 := b.frag1, epoch := b.epoch, epochStart := b.epochStart,
                       epochOpen := b.epochOpen, raceSeen := b.raceSeen, layer := b.layer }

/-- The vector names `ns` keep every lane outside m, and no lane of them becomes empty or full. -/
def Wave.KeepsLanes (a b : Wave) (ns : List Nat) (m : Word32) : Prop :=
  ∀ n ∈ ns, (b.vget n).empty = (a.vget n).empty ∧
    ∀ lane, lane < 32 → m.getLsbD lane = false → laneAt (b.vget n).val lane = laneAt (a.vget n).val lane

/-- The context after an instruction. -/
def Ctx.withWave (k : Ctx) (b : Wave) : Ctx := { k with wv := b }

/-- The numbers of the V names of a list. -/
def useNames (ds : List RegDst) (v : Bool) : List Nat := (ds.filter fun d => d.isV == v).map (·.n)

/-! ## Taking a trap (R44, R46, R165, R279) -/

/-- A fragment as the handler of the other one finds it: held, and ready where it waited for an operand or in a roll
call. -/
def Frag.heldBack (g : Frag) : Frag :=
  { g with held := true, st := match g.st with | .opwait => .ready | .rollcall _ _ _ => .ready | x => x }

/-- TRAP_ENTRY: from s to t only the wave of k changes: its fragment is in the handler at HENTRY, the other one is held,
the fault registers are r; the registers, masks and every other field keep their values, and only lanes that a
withdrawn roll call had marked empty become full. -/
structure State.EntersHandler (s t : State) (k : Ctx) (b : Wave) (r : FaultRegs) : Prop where
  step  : s.WaveStep t k.w b
  mode  : b.hmode = true ∧ b.hslot = k.slot ∧ b.fregs = r
  frag  : b.frag k.slot =
    some { k.fr with pc := BitVec.ofNat 64 k.l.hentry, st := .ready, held := false, skip := 0, restart := false }
  mate  : b.frag (1 - k.slot) = (k.wv.frag (1 - k.slot)).map Frag.heldBack
  vals  : ∀ n, (b.vget n).val = (k.wv.vget n).val ∧ (b.vget n).empty &&& ~~~(k.wv.vget n).empty = 0
  still : (∀ sl g, k.wv.frag sl = some g → ∀ i m ds, g.st ≠ .rollcall i m ds) → b.vregs = k.wv.vregs
  rest  : b = { k.wv with hmode := b.hmode, hslot := b.hslot, fregs := b.fregs, frag0 := b.frag0, frag1 := b.frag1,
                          vregs := b.vregs }

/-- The lanes of a trap of an instruction as a whole: EXEC without the lanes that `rfe` skips (R44, R126). -/
def Ctx.trapLanes (k : Ctx) : Word32 := k.fr.exec &&& ~~~k.fr.skip

/-- What a trap of an instruction as a whole leaves in the fault registers (R44, R126, R444): the cause, FIRST the lowest of
its lanes, MULTI and COUNT 0, FPC, FLANES its lanes, FINST, the time, and one report-card entry. -/
def Ctx.wholeRegs (k : Ctx) (s : State) (cause : Nat) (inst : Word64) (card : Card) : FaultRegs where
  fcause := BitVec.ofNat 32 (cause + 256 * lowestLane k.trapLanes)
  fpc := k.fr.pc
  flanes := k.trapLanes
  finst := inst
  ftime := BitVec.ofNat 64 s.now
  cards := [card]

/-- A report-card entry names its cause, lane, access kind, word offset, WID, address and time (R444). -/
structure CardNames (c : Card) (cause lane acc ioff wid addr info time : Nat) : Prop where
  cause : (c.extractLsb' 0 8).toNat = cause
  lane  : (c.extractLsb' 8 5).toNat = lane
  acc   : (c.extractLsb' 16 2).toNat = acc
  ioff  : (c.extractLsb' 32 32).toNat = ioff
  wid   : (c.extractLsb' 64 64).toNat = wid
  addr  : (c.extractLsb' 128 64).toNat = addr
  info  : (c.extractLsb' 192 64).toNat = info
  time  : (c.extractLsb' 384 64).toNat = time

/-- The one report-card entry of a trap of the instruction as a whole. -/
def Ctx.WholeCard (k : Ctx) (s : State) (cause addr acc info : Nat) (c : Card) : Prop :=
  CardNames c cause (lowestLane k.trapLanes) acc k.ioff (k.wv.wid (lowestLane k.trapLanes) % 2 ^ 64) (addr % 2 ^ 64)
    (info % 2 ^ 64) (s.now % 2 ^ 64)

/-- The fragment may trap into its handler: it is not in one, nor is the other fragment, and the launch has one. -/
def Ctx.TrapReady (k : Ctx) : Prop := k.wv.hmode = false ∧ k.l.hentry ≠ 0

/-- The instruction traps as a whole into the handler (R44, R46). -/
def Ctx.TrapsWhole (k : Ctx) (i : Instr) (s : State) (cause : Nat) (inst : Word64) (addr acc info : Nat) : Prop :=
  ∃ t b card, exec i s = .next t ∧ k.WholeCard s cause addr acc info card ∧
    s.EntersHandler t k b (k.wholeRegs s cause inst card)

/-- The same from a state s1 in which k1 is the fragment: the report card and the fault registers are those of k in s1. -/
def Ctx.TrapsFrom (k k1 : Ctx) (i : Instr) (s s1 : State) (cause : Nat) (inst : Word64) (info : Nat) : Prop :=
  ∃ t b card, exec i s = .next t ∧ k.WholeCard s1 cause 0 0 info card ∧
    s1.EntersHandler t k1 b (k.wholeRegs s1 cause inst card)

/-! ## Unwinding (R119) -/

/-- The loop of R119 on a stack held on chip: the stack, EXEC, the PC and the address to go on at with EXEC = 0. -/
def unwindRule (owned : Word32) : List StackEntry → Word32 → Word64 → Word64 → List StackEntry × Word32 × Word64
  | [], exec, pc, next => ([], exec, if exec = 0 then next else pc)
  | e :: rest, exec, pc, next =>
    if exec ≠ 0 then (e :: rest, exec, pc)
    else if e.running = false then
      if e.dmask &&& owned ≠ 0 then ({ e with running := true, rpc := none } :: rest, e.dmask &&& owned, e.dpc)
      else unwindRule owned rest 0 pc next
    else match e.rpc with
      | none => unwindRule owned rest 0 pc next
      | some p => unwindRule owned rest (e.rmask &&& owned) p p

/-! ## Integer rules (R128, R130, R131) -/

/-- One element: width, signedness, the elements of A, B and C; the result, and whether it saturates. -/
abbrev ElemRule := (w : Nat) → Bool → BitVec w → BitVec w → BitVec w → BitVec w × Bool

/-- MAJ 0x02 but `sad` (R128). -/
def arithRule : Instr → Option (RWord × ElemRule)
  | .add f => some (f, fun _ _ x y _ => (x + y, false))
  | .sub f => some (f, fun _ _ x y _ => (x - y, false))
  | .mul f => some (f, fun _ _ x y _ => (x * y, false))
  | .mulh f => some (f, fun w sg x y _ =>
      (if sg then (x.signExtend (2 * w) * y.signExtend (2 * w)).extractLsb' w w
       else (x.setWidth (2 * w) * y.setWidth (2 * w)).extractLsb' w w, false))
  | .mad f => some (f, fun _ _ x y z => (x * y + z, false))
  | .div f => some (f, fun w sg x y _ => (if y = 0 then BitVec.allOnes w else if sg then x.sdiv y else x.udiv y, false))
  | .rem f => some (f, fun _ sg x y _ => (if y = 0 then x else if sg then x.srem y else x.umod y, false))
  | .min f => some (f, fun _ sg x y _ => (if (if sg then y.slt x else y.ult x) then y else x, false))
  | .max f => some (f, fun _ sg x y _ => (if (if sg then x.slt y else x.ult y) then y else x, false))
  | .abs f => some (f, fun _ _ x _ _ => (x.abs, false))
  | .neg f => some (f, fun _ _ x _ _ => (-x, false))
  | .adds f => some (f, fun w sg x y _ =>
      if sg then (if x.saddOverflow y then (if x.msb then BitVec.intMin w else BitVec.intMax w, true) else (x + y, false))
      else (if x.uaddOverflow y then (BitVec.allOnes w, true) else (x + y, false)))
  | .subs f => some (f, fun w sg x y _ =>
      if sg then (if x.ssubOverflow y then (if x.msb then BitVec.intMin w else BitVec.intMax w, true) else (x - y, false))
      else (if x.usubOverflow y then (0#w, true) else (x - y, false)))
  | _ => none

/-- Position and length that a field specification F names (R131). -/
def fieldPos {w : Nat} (F : BitVec w) : Nat := min (F.toNat % 256) w
def fieldLen {w : Nat} (F : BitVec w) : Nat := min (F.toNat / 256 % 256) (w - fieldPos F)

/-- MAJ 0x03 and `mov` (R130, R131, R134). -/
def logicRule : Instr → Option (RWord × ElemRule)
  | .and f => some (f, fun _ _ x y _ => (x &&& y, false))
  | .or f => some (f, fun _ _ x y _ => (x ||| y, false))
  | .xor f => some (f, fun _ _ x y _ => (x ^^^ y, false))
  | .not f => some (f, fun _ _ x _ _ => (~~~x, false))
  | .shl f => some (f, fun w _ x y _ => (x <<< (y.toNat % w), false))
  | .shr f => some (f, fun w _ x y _ => (x >>> (y.toNat % w), false))
  | .sra f => some (f, fun w _ x y _ => (x.sshiftRight (y.toNat % w), false))
  | .clz f => some (f, fun _ _ x _ _ => (x.clz, false))
  | .popc f => some (f, fun _ _ x _ _ => (x.cpop, false))
  | .brev f => some (f, fun _ _ x _ _ => (x.reverse, false))
  | .bfe f => some (f, fun w sg x F _ =>
      let up := (x >>> fieldPos F) <<< (w - fieldLen F)
      (if sg then up.sshiftRight (w - fieldLen F) else up >>> (w - fieldLen F), false))
  | .bfi f => some (f, fun w _ x y F =>
      let m := (BitVec.allOnes w >>> (w - fieldLen F)) <<< fieldPos F
      ((x &&& ~~~m) ||| ((y <<< fieldPos F) &&& m), false))
  | .mov f => some (f, fun _ _ _ y _ => (y, false))
  | _ => none

/-- The paired operation of a format-I cell on the element and the immediate (R135). -/
def immRule : Instr → Option (IWord × ((w : Nat) → BitVec w → BitVec w → BitVec w))
  | .addImm f => some (f, fun _ x y => x + y)
  | .mulImm f => some (f, fun _ x y => x * y)
  | .andImm f => some (f, fun _ x y => x &&& y)
  | .orImm f => some (f, fun _ x y => x ||| y)
  | .xorImm f => some (f, fun _ x y => x ^^^ y)
  | .shlImm f => some (f, fun w x y => x <<< (y.toNat % w))
  | .shrImm f => some (f, fun w x y => x >>> (y.toNat % w))
  | .sraImm f => some (f, fun w x y => x.sshiftRight (y.toNat % w))
  | .movImm f => some (f, fun _ _ y => y)
  | _ => none

/-! ## Integer operands -/

/-- The registers that a vector form of an Int type reads. -/
def Ctx.vecUses (k : Ctx) (f : RWord) (g : Nat) : List RegUse :=
  let m := k.active f.pk (modNP f.mod)
  k.use f.a f.actl g m ++ k.use f.b f.bctl g m ++ k.use f.c f.cctl g m
/-- The registers that a uniform form reads. -/
def Ctx.uniUses (k : Ctx) (f : RWord) : List RegUse :=
  k.use f.a f.actl 1 0 ++ k.use f.b f.bctl 1 0 ++ k.use f.c f.cctl 1 0

/-- Element e of a vector source in a lane. -/
def Ctx.elem (k : Ctx) (now : Nat) (lit : Option Word64) (dt : BitVec 3) (f : BitVec 8) (lane e : Nat) :
    BitVec (intWidth dt) :=
  BitVec.ofNat _ (elemAt (intWidth dt) (k.intSrc now lit dt f lane) e)
/-- A scalar source as one element. -/
def Ctx.scal (k : Ctx) (now : Nat) (lit : Option Word64) (dt : BitVec 3) (f : BitVec 8) : BitVec (intWidth dt) :=
  BitVec.ofNat _ (k.scalSrc now lit (intWidth dt) f)
/-- Element e of the V group d in a lane of wave b, as the fragment of k names it. -/
def Ctx.elemOut (k : Ctx) (b : Wave) (dt : BitVec 3) (d : BitVec 8) (lane e : Nat) : BitVec (intWidth dt) :=
  BitVec.ofNat _ (elemAt (intWidth dt) ((k.withWave b).vgroup d.toNat (intBits dt / 32) lane) e)
/-- A result of an Int type in a scalar register: sign-extended for i types, zero-extended for n types (R20). -/
def scalarOut (dt : BitVec 3) (v : BitVec (intWidth dt)) : Word64 := if intSigned dt then v.signExtend 64 else v.setWidth 64

/-- Every vector and every uniform form of the instructions of a rule table completes with the table's elements, and sets
FPFLAGS.SAT (R41: bit 5) exactly when an element of an active lane saturates. -/
def ElementWise (table : Instr → Option (RWord × ElemRule)) : Prop :=
  ∀ (i : Instr) (f : RWord) (rule : ElemRule), table i = some (f, rule) → i.wf = true →
    ∀ (s : State) (k : Ctx), s.ctx? = some k →
    let w := intWidth f.dt
    let sg := intSigned f.dt
    (f.u = false →
      let m := k.active f.pk (modNP f.mod)
      let us := k.vecUses f (intBits f.dt / 32)
      let ns := k.vnames f.d (intBits f.dt / 32)
      let res := fun lane e => rule w sg (k.elem s.now f.lit f.dt f.a lane e) (k.elem s.now f.lit f.dt f.b lane e)
        (k.elem s.now f.lit f.dt f.c lane e)
      k.Clear s us (k.dst f.d (intBits f.dt / 32) m) →
      k.Completes i s us ns [] [] fun a b =>
        (∀ lane, lane < 32 → m.getLsbD lane = true → ∀ e, e < intElems f.dt → k.elemOut b f.dt f.d lane e = (res lane e).1) ∧
        a.KeepsLanes b ns m ∧ b.pend = a.pend ∧
        ((∃ lane e, lane < 32 ∧ m.getLsbD lane = true ∧ e < intElems f.dt ∧ (res lane e).2 = true) →
          b.fpflags = a.fpflags ||| 32#32) ∧
        ((∀ lane e, lane < 32 → m.getLsbD lane = true → e < intElems f.dt → (res lane e).2 = false) →
          b.fpflags = a.fpflags)) ∧
    (f.u = true →
      let us := k.uniUses f
      let r := rule w sg (k.scal s.now f.lit f.dt f.a) (k.scal s.now f.lit f.dt f.b) (k.scal s.now f.lit f.dt f.c)
      k.Clear s us (k.dst f.d 1 0) →
      k.Completes i s us [] [k.sname (f.d.toNat - 128)] [] fun a b =>
        b.sregs.lookup (k.sname (f.d.toNat - 128)) = some { val := scalarOut f.dt r.1, empty := false } ∧
        b.pend = a.pend ∧ b.fpflags = a.fpflags ||| (if r.2 then 32#32 else 0#32))

/-! ## Masks and conditions -/

/-- The lanes that a write of a mask may touch: those of the fragment in a split wave (R27). -/
def Ctx.ownLanes (k : Ctx) : Word32 := if k.wv.isSplit then k.fr.owned else BitVec.allOnes 32
/-- Mask n of a wave. -/
def Wave.maskAt (b : Wave) (n : Nat) : Word32 := b.masks.toList.getD n 0
/-- Mask n has the bits of v under m and keeps the others. -/
def Wave.PutsMask (a b : Wave) (n : Nat) (m v : Word32) : Prop := b.maskAt n = (a.maskAt n &&& ~~~m) ||| (v &&& m)

/-- The conditions of `cmp` (R132). -/
def cmpRule (cc : Nat) (sg : Bool) {w : Nat} (x y : BitVec w) : Bool :=
  match cc with
  | 0 => x == y
  | 1 => x != y
  | 2 => if sg then x.slt y else x.ult y
  | 3 => if sg then x.sle y else x.ule y
  | 4 => if sg then y.slt x else y.ult x
  | _ => if sg then y.sle x else y.ule x

/-- The mask results of R136; the Ctx gives the sources. -/
def maskRule (now : Nat) : Instr → Option (RWord × (Ctx → Word32))
  | .kand f => some (f, fun k => k.kread f.a.toNat &&& k.kread f.b.toNat)
  | .kor f => some (f, fun k => k.kread f.a.toNat ||| k.kread f.b.toNat)
  | .kxor f => some (f, fun k => k.kread f.a.toNat ^^^ k.kread f.b.toNat)
  | .knot f => some (f, fun k => ~~~k.kread f.a.toNat)
  | .kmov f =>
    if mod4 f.mod = 0 then some (f, fun k => k.kread f.a.toNat)
    else if mod4 f.mod = 1 then some (f, fun k => BitVec.ofNat 32 (k.scalSrc now f.lit 32 f.a))
    else none
  | _ => none
/-- The scalar results of R136. -/
def countRule : Instr → Option (RWord × (Word32 → Word64))
  | .kpop f => some (f, fun x => (x.cpop).setWidth 64)
  | .kffs f => some (f, fun x => if x = 0 then 32 else (x.ctz).setWidth 64)
  | .kmov f => if mod4 f.mod = 2 then some (f, fun x => x.setWidth 64) else none
  | _ => none

/-! ## Floating point -/

/-- A rounding instruction on element codes: the exact value of R144, R145, R150 and R151 with its conditions, rounded by
RoundF (R53). -/
abbrev FltRule := Fmt → Nat → Nat → Nat → Nat → Flagged Nat

/-- RoundF of an exact result, with the conditions of the operation and of signaling operands (R53, R141). -/
def rounded (fm : Fmt) (rd : Nat) (xs : List Machine.Num) (r : Flagged Machine.Num) : Flagged Nat :=
  ((roundF r.1 fm rd 1).1, (roundF r.1 fm rd 1).2 ||| r.2 ||| (if xs.any Machine.Num.isSNaN then flNV else 0))

/-- Arithmetic, MAJ 0x08 (R144, R145), on the codes of A, B and C under rounding direction rd. -/
def fltRule : Instr → Option (RWord × FltRule)
  | .fadd f => some (f, fun fm rd x y _ =>
      rounded fm rd [fm.decode x, fm.decode y] (numAdd (fm.decode x) (fm.decode y) rd))
  | .fsub f => some (f, fun fm rd x y _ =>
      rounded fm rd [fm.decode x, fm.decode y] (numAdd (fm.decode x) (fm.decode y).negate rd))
  | .fmul f => some (f, fun fm rd x y _ =>
      rounded fm rd [fm.decode x, fm.decode y] (numMul (fm.decode x) (fm.decode y)))
  | .fma f => some (f, fun fm rd x y z =>
      let p := numMul (fm.decode x) (fm.decode y)
      let t := numAdd p.1 (fm.decode z) rd
      rounded fm rd [fm.decode x, fm.decode y, fm.decode z] (t.1, p.2 ||| t.2))
  | .fdiv f => some (f, fun fm rd x y _ =>
      rounded fm rd [fm.decode x, fm.decode y] (numDiv (fm.decode x) (fm.decode y)))
  | .fsqrt f => some (f, fun fm rd x _ _ => rounded fm rd [fm.decode x] (numSqrt (fm.decode x)))
  | .fmin f => some (f, fun fm _ x y _ => extremeRule true false fm x y)
  | .fmax f => some (f, fun fm _ x y _ => extremeRule false false fm x y)
  | .fminnum f => some (f, fun fm _ x y _ => extremeRule true true fm x y)
  | .fmaxnum f => some (f, fun fm _ x y _ => extremeRule false true fm x y)
  | .fround f => some (f, fun fm rd x _ _ =>
      match fm.decode x with
      | .nan sig => (fm.nanOf.1, if sig then flNV else 0)
      | .inf _ => (x, 0)
      | .fin neg m e => ((roundF (.fin neg (roundAt neg m e 0 rd).1 0) fm rd 1).1, 0))
  | _ => none
where
  /-- R146: a NaN operand gives the NaN of the format, or the other operand for the `num` forms; otherwise the lesser
  or greater, −0 below +0. -/
  extremeRule (least num : Bool) (fm : Fmt) (x y : Nat) : Flagged Nat :=
    let a := fm.decode x
    let b := fm.decode y
    (match a.isNaN, b.isNaN with
      | true, true => fm.nanOf.1
      | true, false => if num then y else fm.nanOf.1
      | false, true => if num then x else fm.nanOf.1
      | false, false => if least then (if numBelow b a then y else x) else (if numBelow b a then x else y),
     if a.isSNaN || b.isSNaN then flNV else 0)

/-- Special functions, MAJ 0x09 (R150 to R152). -/
def specialRule : Instr → Option (RWord × FltRule)
  | .vfrcp f => some (f, fun fm rd x _ _ => rounded fm rd [fm.decode x] (numDiv (.fin false 1 0) (fm.decode x)))
  | .vfrsq f => some (f, fun fm rd x _ _ => rounded fm rd [fm.decode x] (numRsqrt (fm.decode x)))
  | .vfexp2 f => some (f, fun fm rd x _ _ => rounded fm rd [fm.decode x] (numExp2 (fm.decode x)))
  | .vflog2 f => some (f, fun fm rd x _ _ => rounded fm rd [fm.decode x] (numLog2 (fm.decode x)))
  | .vfsin f => some (f, fun fm rd x _ _ => rounded fm rd [fm.decode x] (numSinPi (fm.decode x)))
  | .vfcos f => some (f, fun fm rd x _ _ => rounded fm rd [fm.decode x] (numCosPi (fm.decode x)))
  | _ => none

/-- `fabs`, `fneg` and `fclass` on a code: no condition, no flushing (R142, R144, R148). -/
def bitRule : Instr → Option (RWord × (Fmt → Nat → Nat))
  | .fabs f => some (f, fun fm x => x % 2 ^ (fm.width - 1))
  | .fneg f => some (f, fun fm x => if 2 ^ (fm.width - 1) ≤ x then x - 2 ^ (fm.width - 1) else x + 2 ^ (fm.width - 1))
  | .fclass f => some (f, fun fm x => 2 ^ classBit fm x)
  | _ => none
where
  /-- The one bit of R148 that a code sets: 0 −inf, 1 −normal, 2 −subnormal, 3 −0, 4 +0, 5 +subnormal, 6 +normal, 7 +inf,
  8 signaling NaN, 9 quiet NaN. -/
  classBit (fm : Fmt) (x : Nat) : Nat :=
    match fm.decode x with
    | .nan true => 8
    | .nan false => 9
    | .inf true => 0
    | .inf false => 7
    | .fin true m _ => if m = 0 then 3 else if field x fm.mbits fm.ebits = 0 then 2 else 1
    | .fin false m _ => if m = 0 then 4 else if field x fm.mbits fm.ebits = 0 then 5 else 6

/-- A rule with FTZ on the source elements and on the result (R54, R142). -/
def flushed (ftz : Bool) (fm : Fmt) (rule : FltRule) (rd x y z : Nat) : Flagged Nat :=
  ftzOut ftz fm (rule fm rd (ftzIn ftz fm x) (ftzIn ftz fm y) (ftzIn ftz fm z))

/-- The element of a float source at bit o of its lane. -/
def Ctx.fltElem (k : Ctx) (now : Nat) (lit : Option Word64) (dt : BitVec 3) (f : BitVec 8) (lane o : Nat) : Nat :=
  k.fltSrc now lit dt f lane / 2 ^ o % 2 ^ (fltFmt dt).width

/-- The registers that a float instruction reads in its active lanes, each field one register. -/
def Ctx.fltUses (k : Ctx) (f : RWord) : List RegUse :=
  let m := k.active f.pk (modNP f.mod)
  k.use f.a f.actl 1 m ++ k.use f.b f.bctl 1 m ++ k.use f.c f.cctl 1 m

/-- A lane of a vector value holds the elements `code o` at the bits o of the arrangement of dt, and agrees with `old`
elsewhere (R37, R140). -/
def LaneHolds (dt : BitVec 3) (now old : Word32) (code : Nat → Nat) : Prop :=
  (∀ o ∈ fltOffs dt, now.toNat / 2 ^ o % 2 ^ (fltFmt dt).width = code o) ∧
  now &&& ~~~(BitVec.ofNat 32 (fltBits dt)) = old &&& ~~~(BitVec.ofNat 32 (fltBits dt))

/-- The conditions of all elements of all lanes of m together. -/
def allFlags (m : Word32) (os : List Nat) (cond : Nat → Nat → Nat) : Word32 :=
  BitVec.ofNat 32 (((lanesOf m).flatMap fun lane => os.map fun o => cond lane o).foldl (· ||| ·) 0)

/-- The value of a vector name after: `v` in the lanes of m, unchanged in the others, and no lane empties or fills. -/
def Wave.PutsLanes (a b : Wave) (n : Nat) (m : Word32) (v : Nat → Word32) : Prop :=
  (b.vget n).empty = (a.vget n).empty ∧
  ∀ lane, lane < 32 → laneAt (b.vget n).val lane = if m.getLsbD lane then v lane else laneAt (a.vget n).val lane

/-! ## Cross-lane instructions (R166 to R171) -/

/-- A combine operation of R168 on integers. -/
def redOp (op : Nat) (sg : Bool) {w : Nat} (x y : BitVec w) : BitVec w :=
  match op with
  | 0 => x + y
  | 1 => if (if sg then y.slt x else y.ult x) then y else x
  | 2 => if (if sg then x.slt y else x.ult y) then y else x
  | 3 => x &&& y
  | 4 => x ||| y
  | _ => x ^^^ y
/-- The identities of R168 for exclusive integer scans. -/
def redIdent (op : Nat) (sg : Bool) (w : Nat) : BitVec w :=
  match op with
  | 1 => if sg then BitVec.intMax w else BitVec.allOnes w
  | 2 => if sg then BitVec.intMin w else 0
  | 3 => BitVec.allOnes w
  | _ => 0

/-- The combination of a non-empty list in order. -/
def combine {α : Type} (canon : α → α) (op : α → α → α) (ident : α) : List α → α
  | [] => ident
  | x :: xs => xs.foldl op (canon x)
/-- What member number i of a reduction or scan receives (R169). -/
def scanValue {α : Type} (scan excl : Bool) (canon : α → α) (op : α → α → α) (ident : α) (vals : List α) (i : Nat) : α :=
  combine canon op ident (if !scan then vals else if excl then vals.take i else vals.take (i + 1))

/-- The float combine of R168, R169: RoundF of the sum, or R146, with FTZ on the result. -/
def redFloat (op rd : Nat) (ftz : Bool) (fm : Fmt) (x y : Nat) : Flagged Nat :=
  ftzOut ftz fm (match op with
    | 0x10 => rounded fm rd [fm.decode x, fm.decode y] (numAdd (fm.decode x) (fm.decode y) rd)
    | 0x11 => fltRule.extremeRule true false fm x y
    | 0x12 => fltRule.extremeRule false false fm x y
    | 0x13 => fltRule.extremeRule true true fm x y
    | _ => fltRule.extremeRule false true fm x y)
/-- Their identities: −0, +∞, −∞, the canonical NaN. -/
def redFloatIdent (op : Nat) (fm : Fmt) : Nat :=
  match op with
  | 0x10 => 2 ^ (fm.width - 1)
  | 0x11 => fm.infCode false
  | 0x12 => fm.infCode true
  | _ => fm.nanOf.1
/-- Canon of R169 on a float code, with its condition. -/
def canonFloat (fm : Fmt) (x : Nat) : Flagged Nat :=
  if (fm.decode x).isNaN then (fm.nanOf.1, if (fm.decode x).isSNaN then flNV else 0) else (x, 0)
/-- The conditions of a whole reduction. -/
def redFlags (canon : Nat → Flagged Nat) (op : Nat → Nat → Flagged Nat) : List Nat → Nat
  | [] => 0
  | x :: xs => (canon x).2 ||| go op (canon x).1 xs
where
  go (op : Nat → Nat → Flagged Nat) (acc : Nat) : List Nat → Nat
    | [] => 0
    | y :: ys => (op acc y).2 ||| go op (op acc y).1 ys

/-- The place of a lane among the members. -/
def memberIndex (m : Word32) (lane : Nat) : Nat := (lanesOf m).idxOf lane

/-- A cross-lane instruction that writes a V group: its fields, its sources for a member set, how many V registers it
writes, and what member `lane` receives. -/
structure CrossRule where
  f    : RWord
  uses : Ctx → Word32 → List RegUse
  g    : Nat
  val  : Nat → Ctx → Word32 → Nat → Nat

/-- The integer cross-lane instructions (R166, R167, R169 to R171). -/
def crossRule : Instr → Option CrossRule
  | .xshfl f => some ⟨f, fun k m => k.use f.a f.actl (intBits f.dt / 32) m ++ k.use f.b f.bctl 1 m, intBits f.dt / 32,
      fun now k m lane => move f now k m lane (k.intSrc now f.lit 1 f.b lane % 32)⟩
  | .xrot f => some ⟨f, fun k m => k.use f.a f.actl (intBits f.dt / 32) m ++ k.use f.b f.bctl 1 m, intBits f.dt / 32,
      fun now k m lane => move f now k m lane (((lane : Int) - (k.scalSrc now f.lit 32 f.b : Int)) % 32).toNat⟩
  | .xbcast f => some ⟨f, fun k m => k.use f.a f.actl (intBits f.dt / 32) m ++ k.use f.b f.bctl 1 m, intBits f.dt / 32,
      fun now k m lane => move f now k m lane (k.scalSrc now f.lit 32 f.b % 32)⟩
  | .xballot f => some ⟨f, fun _ _ => [], 1, fun _ k m _ => (k.kread f.a.toNat &&& m).toNat⟩
  | .xred f => if f.xopInt then some ⟨f, fun k m => k.use f.a f.actl (intBits f.dt / 32) m, intBits f.dt / 32,
      fun now k m lane => red f false now k m lane⟩ else none
  | .xscan f => if f.xopInt then some ⟨f, fun k m => k.use f.a f.actl (intBits f.dt / 32) m, intBits f.dt / 32,
      fun now k m lane => red f true now k m lane⟩ else none
  | .xmatch f => some ⟨f, fun k m => k.use f.a f.actl (intBits f.dt / 32) m, 1,
      fun now k m lane => (((lanesOf m).filter fun j =>
        k.intSrc now f.lit f.dt f.a j == k.intSrc now f.lit f.dt f.a lane).map (2 ^ ·)).sum⟩
  | .xmaxidx f => some ⟨f, fun k m => k.use f.a f.actl 1 m ++ k.use f.b f.bctl 1 m, 2,
      fun now k m _ => ((lanesOf m).map fun j => key f now k j).foldl max 0⟩
  | _ => none
where
  /-- A of the source lane when it is a member, else the lane's own A. -/
  move (f : RWord) (now : Nat) (k : Ctx) (m : Word32) (lane src : Nat) : Nat :=
    k.intSrc now f.lit f.dt f.a (if m.getLsbD src then src else lane)
  /-- The value of a reduction or scan in an integer type. -/
  red (f : RWord) (scan : Bool) (now : Nat) (k : Ctx) (m : Word32) (lane : Nat) : Nat :=
    (scanValue scan (f.b.getLsbD 7) id (redOp f.xop (intSigned f.dt)) (redIdent f.xop (intSigned f.dt) (intWidth f.dt))
      ((lanesOf m).map fun j => scalarLane k now f j) (memberIndex m lane)).toNat
  /-- The key of R77 of a lane: the element widened to fp32 exactly, above the complemented index. -/
  key (f : RWord) (now : Nat) (k : Ctx) (j : Nat) : Nat :=
    let fm := fltFmt f.dt
    let c := k.fltElem now f.lit f.dt f.a j ((fltOffs f.dt).headD 0)
    let x := if fm.width = 32 then c else if (fm.decode c).isNaN then 0x7FC00000 else (roundF (fm.decode c) fmtFp32 0 1).1
    ordKey x * 2 ^ 32 + (2 ^ 32 - 1 - k.intSrc now f.lit 1 f.b j % 2 ^ 32)
  /-- A whole operand of a lane as one element. -/
  scalarLane (k : Ctx) (now : Nat) (f : RWord) (j : Nat) : BitVec (intWidth f.dt) :=
    BitVec.ofNat _ (k.intSrc now f.lit f.dt f.a j)

/-- Every lane of the member set is the issuing fragment's, in EXEC and alive, so that the instruction completes at
issue (R162). -/
structure Ctx.OwnsAll (k : Ctx) (m : Word32) : Prop where
  some_  : m ≠ 0
  alive  : m &&& ~~~k.wv.lanes = 0 ∧ m &&& k.wv.exited = 0
  owned  : m &&& ~~~k.fr.owned = 0
  active : m &&& ~~~k.fr.exec = 0
  alone  : k.mateInRoll = false

/-! ## Memory instructions -/

/-- No data is uncorrectable (R441, R442). -/
def State.Sound (s : State) : Prop := s.poison = [] ∧ ∀ c ∈ s.clusters, c.spoison = []

/-- No regulator holds a read back (R401). -/
def State.Unheld (s : State) : Prop := ∀ r ∈ s.regs, r.held = [] ∧ r.slice = []

/-- The launches stay as they are but for the access sets of a checked launch (R327). -/
structure State.SetsStep (s t : State) (k : Ctx) : Prop where
  plain : k.l.checked = false → t.launches = s.launches
  sets  : ∀ n, (t.launches[n]?).map (fun x => if n = k.wv.launch then { x with sets := [] } else x) =
    (s.launches[n]?).map fun x => if n = k.wv.launch then { x with sets := [] } else x

/-- A store changes memory, its wave, and what is kept of lines and reads: tokens, dirty and cached copies, poison,
reservations, the regulators' counts and a checked launch's sets; nothing else. -/
structure State.StoreStep (s t : State) (k : Ctx) (b : Wave) : Prop where
  rest   : t = { s with mem := t.mem, dirty := t.dirty, tokens := t.tokens, copies := t.copies, tokMsgs := t.tokMsgs,
                        tokReqs := t.tokReqs, poison := t.poison, l1 := t.l1, sys := t.sys, ckSeen := t.ckSeen,
                        cores := t.cores, regs := t.regs, granted := t.granted, launches := t.launches,
                        waves := t.waves }
  sets   : s.SetsStep t k
  wave   : t.waves[k.w]? = some b
  others : ∀ j, j ≠ k.w → t.waves[j]? = s.waves[j]?

/-- The span lies in plain memory at physical address pa: no outbound address, no CK page, no REQ byte of a recovery
domain. -/
def State.PlainSpan (s : State) (sp : Span) (pa : Nat) : Prop :=
  ∃ leaf priv, sp.place = .phys pa leaf priv ∧ outbound pa = false ∧ leafCK leaf = false ∧
    ∀ d ∈ s.domains, d.logbase + 40 ≠ pa
/-- Every lane passes its checks and its accesses lie in plain memory. -/
def State.PlainLanes (s : State) (rs : List LaneRes) : Prop :=
  ∀ r ∈ rs, r.bad = none ∧ ∀ sp ∈ r.spans, ∃ pa, s.PlainSpan sp pa
/-- The address a is none of the bytes that the lanes' accesses name. -/
def OutsideSpans (rs : List LaneRes) (a : Nat) : Prop :=
  ∀ r ∈ rs, ∀ sp ∈ r.spans, ∀ pa, sp.pa? = some pa → a < pa ∨ pa + sp.n ≤ a
/-- Two lanes name no byte in common. -/
def Apart (r r2 : LaneRes) : Prop :=
  ∀ sp ∈ r.spans, ∀ sp2 ∈ r2.spans, ∀ a b, sp.pa? = some a → sp2.pa? = some b → a + sp.n ≤ b ∨ b + sp2.n ≤ a

/-- A load changes its wave and what is kept of lines and reads; every byte of memory stays. -/
structure State.LoadStep (s t : State) (k : Ctx) (b : Wave) : Prop where
  rest   : t = { s with dirty := t.dirty, tokens := t.tokens, copies := t.copies, tokMsgs := t.tokMsgs, l1 := t.l1,
                        tokReqs := t.tokReqs, sys := t.sys, ckSeen := t.ckSeen, regs := t.regs, granted := t.granted,
                        launches := t.launches, waves := t.waves }
  sets   : s.SetsStep t k
  wave   : t.waves[k.w]? = some b
  others : ∀ j, j ≠ k.w → t.waves[j]? = s.waves[j]?

/-- A synchronisation point changes its wave and a checked launch's sets, and nothing else. -/
structure State.SyncStep (s t : State) (k : Ctx) (b : Wave) : Prop where
  rest   : t = { s with launches := t.launches, waves := t.waves }
  sets   : s.SetsStep t k
  wave   : t.waves[k.w]? = some b
  others : ∀ j, j ≠ k.w → t.waves[j]? = s.waves[j]?

/-- In a checked launch nothing keeps accesses from being recorded and the epoch from ending (R325 to R329): no workgroup
of it is serialised, no race is found, before or after the accesses are recorded, and they fit the set area. -/
def State.RaceFree (s : State) (k : Ctx) (kind : Acc) (rs : List LaneRes) : Prop :=
  k.l.checked = true → k.l.serial = none ∧ s.racePairs k.w = [] ∧
    (∀ s1, s.recordAll k kind rs = some s1 → s1.racePairs k.w = []) ∧
    (s.setOf k.l k.wv.wgKey).length + (rs.flatMap fun r => r.spans.flatMap Span.setWords).length ≤ 4096

/-- The bytes of a value of n bytes as plain stores of a layer at physical address pa (R330). -/
def storeOps (pa va n : Nat) (leaf : Word64) (v : Nat) : List LayerOp :=
  (List.range n).map fun j =>
    .store (pa + j) (va + j) (if leafCK leaf then some (leafCKD leaf) else none) (BitVec.ofNat 8 (v / 256 ^ j))

/-- The operations that a lane's store adds to the layer of its wave in a deterministic launch (R330). -/
def LaneRes.layerStores (r : LaneRes) (v : Nat) : List LayerOp :=
  match r.spans with
  | [{ place := .phys pa leaf false, va := va, n := n }] => storeOps pa va n leaf v
  | _ => []
/-- The operation that a lane's atomic adds. -/
def LaneRes.layerAtomic (r : LaneRes) (kind : AtomKind) (sg : Bool) (n x c : Nat) : List LayerOp :=
  match r.spans with
  | [{ place := .phys pa leaf false, va := va, n := _ }] =>
    [.atomic kind sg pa va (if leafCK leaf then some (leafCKD leaf) else none) n (BitVec.ofNat 64 x) (BitVec.ofNat 64 c)]
  | _ => []
/-- The lane's access is one span of buffered memory (R330). -/
def LaneRes.Buffered (r : LaneRes) : Prop :=
  ∃ pa leaf va n, r.spans = [{ place := .phys pa leaf false, va := va, n := n }] ∧ outbound pa = false

/-- The registers that a spill still has to store pass their checks, each when its turn comes (R193). -/
def State.SpillsAll (s : State) (k : Ctx) (f : MWord) (b : Nat) (m : Word32) (n : Nat) : Nat → Prop
  | 0 => True
  | left + 1 =>
    let j := n - (left + 1)
    let rs := s.spillLanes k .write b j m
    (∀ r ∈ rs, r.bad = none) ∧
    (rs.foldl (fun a r => a.laneWrite k r (k.vlane (f.d.toNat + j) r.lane)) (s.clearCovered rs)).SpillsAll k f b m n left

/-- The loads: their fields, space, and whether they acquire (R185, R187). -/
def loadForm : Instr → Option (MWord × MemSpace × Bool)
  | .ldG f => some (f, .global, false)
  | .ldGAcq f => some (f, .global, true)
  | .ldS f => some (f, .scratch, false)
  | .ldSAcq f => some (f, .scratch, true)
  | .ldU f => some (f, .uniform, false)
  | .ldUAcq f => some (f, .uniform, true)
  | _ => none
/-- The stores: their fields, space, and whether they release. -/
def storeForm : Instr → Option (MWord × MemSpace × Bool)
  | .stG f => some (f, .global, false)
  | .stGRel f => some (f, .global, true)
  | .stS f => some (f, .scratch, false)
  | .stSRel f => some (f, .scratch, true)
  | .stU f => some (f, .uniform, false)
  | .stURel f => some (f, .uniform, true)
  | _ => none
/-- The atomics of MAJ 0x15 to 0x17 (R201). -/
def atomForm : Instr → Option (AtomSpace × AtomOrder × RWord × AtomKind)
  | .atomAdd sp o f => some (sp, o, f, .add)
  | .atomMin sp o f => some (sp, o, f, .min)
  | .atomMax sp o f => some (sp, o, f, .max)
  | .atomAnd sp o f => some (sp, o, f, .and)
  | .atomOr sp o f => some (sp, o, f, .or)
  | .atomXor sp o f => some (sp, o, f, .xor)
  | .atomXchg sp o f => some (sp, o, f, .xchg)
  | .atomCas sp o f => some (sp, o, f, .cas)
  | .atomFadd sp o f => some (sp, o, f, .fadd)
  | .atomMaxidx sp o f => some (sp, o, f, .maxidx)
  | _ => none

/-- The bytes of an element of a format-M type (R88). -/
def memBytes (dt : BitVec 3) : Nat :=
  match dt.toNat with
  | 0 | 1 => 1
  | 2 | 3 => 2
  | 4 => 4
  | 5 => 8
  | _ => 16

/-- The lanes that a memory instruction of a space resolves, with its address computation: the active lanes, or one
uniform access. -/
def State.lanesFor (s : State) (k : Ctx) (f : MWord) (space : MemSpace) (kind : Acc) (card : Bool) : List LaneRes :=
  let m := k.active f.pk (modNP f.mod)
  if space = .uniform then
    s.resolve k space kind { priv := false, card := card } (memBytes f.dt) [0] fun lane => k.laneAddr f false (memBytes f.dt) lane
  else
    s.resolve k space kind { priv := true, card := card } (memBytes f.dt) (lanesOf m) fun lane =>
      k.laneAddr f (space == .global) (memBytes f.dt) lane
/-- The registers that its address reads. -/
def Ctx.memUses (k : Ctx) (f : MWord) (space : MemSpace) : List RegUse :=
  if space = .uniform then k.addrUses f false 0 else k.addrUses f (space == .global) (k.active f.pk (modNP f.mod))
/-- The registers that a store's data come from. -/
def Ctx.dataUses (k : Ctx) (f : MWord) (space : MemSpace) : List RegUse :=
  if space = .uniform then k.use f.d 0 1 0 else k.use f.d 0 (widRegs f.dt) (k.active f.pk (modNP f.mod))
/-- The data of a store's lane. -/
def Ctx.storeData (k : Ctx) (f : MWord) (space : MemSpace) (lane : Nat) : Nat :=
  if space = .uniform then k.litS f.lit f.d else k.vgroup f.d.toNat (widRegs f.dt) lane

/-- A long-latency result as a load or atomic sends it: the lanes of m of the names of a group, from a value a lane. -/
def Pending.CarriesGroup (p : Pending) (ns : List Nat) (m : Word32) (v : Nat → Nat) : Prop :=
  p.sca = none ∧ p.flags = 0 ∧ p.poison = none ∧ p.vec.map (·.1) = ns ∧
  ∀ j e, p.vec[j]? = some e → e.2.1 = m ∧
    ∀ lane, lane < 32 → m.getLsbD lane = true → (laneAt e.2.2 lane).toNat = v lane / 2 ^ (32 * j) % 2 ^ 32
/-- A long-latency result of one scalar. -/
def Pending.CarriesScalar (p : Pending) (n : Nat) (v : Word64) : Prop :=
  p = { vec := [], sca := some (n, v), flags := 0, poison := none }
/-- From a to b the group's lanes of m are marked empty and nothing of its values changes. -/
def Wave.MarksGroup (a b : Wave) (ns : List Nat) (m : Word32) : Prop :=
  ∀ n ∈ ns, (b.vget n).val = (a.vget n).val ∧ (b.vget n).empty = (a.vget n).empty ||| m

/-- The new value of an element of w bits and whether it is written (R202, R203, R205). -/
def atomRule (kind : AtomKind) (sg : Bool) {w : Nat} (old x c : BitVec w) : BitVec w × Bool :=
  match kind with
  | .add => (old + x, true)
  | .min => (if (if sg then x.slt old else x.ult old) then x else old, true)
  | .max => (if (if sg then old.slt x else old.ult x) then x else old, true)
  | .and => (old &&& x, true)
  | .or => (old ||| x, true)
  | .xor => (old ^^^ x, true)
  | .xchg => (x, true)
  | .cas => (x, old == c)
  | .fadd => (BitVec.ofNat w (fp32Add old.toNat x.toNat), true)
  | .maxidx => (if old.ult x then x else old, true)

/-- Atomics of one instruction on plain memory, in the order given: for each lane the physical address, B and C; the
memory after them and the old value of each lane (R202). -/
def atomMem (kind : AtomKind) (sg : Bool) (n : Nat) : List Host.Cell → List (Nat × Nat × Nat × Nat) →
    List Host.Cell × List (Nat × Nat)
  | m, [] => (m, [])
  | m, (lane, pa, x, c) :: rest =>
    let old := ofBytes (Memory.read m pa n)
    let r := atomRule kind sg (BitVec.ofNat (8 * n) old) (BitVec.ofNat (8 * n) x) (BitVec.ofNat (8 * n) c)
    let t := atomMem kind sg n (if r.2 then Memory.write m pa (bytesOf n r.1.toNat) else m) rest
    (t.1, (lane, old) :: t.2)

/-! ## Engine commands (R226 to R249) -/

/-- The command is accepted and nothing of it has happened. -/
structure Cmd.Unstarted (c : Cmd) : Prop where
  st    : c.st = .queued
  begun : c.begun = false
  ran   : c.ran = false
  block : c.blocked = false
  prog  : c.prog = 0 ∧ c.count = 0 ∧ c.step = 0 ∧ c.code = 0
  todo  : c.todo = [] ∧ c.rows = [] ∧ c.out = []

/-- Destination dimension i reads source dimension `permOf d i` (R239); a descriptor without a permutation is the
identity. -/
def permOf (d i : Nat) : Nat := if field d 544 36 = 0 then i else field d (544 + 4 * i) 4
/-- ORG of source dimension e (R239). -/
def orgOf (d e : Nat) : Int := sgn 32 (field d (256 + 32 * e) 32)

/-- The source coordinates that a copy of word i with descriptor d gives destination coordinates cs; `row` is the index
that `ce.gatherrows` reads for the last of them (R239, R240). -/
def CopySource (i : Instr) (d : Nat) (cs : List Nat) (row : Nat) (src : List Int) : Prop :=
  src.length = cs.length ∧
  match i with
  | .ceCopy _ => ∀ n, n < cs.length → src.getD (permOf d n) 0 = orgOf d (permOf d n) + (cs.getD n 0 : Int)
  | _ => (∀ n, n + 1 < cs.length → src.getD n 0 = (cs.getD n 0 : Int)) ∧
      src.getLast? = some (if row = 2 ^ 32 - 1 then (-1 : Int) else (row : Int))

/-- Every coordinate lies in the extents. -/
def InExtents (src : List Int) (ext : List Nat) : Prop :=
  ∀ n, n < ext.length → 0 ≤ src.getD n 0 ∧ src.getD n 0 < (ext.getD n 0 : Int)

/-- The event that a record's start is taken by, and the operations it takes (R243, R248). -/
def recordForm : Instr → Option (Nat × (Cmd → Prop))
  | .commandStart k => some (k, fun _ => True)
  | .mm k => some (k, fun c => c.op = 1)
  | .mmz k => some (k, fun c => c.op = 2)
  | .cvacc k => some (k, fun c => c.op = 3)
  | .ewiseConvert k => some (k, fun c => c.op = 4 ∧ recFunc c.desc.toNat = 0)
  | .ewiseBias k => some (k, fun c => c.op = 4 ∧ recFunc c.desc.toNat = 1)
  | .ewiseRelu k => some (k, fun c => c.op = 4 ∧ recFunc c.desc.toNat = 2)
  | .ewiseScale k => some (k, fun c => c.op = 4 ∧ recFunc c.desc.toNat = 3)
  | .rsum k => some (k, fun c => c.op = 5)
  | .rckpt k => some (k, fun c => c.op = 6)
  | .rwait k => some (k, fun c => c.op = 7)
  | _ => none

/-- An accumulator element after BIAS, RELU or SCALE (R248): `int` says that the accumulator is i32. -/
def ewiseRule (func : Nat) (int : Bool) (sa beta c : Nat) : Nat :=
  if int then
    let x := (BitVec.ofNat 32 c).toInt
    let r := if func = 1 then min (max (x + (BitVec.ofNat 32 beta).toInt) (-2 ^ 31)) (2 ^ 31 - 1) else max x 0
    (BitVec.ofInt 32 r).toNat
  else
    let v := fun (q : Nat) => fmtFp32.decode (q % 2 ^ 32)
    if func = 1 then (rounded fmtFp32 0 [v c, v beta] (numAdd (v c) (v beta) 0)).1
    else if func = 2 then (if (v c).isNaN then 0x7FC00000 else if numLt (.fin false 0 0) (v c) then c else 0)
    else (rounded fmtFp32 0 [v c, v sa] (numMul (v c) (v sa))).1

/-- From s to t command j alone changes among the commands, and becomes c. -/
structure State.CmdBecomes (s t : State) (j : Nat) (c : Cmd) : Prop where
  one    : t.cmds[j]? = some c
  others : ∀ n, n ≠ j → t.cmds[n]? = s.cmds[n]?

/-- The clusters keep everything but scratch bytes, the layout cache and what tile transfers and records keep. -/
structure State.ClusterData (s t : State) : Prop where
  each : ∀ (n : Nat) (y : Cluster), s.clusters[n]? = some y → ∃ z : Cluster, t.clusters[n]? = some z ∧
    z = { y with scratch := z.scratch, lcache := z.lcache, locks := z.locks, lockReqs := z.lockReqs, acm := z.acm,
                 rowprog := z.rowprog }
  size : t.clusters.length = s.clusters.length

/-- The scratch bytes of a cluster. -/
def State.scratchByte (s : State) (cl a : Nat) : Byte := Memory.get (s.clusters.getD cl (Cluster.reset cl)).scratch a
/-- The accumulator elements of a cluster. -/
def State.acmAt (s : State) (cl i : Nat) : Nat := (s.clusters.getD cl (Cluster.reset cl)).acmGet i

/-! ## The Timetable (R358 to R384) -/

/-- No deadline test is due (R381). -/
structure State.Punctual (s : State) : Prop where
  running : ∀ i ∈ s.insts, i.missed = true ∨ s.now < i.deadline
  waiting : ∀ e ∈ s.jobs, ∀ d ∈ e.2.deferred, d.missed = true ∨ s.now < d.deadline

/-- Job j has a READY instance of a card, released at a time with the entries lo to hi - 1 (R372). -/
def State.Released (s : State) (j : Nat) (card : BitVec 1024) (rel lo hi : Nat) : Prop :=
  ∃ i, s.inst? j = some i ∧ i.job = j ∧ i.st = .ready ∧ i.card = card ∧ i.release = rel ∧
    i.deadline = rel + cardDeadline card ∧ i.lo = lo ∧ i.hi = hi

/-- The header of queue q reads as r, and TAIL - HEAD is within CAP (R359). -/
def State.QueueReads (s : State) (q : Nat) (r : RingHdr) : Prop :=
  ∃ p, s.queuePart q = some p ∧ s.ring p (s.qtab.getD q QEntry.reset).hdr.toNat = some r ∧
    r.tail ≤ (s.qtab.getD q QEntry.reset).head + r.cap

/-- At this device time nothing of the Timetable is due but a release of job j (R374). -/
structure State.QuietBut (s : State) (j : Nat) : Prop where
  up    : s.ttDown = false
  later : ∀ t ∈ s.deadlines ++ s.insts.filterMap s.boundAt ++ s.insts.filterMap s.watchAt ++ s.parts.filterMap Part.killAt,
    s.now < t
  jobs  : ∀ e ∈ s.jobs, e.1 ≠ j → s.eventDue e = false ∧ ∀ t, e.2.releaseAt = some t → s.now < t
  keys  : (s.jobs.map (·.1)).Nodup

/-- TIME goes on by 1 ns, and the deadline tests are the first of the new instant (R374, R394). -/
def State.nextInstant (s : State) : State :=
  let t := ({ s with clock := { s.clock with time := s.now + 1 } } : State).rollAll
  if t.deadlines.any fun d => decide (d ≤ s.now + 1) then t.settle else t

/-- Every wave of the gangs for which P holds has ended, and none of them is placed (R445). -/
def State.GangsEnd (s u : State) (P : Nat → Nat → Prop) : Prop :=
  (∀ (w : Nat) (v : Wave), s.waves[w]? = some v → P v.launch v.gang →
    (u.waves[w]?).map (fun b => b.status) = some WaveStatus.retired) ∧
  ∀ (l : Nat) (x : Launch) (g : Nat) (y : Gang), u.launches[l]? = some x → x.gangs[g]? = some y → P l g → y.placed = false

/-- A gang is placed. -/
def State.placedGang (s : State) (l g : Nat) : Prop :=
  ∃ (x : Launch) (y : Gang), s.launches[l]? = some x ∧ x.gangs[g]? = some y ∧ y.placed = true

/-! ## The opcode map -/

/-- The MIN values listed under a MAJ (R90, R91). -/
def minCells (maj : Nat) : List Nat :=
  match maj with
  | 0x01 => List.range 0x0F
  | 0x02 => List.range 0x0E
  | 0x03 => List.range 0x0C
  | 0x04 => List.range 3
  | 0x05 => List.range 7
  | 0x06 => List.range 3
  | 0x07 => List.range 9
  | 0x08 => List.range 0x0F
  | 0x09 => List.range 6
  | 0x0A => List.range 5
  | 0x0B => List.range 9
  | 0x0C => List.range 1
  | 0x10 | 0x11 | 0x12 => List.range 4
  | 0x13 => List.range 5
  | 0x14 => List.range 6
  | 0x15 | 0x16 | 0x17 => (List.range 4).flatMap fun order => (List.range 10).map (16 * order + ·)
  | 0x18 => List.range 10
  | 0x20 => List.range 4
  | 0x21 | 0x22 | 0x24 => List.range 3
  | 0x23 => List.range 2
  | _ => []

/-! ## Agents outside the clusters -/

/-- A read-modify-write of an application core (R431). -/
def amoRule (op : AmoOp) {w : Nat} (old x : BitVec w) : BitVec w :=
  match op with
  | .swap => x
  | .add => old + x
  | .xor => old ^^^ x
  | .and => old &&& x
  | .or => old ||| x
  | .min => if x.slt old then x else old
  | .max => if old.slt x then x else old
  | .minu => if x.ult old then x else old
  | .maxu => if old.ult x then x else old

/-- The tokens of a line that holders and messages of the current generation carry. -/
def State.lineTokens (s : State) (line : Nat) : Nat :=
  ((s.tokens.filter fun t => t.line == line).map (·.n)).sum + s.tokensInFlight line

end Sys2Proof.Machine
end

