-- ==== Sys2Proof/Certificates/Slice0/Obligations.lean ====
section
/-!
DEFINITION. The statements for the provers.  Each cites the rules of spec/ that it formalises; where one rests on a
choice of the model, its docstring says so and names the log entry.
-/

open Sys2Proof Sys2Proof.Machine

/-! ## Encoding -/

/-- R78, R80, R83, R85, R90: words written out from the encodings decode to their instructions: `vadd.i32 V2, LANE,
1`; `vadd.i32 V4, V2, 123456789`; `vadd.i32 V3, V2, 100000`; `bra +3`; `join 2`; `vcmp.eq.n32 K1, V1, 0`;
`vfma.fp32.rn V6, V1, V2, V3`; `ld.g.b32 V4, [S2, V1, 16]`; `atom.add.g.ar.i32.gg V6, V2, V3`; `mx.post.fs2.t1
S10, [S4]`; the all-zero and the all-ones word are illegal. -/
def Obligations.DecodeWords : Prop :=
  decode 0x0800001749827F80 none = .ok (.add ⟨0, false, none, 0, 2, 0xE9, 0, 0xC1, 0, 0xFF, 0, 0⟩) ∧
  decode 0x0800802011FC7F80 (some 0x00000000075BCD15) =
    .ok (.add ⟨0, false, some 123456789, 0, 4, 2, 0, 254, 0, 0xFF, 0, 0⟩) ∧
  decode 0x1C000018100186A0 none = .ok (.addImm ⟨0, false, 0, 3, 2, 0, 100000⟩) ∧
  decode 0x040187FFF9FE7F80 (some 3) = .ok (.bra ⟨0, true, 0, 0xFF, 0xFF, 0, 0xFF, 0, 0xFF, 0, 0, 0, 0, 3⟩) ∧
  decode 0x043187FFF9FE7F80 (some 0x0000000200000000) =
    .ok (.join ⟨0, true, 0, 0xFF, 0xFF, 0, 0xFF, 0, 0xFF, 0, 0, 0, 2, 0⟩) ∧
  decode 0x1002000809807F80 none = .ok (.cmp ⟨1, false, none, 0, 1, 1, 0, 0xC0, 0, 0xFF, 0, 0⟩) ∧
  decode 0x2030003008040180 none = .ok (.fma ⟨0, false, none, 0, 6, 1, 0, 2, 0, 3, 0, 0⟩) ∧
  decode 0x4008002410020080 none = .ok (.ldG ⟨4, false, none, 0, 4, 0x82, 0, 1, 0, 4, 0⟩) ∧
  decode 0x5700003010067F82 none = .ok (.atomAdd .global .ar ⟨0, false, none, 0, 6, 2, 0, 3, 0, 0xFF, 0, 2⟩) ∧
  decode 0x8405045421FE7F81 none = .ok (.mxPost ⟨2, true, none, 0, 0x8A, 0x84, 0, 0xFF, 0, 0xFF, 0, 1⟩) ∧
  (∀ e, decode 0 e = .error .illegalOpcode) ∧ ∀ e, decode (BitVec.allOnes 64) e = .error .illegalOpcode

/-- R78, R80, R83, R90, R91: encoding and decoding agree: every well-formed instruction with words decodes from them,
with every operand, and has an extension word exactly when its L bit is 1; and whatever words decode to an
instruction are that instruction's words. -/
def Obligations.DecodeEncode : Prop :=
  (∀ (i : Instr) (w : Word64) (e : Option Word64), encode i = some (w, e) → i.wf = true →
    decode w e = .ok i ∧ wordL w = e.isSome) ∧
  ∀ (i : Instr) (w : Word64) (e : Option Word64), wordL w = e.isSome → decode w e = .ok i →
    encode i = some (w, e) ∧ i.wf = true

/-- R90, R91: a word traps with ILLEGAL_OPCODE exactly when its MAJ is not listed or its MIN is not listed under it,
whatever its other fields hold. -/
def Obligations.UnassignedOpcodes : Prop :=
  ∀ (w : Word64) (e : Option Word64),
    decode w e = .error .illegalOpcode ↔ (minCells (w.toNat / 2 ^ 58)).contains (w.toNat / 2 ^ 52 % 64) = false

/-! ## Steps, reset and the canonical memory -/

/-- R36, R78, R121, R280, R281, R467: when a fragment that is ready and owes neither a trap nor a recess gets its
issue opportunity, is held neither by a fragment of its issue slot that it passed over nor by a yield or a
serialised workgroup, waits for no uncorrectable result, and the words at its PC decode to an instruction, the
step is `exec` of that instruction; nothing else has changed but the agenda, the model's counters, the age of the
fragment and what the fragments of its core remember of yields and of the fragments that passed them. An event
that comes next is `exec` of that event. (After a failed boot only the Proctor runs.) That an agenda names the
next turn is the model's choice (log entry 2). -/
def Obligations.StepRunsDecoded : Prop :=
  (∀ (s : State) (w slot : Nat) (rest : List Turn) (k : Ctx) (x : Word64) (e : Option Word64) (i : Instr), slot < 2 →
    s.proctor.halted = false → s.agenda = .issue w slot :: rest → s.ctxOf w slot = some k → k.wv.status = .resident →
    k.fr.held = false → (k.wv.hmode = true ∨ k.wv.pendTrap = none) → k.wv.deferred = [] → k.wv.recess = false →
    (k.fr.st = .ready ∨ k.fr.st = .opwait) → s.serialHolds k = false → s.turnHeld k = false →
    (∀ p ∈ k.wv.pend, p.poison = none) → s.fetchWord k.part k.wv.core k.fr.pc.toNat = .ok x →
    (if wordL x then ∃ y, e = some y ∧ s.fetchWord k.part k.wv.core ((k.fr.pc.toNat + 8) % 2 ^ 64) = .ok y else e = none) →
    decode x e = .ok i →
    ∃ t b g, step s = exec i t ∧
      t = { s with agenda := rest, freeCtr := s.freeCtr + 1, cur := some (w, slot), faulty := false, upset := false,
                   issues := s.issues + 1, waves := t.waves } ∧
      t.waves[w]? = some b ∧ b = { k.wv with frag0 := b.frag0, frag1 := b.frag1 } ∧ b.frag slot = some g ∧
      g = { k.fr with age := s.issues + 1, yielded := false, passed := g.passed } ∧
      t.ctx? = some { k with wv := b, fr := g } ∧
      ∀ j v, s.waves[j]? = some v → ∃ c, t.waves[j]? = some c ∧ c = { v with frag0 := c.frag0, frag1 := c.frag1 } ∧
        (v.core ≠ k.wv.core → c = v) ∧
        ∀ sl, sl < 2 → (j, sl) ≠ (w, slot) → (v.frag sl = none → c.frag sl = none) ∧
          ∀ f, v.frag sl = some f → ∃ y, c.frag sl = some y ∧ y = { f with yielded := y.yielded, passed := y.passed } ∧
            (y.yielded = true → f.yielded = true) ∧ ∀ q ∈ y.passed, q ∈ f.passed) ∧
  ∀ (s : State) (i : Instr) (rest : List Turn), s.agenda = .event i :: rest → encode i = none →
    (s.proctor.halted = false ∨ (Turn.event i).ofProctor = true) →
    step s = exec i { s with agenda := rest, freeCtr := s.freeCtr + 1, cur := none, faulty := false, upset := false }

/-- R296, R358, R388, R390, R394, R396, R405, R466: after reset TIME is 0 and STEPTH 1,000,000; every queue is
disabled with its header, template and DONE 0; no partition exists or is fenced and its WAYS, PTROOT and QMASK are
0; every cluster is in pool 3 with its banks in CACHE mode; every stream port's registers are 0; and the Proctor's
window reads 0. Memory is in its canonical form after reset. That the memory lists nothing, and so reads 0, is the
model's choice (log entry 1). -/
def Obligations.ResetState : Prop :=
  (let s := State.reset
  s.now = 0 ∧ s.clock.locked = false ∧ s.clock.stepen = false ∧ s.clock.rate = 0 ∧ s.clock.stepth = 1000000 ∧
  s.clock.laststep = 0 ∧
  (∀ q, q < 64 → ∃ x, s.qtab[q]? = some x ∧ x.hdr = 0 ∧ x.kind = false ∧ x.en = false ∧ x.template = 0 ∧ x.done = 0) ∧
  (∀ p, p < 64 → ∃ x, s.parts[p]? = some x ∧ x.en = false ∧ x.fenced = false ∧ x.ways = 0 ∧ x.ptroot = 0 ∧ x.qmask = 0) ∧
  (∀ n, n < 64 → s.pool[n]? = some 3 ∧
    ∃ c : Cluster, s.clusters[n]? = some c ∧ c.modes = List.replicate (if n % 8 = 2 ∨ n % 8 = 5 then 16 else 32) .cache) ∧
  (∀ n, n < 12 → ∃ x, s.streams[n]? = some x ∧ x.en = false ∧ x.nslot = 0 ∧ x.slotb = 0 ∧ x.sbase = 0 ∧ x.dbase = 0 ∧
    x.cons = 0 ∧ x.prod = 0 ∧ x.drops = 0) ∧
  s.proctor.stage = 0 ∧ s.proctor.result = 0 ∧ s.proctor.slot = false ∧ s.proctor.domain = 0 ∧ s.proctor.resets = [] ∧
  s.proctor.tolm = 0 ∧ s.proctor.tolg = 0 ∧ s.proctor.tols = 0 ∧ s.proctor.hbpair = 0 ∧ s.proctor.hben = 0 ∧
  s.proctor.nonce = 0 ∧ s.proctor.qaddr = 0 ∧ s.proctor.qbusy = false) ∧
  (Memory.wf State.reset.mem = true ∧ ∀ c ∈ State.reset.clusters, Memory.wf c.scratch = true)

/-- R322: memory keeps its canonical form: in every state whose memory lists its bytes in rising order of address,
none twice and none zero, so does the memory after any step; so equal memories are equal data, and every byte has
one value. -/
def Obligations.StepKeepsMemoryCanonical : Prop :=
  ∀ s t : State, Memory.wf s.mem = true → step s = .next t → Memory.wf t.mem = true

/-! ## Integer, logic and mask instructions -/

/-- R128: `add`, `sub`, `mul`, `mulh`, `mad`, `div`, `rem`, `min`, `max`, `abs`, `neg`, `adds` and `subs` complete
with the elements of the table, in every vector and uniform form, and change nothing else. -/
def Obligations.IntegerArithmetic : Prop := ElementWise arithRule

/-- R129: `sad` adds the exact absolute differences of all elements of an operand to C, wrapping at the operand's
width; a packed type reads C as n32. -/
def Obligations.SumOfAbsoluteDifferences : Prop :=
  ∀ (f : RWord) (s : State) (k : Ctx), (Instr.sad f).wf = true → s.ctx? = some k →
    let i := Instr.sad f
    let w := intWidth f.dt
    let dist := fun (x y : BitVec w) => if intSigned f.dt then (x.toInt - y.toInt).natAbs else ((x.toNat : Int) - y.toNat).natAbs
    (f.u = false →
      let m := k.active f.pk (modNP f.mod)
      let g := intBits f.dt / 32
      let ns := k.vnames f.d g
      k.Clear s (k.vecUses f g) (k.dst f.d g m) →
      k.Completes i s (k.vecUses f g) ns [] [] fun a b =>
        (∀ lane, lane < 32 → m.getLsbD lane = true →
          (k.withWave b).vgroup f.d.toNat g lane =
            (((List.range (intElems f.dt)).map fun e =>
                dist (k.elem s.now f.lit f.dt f.a lane e) (k.elem s.now f.lit f.dt f.b lane e)).sum +
              k.intSrc s.now f.lit (if w < 32 then 1 else f.dt) f.c lane) % 2 ^ intBits f.dt) ∧
        a.KeepsLanes b ns m ∧ b.pend = a.pend ∧ b.fpflags = a.fpflags) ∧
    (f.u = true →
      k.Clear s (k.uniUses f) (k.dst f.d 1 0) →
      k.Completes i s (k.uniUses f) [] [k.sname (f.d.toNat - 128)] [] fun a b =>
        b.sregs.lookup (k.sname (f.d.toNat - 128)) =
          some { val := scalarOut f.dt (BitVec.ofNat w
                   (dist (k.scal s.now f.lit f.dt f.a) (k.scal s.now f.lit f.dt f.b) + k.scalSrc s.now f.lit w f.c)),
                 empty := false } ∧
        b.pend = a.pend ∧ b.fpflags = a.fpflags)

/-- R130, R131, R134: the logic and bit instructions and `mov` complete with the elements of the tables, in every
form, and change nothing else. R81, R135: a format-I instruction completes as its paired cell with the
sign-extended immediate for B, in every vector and uniform form, and changes nothing else. -/
def Obligations.LogicBitsAndImmediates : Prop :=
  (ElementWise logicRule) ∧
  (∀ (i : Instr) (f : IWord) (rule : (w : Nat) → BitVec w → BitVec w → BitVec w), immRule i = some (f, rule) →
    i.wf = true → ∀ (s : State) (k : Ctx), s.ctx? = some k →
    let w := intWidth f.dt
    let imm : BitVec w := BitVec.ofInt w f.imm.toInt
    (f.u = false →
      let m := k.active f.pk false
      let g := intBits f.dt / 32
      let us := k.use f.a f.actl g m
      let ns := k.vnames f.d g
      k.Clear s us (k.dst f.d g m) →
      k.Completes i s us ns [] [] fun a b =>
        (∀ lane, lane < 32 → m.getLsbD lane = true → ∀ e, e < intElems f.dt →
          k.elemOut b f.dt f.d lane e = rule w (k.elem s.now none f.dt f.a lane e) imm) ∧
        a.KeepsLanes b ns m ∧ b.pend = a.pend ∧ b.fpflags = a.fpflags) ∧
    (f.u = true →
      let us := k.use f.a f.actl 1 0
      k.Clear s us (k.dst f.d 1 0) →
      k.Completes i s us [] [k.sname (f.d.toNat - 128)] [] fun a b =>
        b.sregs.lookup (k.sname (f.d.toNat - 128)) =
          some { val := scalarOut f.dt (rule w (k.scal s.now none f.dt f.a) imm), empty := false } ∧
        b.pend = a.pend ∧ b.fpflags = a.fpflags))

/-- R133: the vector `sel` writes, in each active lane, A when the lane's bit of K(C) is 1 and B otherwise; the scalar
form writes A when C at the width of DT is not zero, and B otherwise. -/
def Obligations.Select : Prop :=
  ∀ (f : RWord) (s : State) (k : Ctx), (Instr.sel f).wf = true → s.ctx? = some k →
    (f.u = false →
      let m := k.active f.pk (modNP f.mod)
      let g := intBits f.dt / 32
      let us := k.use f.a f.actl g m ++ k.use f.b f.bctl g m
      let ns := k.vnames f.d g
      k.Clear s us (k.dst f.d g m) →
      k.Completes (.sel f) s us ns [] [] fun a b =>
        (∀ lane, lane < 32 → m.getLsbD lane = true →
          (k.withWave b).vgroup f.d.toNat g lane =
            k.intSrc s.now f.lit f.dt (if (k.kread f.c.toNat).getLsbD lane then f.a else f.b) lane % 2 ^ intBits f.dt) ∧
        a.KeepsLanes b ns m ∧ b.pend = a.pend ∧ b.fpflags = a.fpflags) ∧
    (f.u = true →
      k.Clear s (k.uniUses f) (k.dst f.d 1 0) →
      k.Completes (.sel f) s (k.uniUses f) [] [k.sname (f.d.toNat - 128)] [] fun a b =>
        b.sregs.lookup (k.sname (f.d.toNat - 128)) =
          some { val := scalarOut f.dt (k.scal s.now f.lit f.dt (if k.scal s.now f.lit f.dt f.c = 0 then f.b else f.a)),
                 empty := false } ∧
        b.pend = a.pend ∧ b.fpflags = a.fpflags)

/-- R132: `cmp` writes the active lanes' bits of Kd, its scalar form every bit, both within the owned lanes of a split
wave (R27), and nothing else. R136: the mask instructions write Kd whole, within the owned lanes of a split wave
(R27), or their scalar destination, and nothing else. -/
def Obligations.CompareAndMasks : Prop :=
  (∀ (f : RWord) (s : State) (k : Ctx), (Instr.cmp f).wf = true → s.ctx? = some k →
    let sg := intSigned f.dt
    (f.u = false →
      let m := k.active f.pk (modNP f.mod)
      let us := k.use f.a f.actl (intBits f.dt / 32) m ++ k.use f.b f.bctl (intBits f.dt / 32) m
      k.Clear s us [] →
      k.Completes (.cmp f) s us [] [] [f.d.toNat] fun a b =>
        (∀ lane, lane < 32 → (b.maskAt f.d.toNat).getLsbD lane =
          if (m &&& k.ownLanes).getLsbD lane then
            cmpRule (mod4 f.mod) sg (k.elem s.now f.lit f.dt f.a lane 0) (k.elem s.now f.lit f.dt f.b lane 0)
          else (a.maskAt f.d.toNat).getLsbD lane) ∧
        b.pend = a.pend ∧ b.fpflags = a.fpflags) ∧
    (f.u = true →
      let us := k.use f.a f.actl 1 0 ++ k.use f.b f.bctl 1 0
      k.Clear s us [] →
      k.Completes (.cmp f) s us [] [] [f.d.toNat] fun a b =>
        a.PutsMask b f.d.toNat k.ownLanes
          (if cmpRule (mod4 f.mod) sg (k.scal s.now f.lit f.dt f.a) (k.scal s.now f.lit f.dt f.b) then BitVec.allOnes 32
           else 0) ∧
        b.pend = a.pend ∧ b.fpflags = a.fpflags)) ∧
  (∀ (i : Instr) (f : RWord) (s : State) (k : Ctx), i.wf = true → s.ctx? = some k →
    (∀ v, maskRule s.now i = some (f, v) →
      let us := k.use f.a f.actl 1 0
      (mod4 f.mod = 1 → k.Clear s us []) → (mod4 f.mod ≠ 1 → k.Clear s [] []) →
      k.Completes i s (if mod4 f.mod = 1 then us else []) [] [] [f.d.toNat] fun a b =>
        a.PutsMask b f.d.toNat k.ownLanes (v k) ∧ b.pend = a.pend ∧ b.fpflags = a.fpflags) ∧
    (∀ v, countRule i = some (f, v) → k.Clear s [] (k.dst f.d 1 0) → k.maskHeld f.a.toNat = true →
      k.Goes i s [] (fun x => { x with st := .opwait }) [] [] [] fun a b => b.pend = a.pend ∧ b.fpflags = a.fpflags) ∧
    (∀ v, countRule i = some (f, v) → k.Clear s [] (k.dst f.d 1 0) → k.maskHeld f.a.toNat = false →
      k.Completes i s [] [] [k.sname (f.d.toNat - 128)] [] fun a b =>
        b.sregs.lookup (k.sname (f.d.toNat - 128)) = some { val := v (k.kread f.a.toNat), empty := false } ∧
        b.pend = a.pend ∧ b.fpflags = a.fpflags))

/-! ## Special registers and bank modes -/

/-- R39, R137: `sget` completes with the value of the register, for every register but those of the handler outside
the handler; the vector form gives each active lane its own value. R137: what an accepted `sset` writes, register
by register: EXEC within the owned lanes, FPFLAGS one-to-clear, RNGKEY, FCAUSE, FPC and FLANES whole (FCAUSE but
for its reserved bits), and each active lane's RNGCTR; nothing else changes. R137: an `sset` of a register without
writable fields, and a read or write of a handler's register outside the handler, take the PROTECTION trap (R46)
as a whole: the state is that of `trapWhole` with cause 0x0A. Values at wave start that the manual does not state
do not enter (log entry 8). -/
def Obligations.SpecialRegisters : Prop :=
  (∀ (f : RWord) (s : State) (k : Ctx), (Instr.sget f).wf = true → s.ctx? = some k →
    (handlerOnly f.b.toNat = true → k.wv.hmode = true) →
    (f.u = false →
      let m := k.active f.pk (modNP f.mod)
      let g := if RWord.sregWide f.b then 2 else 1
      let ns := k.vnames f.d g
      k.Clear s [] (k.dst f.d g m) →
      k.Completes (.sget f) s [] ns [] [] fun a b =>
        (∀ lane, lane < 32 → m.getLsbD lane = true →
          (k.withWave b).vgroup f.d.toNat g lane = s.sregValue k f.b.toNat lane ns [] % 2 ^ (32 * g)) ∧
        a.KeepsLanes b ns m ∧ b.pend = a.pend ∧ b.fpflags = a.fpflags) ∧
    (f.u = true →
      k.Clear s [] (k.dst f.d 1 0) →
      k.Completes (.sget f) s [] [] [k.sname (f.d.toNat - 128)] [] fun a b =>
        b.sregs.lookup (k.sname (f.d.toNat - 128)) =
          some { val := BitVec.ofNat 64 (s.sregValue k f.b.toNat 0 [] [k.sname (f.d.toNat - 128)]), empty := false } ∧
        b.pend = a.pend ∧ b.fpflags = a.fpflags)) ∧
  (∀ (f : RWord) (s : State) (k : Ctx), (Instr.sset f).wf = true → s.ctx? = some k →
    let i := Instr.sset f
    let us := k.use f.a f.actl 1 0
    let v := k.scalSrc s.now f.lit 64 f.a
    let v32 : Word32 := BitVec.ofNat 32 v
    (f.u = true → f.b = 0x00 → k.Clear s us [] →
      k.Goes i s us (fun x => { x.after i.len with exec := v32 &&& x.owned }) [] [] [] fun a b =>
        b.pend = a.pend ∧ b.fpflags = a.fpflags) ∧
    (f.u = true → f.b = 0x05 → k.Clear s us [] →
      k.Completes i s us [] [] [] fun a b => b.pend = a.pend ∧ b.fpflags = a.fpflags &&& ~~~v32) ∧
    (f.u = true → f.b = 0x20 → k.Clear s us [] →
      ∃ t b, exec i s = .next t ∧ s.WaveStep t k.w b ∧ b.rngkey = BitVec.ofNat 64 v ∧
        (k.wv.freeUses us).Past { b with rngkey := k.wv.rngkey } k.slot (fun x => x.after i.len) [] [] [] ∧
        b.pend = k.wv.pend ∧ b.fpflags = k.wv.fpflags) ∧
    (f.u = true → f.b ∈ [(0x30 : BitVec 8), 0x31, 0x32] → k.wv.hmode = true → k.Clear s us [] →
      ∃ t b, exec i s = .next t ∧ s.WaveStep t k.w b ∧
        b.fregs = (if f.b = 0x30 then { k.wv.fregs with fcause := v32 &&& 0x00FF3FFF }
                   else if f.b = 0x31 then { k.wv.fregs with fpc := BitVec.ofNat 64 v }
                   else { k.wv.fregs with flanes := v32 }) ∧
        (k.wv.freeUses us).Past { b with fregs := k.wv.fregs } k.slot (fun x => x.after i.len) [] [] [] ∧
        b.pend = k.wv.pend ∧ b.fpflags = k.wv.fpflags) ∧
    (f.u = false →
      let m := k.active f.pk (modNP f.mod)
      let us2 := k.use f.a f.actl 2 m
      k.Clear s us2 [] →
      ∃ t b, exec i s = .next t ∧ s.WaveStep t k.w b ∧
        (∀ lane : Fin 32, b.rngctr[lane] =
          if m.getLsbD lane.val then BitVec.ofNat 64 (k.vgroup f.a.toNat 2 lane.val) else k.wv.rngctr[lane]) ∧
        (k.wv.freeUses us2).Past { b with rngctr := k.wv.rngctr } k.slot (fun x => x.after i.len) [] [] [] ∧
        b.pend = k.wv.pend ∧ b.fpflags = k.wv.fpflags)) ∧
  (∀ (f : RWord) (s : State) (k : Ctx), s.ctx? = some k →
    ((Instr.sset f).wf = true →
      (f.b.toNat ∉ [0x00, 0x05, 0x20, 0x21, 0x30, 0x31, 0x32] ∨ (handlerOnly f.b.toNat = true ∧ k.wv.hmode = false)) →
      exec (.sset f) s = .next (s.trapWhole k 0x0A (.sset f))) ∧
    ((Instr.sget f).wf = true → f.b.toNat ∈ [0x30, 0x31, 0x32, 0x33, 0x34, 0x35] → k.wv.hmode = false →
      exec (.sget f) s = .next (s.trapWhole k 0x0A (.sget f))))

/-- R138, R139: `bk.mode` on a bank of the wave's cluster that no lock holds and no other launch uses changes the
bank's mode, writes the former one to D, and marks the change (R300); a change to the mode the bank has changes no
bank; the FIFO instructions that wait at a bank which leaves FIFO trap (R191). R138, R139, R312: without the grant
of bank control `bk.mode` traps PROTECTION; past the other checks of R36 a bank outside the cluster traps
OUT_OF_RANGE and one of another launch PROTECTION; a locked bank, or an earlier `bk.mode` that waits for the bank,
makes the fragment wait. R139: a `bk.mode` that waited retires when its bank is no longer locked and no earlier
one waits for it: the bank takes the mode and the fragment goes past the instruction. -/
def Obligations.BankModes : Prop :=
  (∀ (f : RWord) (s : State) (k : Ctx) (c : Cluster), (Instr.bkMode f).wf = true → s.ctx? = some k →
    s.clusters[k.cl]? = some c → k.l.bankctl = true →
    let i := Instr.bkMode f
    let n := k.scalSrc s.now f.lit 64 f.a
    let mode := bankModeOf (f.mod.extractLsb' 0 2).toNat
    let old := c.modes.getD n .cache
    let us := k.use f.a f.actl 1 0
    k.Clear s us (k.dst f.d 1 0) → n < bankCount k.cl → s.bankOfOther k.cl n k.wv.launch = false →
    s.bankQueued k n = false → (old ≠ mode → ∀ x ∈ c.locks, x.bank ≠ n) →
    ∃ s1 t b, exec i s = .next t ∧ s.WaveStep s1 k.w b ∧
      (k.wv.freeUses us).Past b k.slot (fun x => x.after i.len) [] (useNames (k.dst f.d 1 0) false) [] ∧
      (OpField.isS f.d = true →
        b.sregs.lookup (k.sname (f.d.toNat - 128)) = some { val := BitVec.ofNat 64 old.code, empty := false }) ∧
      (old = mode → t = s1) ∧
      (old ≠ mode →
        let u := (s1.setBank k.cl n mode).setCluster k.cl fun x =>
          { x with changed := if x.changed.contains (n, k.wv.launch) then x.changed else (n, k.wv.launch) :: x.changed }
        t = if old = .fifo then u.trapWaiters k.cl n else u)) ∧
  (∀ (f : RWord) (s : State) (k : Ctx) (c : Cluster), (Instr.bkMode f).wf = true → s.ctx? = some k →
    s.clusters[k.cl]? = some c →
    let i := Instr.bkMode f
    let n := k.scalSrc s.now f.lit 64 f.a
    let mode := (f.mod.extractLsb' 0 2).toNat
    (k.l.bankctl = false → exec i s = .next (s.trapWhole k 0x0A i)) ∧
    (k.l.bankctl = true → k.Clear s (k.use f.a f.actl 1 0) (k.dst f.d 1 0) →
      (bankCount k.cl ≤ n → exec i s = .next (s.trapWhole k 0x08 i)) ∧
      (n < bankCount k.cl → s.bankOfOther k.cl n k.wv.launch = true → exec i s = .next (s.trapWhole k 0x0A i)) ∧
      (n < bankCount k.cl → s.bankOfOther k.cl n k.wv.launch = false →
        (s.bankQueued k n = true ∨ (c.modes.getD n .cache ≠ bankModeOf mode ∧ ∃ x ∈ c.locks, x.bank = n)) →
        ∃ t b, exec i s = .next t ∧ s.WaveStep t k.w b ∧
          k.wv.Past b k.slot (fun x => { x with st := .unit i (.bankMode n mode) }) [] [] [] ∧
          b.pend = k.wv.pend ∧ b.fpflags = k.wv.fpflags))) ∧
  (∀ (w slot : Nat) (f : RWord) (s : State) (k : Ctx) (c : Cluster) (n mode : Nat), (Instr.bkMode f).wf = true →
    s.waiter w slot = some k → k.fr.st = .unit (.bkMode f) (.bankMode n mode) → s.clusters[k.cl]? = some c →
    let us := k.use f.a f.actl 1 0
    k.Resumes s us (k.dst f.d 1 0) → s.bankQueued k n = false → n < bankCount k.cl → s.bankOfOther k.cl n k.wv.launch = false →
    c.modes.getD n .cache ≠ bankModeOf mode → mode ≤ 2 → (∀ x ∈ c.locks, x.bank ≠ n) →
    ∃ s1 b, s.WaveStep s1 w b ∧
      (let u := (s1.setBank k.cl n (bankModeOf mode)).setCluster k.cl fun x =>
        { x with changed := if x.changed.contains (n, k.wv.launch) then x.changed else (n, k.wv.launch) :: x.changed }
       exec (.bankModeRetire w slot) s = .next (if c.modes.getD n .cache = .fifo then u.trapWaiters k.cl n else u)) ∧
      (k.wv.freeUses us).Past b slot (fun x => x.after (Instr.bkMode f).len) [] (useNames (k.dst f.d 1 0) false) [])

/-! ## Control flow -/

/-- R112: `bra` goes to PC + 8 · sext(OFF32); `brc` does so when its condition holds and else goes past itself;
nothing else changes. R120: `call` writes PC + 16 to its link register and branches; `ret` and `jmpi` go to A, or
trap MISALIGNED when A is no multiple of 8. -/
def Obligations.BranchesAndCalls : Prop :=
  (∀ (f : BWord) (s : State) (k : Ctx), s.ctx? = some k →
    let there := k.fr.pc + BitVec.ofInt 64 (8 * f.off32.toInt)
    ((Instr.bra f).wf = true →
      k.Goes (.bra f) s [] (fun x => x.goto there) [] [] [] fun a b => b.pend = a.pend ∧ b.fpflags = a.fpflags) ∧
    ((Instr.brc f).wf = true →
      let us := if mod4 f.mod ≤ 3 then k.use f.a f.actl 1 0 else []
      let x : Word64 := BitVec.ofNat 64 (k.scalSrc s.now none 64 f.a)
      let m := k.kread f.a.toNat
      let holds : Prop := match mod4 f.mod with
        | 0 => x = 0
        | 1 => x ≠ 0
        | 2 => x.toInt < 0
        | 3 => 0 ≤ x.toInt
        | 4 => m &&& k.fr.exec ≠ 0
        | 5 => m &&& k.fr.exec = k.fr.exec
        | _ => m &&& k.fr.exec = 0
      k.Clear s us [] →
      (holds → k.Goes (.brc f) s us (fun x => x.goto there) [] [] [] fun a b => b.pend = a.pend ∧ b.fpflags = a.fpflags) ∧
      (¬ holds → k.Goes (.brc f) s us (fun x => x.goto (k.fr.pc + 16)) [] [] [] fun a b =>
        b.pend = a.pend ∧ b.fpflags = a.fpflags))) ∧
  (∀ (s : State) (k : Ctx), s.ctx? = some k →
    (∀ f : BWord, (Instr.call f).wf = true → k.Clear s [] (k.dst f.d 1 0) →
      k.Goes (.call f) s [] (fun x => x.goto (k.fr.pc + BitVec.ofInt 64 (8 * f.off32.toInt))) []
        [k.sname (f.d.toNat - 128)] [] fun a b =>
        b.sregs.lookup (k.sname (f.d.toNat - 128)) = some { val := k.fr.pc + 16, empty := false } ∧
        b.pend = a.pend ∧ b.fpflags = a.fpflags) ∧
    (∀ (f : RWord) (i : Instr), i = .ret f ∨ i = .jmpi f → i.wf = true →
      let us := k.use f.a f.actl 1 0
      let a := k.scalSrc s.now f.lit 64 f.a
      k.Clear s us [] →
      (a % 8 = 0 → k.Goes i s us (fun x => x.goto (BitVec.ofNat 64 a)) [] [] [] fun a b =>
        b.pend = a.pend ∧ b.fpflags = a.fpflags) ∧
      (a % 8 ≠ 0 → k.TrapReady → k.TrapsWhole i s 0x07 i.baseWord 0 0 0)))

/-- R114, R115: `brv` with both arms: the lanes of an unsplit wave outside the handler split into two fragments;
otherwise the arm with the higher lowest lane is pushed (here onto an on-chip stack with room). With one arm empty
it only branches. R115, R287, R288: a push onto a full stack moves the oldest on-chip entry to the fragment's
spill area, 32 bytes of private memory at the address of R287, and a push past the reserved entries traps
STACK_SPILL_FAIL with that address. Corners of the stack area follow log entry 25. -/
def Obligations.DivergenceAndStack : Prop :=
  (∀ (f : BWord) (s : State) (k : Ctx), (Instr.brv f).wf = true → s.ctx? = some k →
    let i := Instr.brv f
    let cond := if f.mod.getLsbD 0 then ~~~(k.kread f.a.toNat) else k.kread f.a.toNat
    let t := k.fr.exec &&& cond
    let n := k.fr.exec &&& ~~~cond
    let there := k.fr.pc + BitVec.ofInt 64 (8 * f.off32.toInt)
    let past := k.fr.pc + 16
    let tf := lowestLane t < lowestLane n
    let first := if tf then t else n
    let other := if tf then n else t
    let pc1 := if tf then there else past
    let pc2 := if tf then past else there
    (t = 0 → k.Goes i s [] (fun x => x.goto past) [] [] [] fun a b => b.pend = a.pend ∧ b.fpflags = a.fpflags) ∧
    (t ≠ 0 → n = 0 → k.Goes i s [] (fun x => x.goto there) [] [] [] fun a b => b.pend = a.pend ∧ b.fpflags = a.fpflags) ∧
    (t ≠ 0 → n ≠ 0 → k.wv.isSplit = false → k.wv.hmode = false →
      ∃ z b, exec i s = .next z ∧ s.WaveStep z k.w b ∧
        b.split = some { tok := f.tok, rmask := k.fr.exec, parent := k.slot } ∧
        b.frag k.slot = some { k.fr.goto pc1 with exec := first, owned := k.fr.owned &&& ~~~other } ∧
        b.frag (1 - k.slot) = some { pc := pc2, exec := other, owned := other, st := .ready, held := false, stack := [],
                                     spilled := 0, skip := 0, restart := false, age := 0, yielded := false,
                                     passed := [] } ∧
        b = { k.wv with split := b.split, frag0 := b.frag0, frag1 := b.frag1 }) ∧
    (t ≠ 0 → n ≠ 0 → (k.wv.isSplit = true ∨ k.wv.hmode = true) → k.fr.stack.length < 16 →
      k.Goes i s [] (fun x => { x.goto pc1 with exec := first, stack :=
          { tok := f.tok, running := false, dpc := pc2, dmask := other, rmask := k.fr.exec, rpc := none } :: x.stack })
        [] [] [] fun a b => b.pend = a.pend ∧ b.fpflags = a.fpflags)) ∧
  (∀ (f : BWord) (s : State) (k : Ctx) (old : StackEntry) (sp : Span), (Instr.brv f).wf = true → s.ctx? = some k →
    let i := Instr.brv f
    let cond := if f.mod.getLsbD 0 then ~~~(k.kread f.a.toNat) else k.kread f.a.toNat
    k.fr.exec &&& cond ≠ 0 → k.fr.exec &&& ~~~cond ≠ 0 → (k.wv.isSplit = true ∨ k.wv.hmode = true) →
    k.fr.stack.length = 16 → k.fr.stack.getLast? = some old →
    let a := (k.l.priv + k.wv.priv * k.l.privWave + 32 * k.l.privSize + 32 * (k.slot * k.l.stkres + k.fr.spilled)) % 2 ^ 64
    (k.fr.spilled < k.l.stkres → s.stackSpan k .write a = .ok sp →
      ∃ e x, exec i s = .next ((s.spanWrite k sp (bytesOf 32 (packEntry old))).setWave k.w fun v =>
          { (k.wv.setFrag k.slot (some x)) with layer := v.layer }) ∧
        x.stack = e :: k.fr.stack.dropLast ∧ x.spilled = k.fr.spilled + 1 ∧ e.running = false ∧ e.tok = f.tok ∧
        e.rmask = k.fr.exec ∧ x.owned = k.fr.owned ∧ x.exec ||| e.dmask = k.fr.exec ∧ x.exec &&& e.dmask = 0) ∧
    (k.l.stkres ≤ k.fr.spilled → k.TrapReady → k.TrapsWhole i s 0x15 i.baseWord a 1 0))

/-- R116: `join` looks at the top entry only: with its token and PENDING it starts the deferred arm, RUNNING it
reconverges, and without a matching entry or split it has no effect but going past itself. R117: at the `join` of
the split token the first fragment waits, while the other one is neither in a roll call (R163) nor at a barrier;
the second merges: parent slot, EXEC the split's RMASK within the lanes of both, the PC of the parent-slot
fragment's resume address, and the other fragment's stack on top of its own. -/
def Obligations.JoinsAndMerges : Prop :=
  (∀ (f : BWord) (s : State) (k : Ctx), (Instr.join f).wf = true → s.ctx? = some k →
    let i := Instr.join f
    let past := k.fr.pc + 16
    (∀ e rest, k.fr.stack = e :: rest → e.tok = f.tok → e.running = false →
      k.Goes i s [] (fun x => { x.goto e.dpc with exec := e.dmask &&& x.owned,
                                                  stack := { e with running := true, rpc := some past } :: rest }) [] [] []
        fun a b => b.pend = a.pend ∧ b.fpflags = a.fpflags) ∧
    (∀ e rest, k.fr.stack = e :: rest → e.tok = f.tok → e.running = true → (rest ≠ [] ∨ k.fr.spilled = 0) →
      k.Goes i s [] (fun x => { x.goto past with exec := e.rmask &&& x.owned, stack := rest }) [] [] []
        fun a b => b.pend = a.pend ∧ b.fpflags = a.fpflags) ∧
    (∀ e, k.fr.stack = [e] → e.tok = f.tok → e.running = true → ∀ n, k.fr.spilled = n + 1 →
      ∀ e2, s.stackRead k k.slot n = .ok e2 →
      k.Goes i s [] (fun x => { x.goto past with exec := e.rmask &&& x.owned, stack := [e2], spilled := n }) [] [] []
        fun a b => b.pend = a.pend ∧ b.fpflags = a.fpflags) ∧
    ((∀ e rest, k.fr.stack = e :: rest → e.tok ≠ f.tok) → (∀ sp, k.wv.split = some sp → sp.tok ≠ f.tok) →
      k.Goes i s [] (fun x => x.goto past) [] [] [] fun a b => b.pend = a.pend ∧ b.fpflags = a.fpflags)) ∧
  (∀ (f : BWord) (s : State) (k : Ctx) (sp : SplitRec) (g : Frag), (Instr.join f).wf = true → s.ctx? = some k →
    k.slot ≤ 1 → sp.parent ≤ 1 → k.wv.split = some sp → sp.tok = f.tok → (∀ e rest, k.fr.stack = e :: rest → e.tok ≠ f.tok) →
    k.wv.frag (1 - k.slot) = some g →
    let past := k.fr.pc + 16
    ((∀ r, g.st ≠ .splitwait r) → (∀ i m d, g.st ≠ .rollcall i m d) → (∀ x, g.st ≠ .barwait x) →
      k.Goes (.join f) s [] (fun x => { x with st := .splitwait (some past), skip := 0, restart := false }) [] [] []
        fun a b => b.pend = a.pend ∧ b.fpflags = a.fpflags) ∧
    (∀ r, g.st = .splitwait r → k.fr.spilled = 0 → g.spilled = 0 → k.fr.stack.length + g.stack.length ≤ 16 →
      ∃ t b x, exec (.join f) s = .next t ∧ s.WaveStep t k.w b ∧ b.frag sp.parent = some x ∧
        b.frag (1 - sp.parent) = none ∧ b.split = none ∧ x.st = .ready ∧ x.owned = k.fr.owned ||| g.owned ∧
        x.exec = sp.rmask &&& (k.fr.owned ||| g.owned) ∧
        x.pc = (if k.slot = sp.parent then past else match r with | some p => p | none => past) ∧
        x.stack = (if k.slot = sp.parent then g.stack ++ k.fr.stack else k.fr.stack ++ g.stack) ∧ x.spilled = 0 ∧
        b = { k.wv with split := none, frag0 := b.frag0, frag1 := b.frag1, hslot := b.hslot }))

/-- R118, R119: outside the handler `exit` takes the active lanes out of EXEC and of the owned lanes and unwinds the
stack; lanes left over run on; an unsplit wave with no owned lane left retires; in a split wave the fragment waits
for the other, and the wave retires when both have ended with no lane; in the handler every lane exits and the
wave retires. (In a checked launch a wave retires unless a later wave in work-identifier order ended its epoch of
a pair at this very time, R328.) R124: `tsleep` past its target, or with a pending recess under DECLARED or ANY,
writes TIME to D and goes on; else the fragment sleeps, and TSLEEP_WAKE ends the sleep when TIME has reached the
target or a recess comes. R121, R122: `nop`, and a `ckpt` without a pending request or under another mode than
DECLARED, change the PC alone; `yield` beside it lets the core's other fragments go first. Every access is
performed when it issues (log entry 4). -/
def Obligations.ExitSleepAndNoEffect : Prop :=
  (∀ (f : RWord) (s : State) (k : Ctx), (Instr.exit f).wf = true → s.ctx? = some k →
    let i := Instr.exit f
    let act := k.active f.pk (modNP f.mod)
    let owned := k.fr.owned &&& ~~~act
    let u := unwindRule owned k.fr.stack (k.fr.exec &&& ~~~act) (k.fr.pc + 8) (k.fr.pc + 8)
    let mine := { k.fr.goto u.2.2 with exec := u.2.1, owned := owned, stack := u.1 }
    let wv := { (k.wv.setFrag k.slot (some mine)) with exited := k.wv.exited ||| act }
    let arrived := wv.setFrag k.slot (some { mine with st := .splitwait none })
    let punctual : Prop := k.l.checked = true → s.raceTie k.w = false
    (k.wv.hmode = false → (∀ g, k.wv.frag (1 - k.slot) = some g → ∀ j m d, g.st ≠ .rollcall j m d) → k.fr.spilled = 0 →
      ((u.2.1 ≠ 0 ∨ (k.wv.split = none ∧ owned ≠ 0)) → ∃ t, exec i s = .next t ∧ s.WaveStep t k.w wv) ∧
      (u.2.1 = 0 → k.wv.split = none → owned = 0 → punctual →
        ∃ t, s.WaveStep t k.w wv ∧ exec i s = .next (t.retireWave k.w)) ∧
      (u.2.1 = 0 → ∀ sp g, k.wv.split = some sp → sp.parent ≤ 1 → k.slot ≤ 1 → k.wv.frag (1 - k.slot) = some g →
        ((∀ r, g.st ≠ .splitwait r) → (∀ x, g.st ≠ .barwait x) → ∃ t, exec i s = .next t ∧ s.WaveStep t k.w arrived) ∧
        (g.st = .splitwait none → punctual →
          ∃ t, s.WaveStep t k.w arrived ∧ exec i s = .next (t.retireWave k.w)))) ∧
    (k.wv.hmode = true → punctual →
      ∃ t, s.WaveStep t k.w { k.wv with exited := k.wv.lanes } ∧ exec i s = .next (t.retireWave k.w))) ∧
  ((∀ (f : RWord) (s : State) (k : Ctx), (Instr.tsleep f).wf = true → s.ctx? = some k →
    let i := Instr.tsleep f
    let us := k.use f.a f.actl 1 0
    let a := k.scalSrc s.now f.lit 64 f.a
    let target := if f.mod.getLsbD 0 then s.now + a else a
    let up : Prop := k.wv.recess = true ∧ (recessAny k.l = true ∨ recessDeclared k.l = true)
    k.Clear s us (k.dst f.d 1 0) →
    ((target ≤ s.now ∨ up) → k.Completes i s us [] (useNames (k.dst f.d 1 0) false) [] fun a b =>
      (OpField.isS f.d = true → b.sregs.lookup (k.sname (f.d.toNat - 128)) =
        some { val := BitVec.ofNat 64 s.now, empty := false }) ∧ b.pend = a.pend ∧ b.fpflags = a.fpflags) ∧
    (s.now < target → ¬ up → k.Goes i s us (fun x => { x with st := .sleep i target }) [] [] [] fun a b =>
      b.pend = a.pend ∧ b.fpflags = a.fpflags)) ∧
  (∀ (w slot : Nat) (f : RWord) (s : State) (k : Ctx) (target : Nat), s.waiter w slot = some k →
    k.fr.st = .sleep (.tsleep f) target → k.Resumes s [] (k.dst f.d 1 0) →
    (target ≤ s.now ∨ (k.wv.recess = true ∧ (recessAny k.l = true ∨ recessDeclared k.l = true))) →
    k.Goes (.tsleepWake w slot) s [] (fun x => x.after (Instr.tsleep f).len) [] (useNames (k.dst f.d 1 0) false) []
      fun a b =>
      (OpField.isS f.d = true → b.sregs.lookup (k.sname (f.d.toNat - 128)) =
        some { val := BitVec.ofNat 64 s.now, empty := false }) ∧ b.pend = a.pend ∧ b.fpflags = a.fpflags)) ∧
  (∀ (f : RWord) (s : State) (k : Ctx), s.ctx? = some k →
    (∀ i : Instr, i.wf = true → (i = .nop f ∨ (i = .ckpt f ∧ (k.wv.recess = false ∨ recessDeclared k.l = false))) →
      k.Completes i s [] [] [] [] fun a b => b.pend = a.pend ∧ b.fpflags = a.fpflags) ∧
    ((Instr.yield f).wf = true →
      k.Goes (.yield f) s [] (fun x => { x.after (Instr.yield f).len with yielded := true }) [] [] [] fun a b =>
        b.pend = a.pend ∧ b.fpflags = a.fpflags))

/-! ## Exceptions and recess -/

/-- R125: `trap` takes the USER_TRAP or BREAKPOINT trap: the handler starts at HENTRY with the fault registers of R44
(FPC the `trap`, FLANES = EXEC, FIRST its lowest lane, MULTI 0), whatever EXEC is, and nothing else changes;
FINST[3:0] holds the code; in the handler the trap contains the gang (R47). -/
def Obligations.TrapInstruction : Prop :=
  ∀ (f : RWord) (s : State) (k : Ctx), (Instr.trap f).wf = true → s.ctx? = some k →
    let cause := if mod4 f.mod = 15 then 0x17 else 0x18
    (k.TrapReady → k.TrapsWhole (.trap f) s cause (Instr.trap f).baseWord 0 0 0) ∧
    ((Instr.trap f).baseWord.extractLsb' 0 4).toNat = mod4 f.mod ∧
    (k.wv.hmode = true → k.wv.hslot = k.slot → ∃ card, k.WholeCard s cause 0 0 0 card ∧
      exec (.trap f) s = .next (s.containGang k.wv.launch k.wv.gang cause k.cl [card]))

/-- R46, R47, R284, R445: where a trap goes. With DATA_UNCORRECTABLE or PIPE_MISMATCH, from the handler, or without a
handler, the gang is contained; a trap of the fragment that the handler holds is kept pending; any other enters
the handler with the fault registers that the trap names. R126, R284: `rfe` in the handler returns to FPC,
releases the other fragment, and leaves the lanes of K(A) to be skipped by the next instruction; a trap kept
pending for the other fragment is then taken, before that fragment issues; an FPC that is no multiple of 8 traps
MISALIGNED; outside the handler `rfe` traps PROTECTION. R36, R79, R90: a word in an unassigned cell traps
ILLEGAL_OPCODE with the word in FINST; a word that cannot be fetched traps with its cause, the report card naming
the word's address with ACC 3. -/
def Obligations.HandlerEntryAndReturn : Prop :=
  (∀ (s : State) (w slot : Nat) (k : Ctx) (t : Trap), s.ctxOf w slot = some k →
    ((t.cause = 0x0E ∨ t.cause = 0x0F ∨ k.l.hentry = 0 ∨ (k.wv.hmode = true ∧ k.wv.hslot = slot)) →
      s.takeTrap w slot t = s.containGang k.wv.launch k.wv.gang t.cause k.cl t.cards) ∧
    (t.cause ≠ 0x0E → t.cause ≠ 0x0F → k.l.hentry ≠ 0 → k.wv.hmode = true → k.wv.hslot ≠ slot →
      s.WaveStep (s.takeTrap w slot t) w
        { (k.wv.setFrag slot (some { k.fr with st := .ready, held := true })) with pendTrap := some (slot, t.regs s.now) }) ∧
    (t.cause ≠ 0x0E → t.cause ≠ 0x0F → k.l.hentry ≠ 0 → k.wv.hmode = false →
      ∃ b, s.EntersHandler (s.takeTrap w slot t) k b (t.regs s.now))) ∧
  (∀ (f : RWord) (s : State) (k : Ctx), (Instr.rfe f).wf = true → s.ctx? = some k →
    let back := { k.fr with pc := k.wv.fregs.fpc, st := .ready, restart := true,
                            skip := if f.a = 255 then 0 else k.kread f.a.toNat }
    (k.wv.hmode = true → k.wv.fregs.fpc.toNat % 8 = 0 → k.wv.pendTrap = none →
      ∃ t b, exec (.rfe f) s = .next t ∧ s.WaveStep t k.w b ∧ b.hmode = false ∧ b.frag k.slot = some back ∧
        b.frag (1 - k.slot) = (k.wv.frag (1 - k.slot)).map (fun g => { g with held := false }) ∧
        b = { k.wv with hmode := false, frag0 := b.frag0, frag1 := b.frag1 }) ∧
    (k.wv.hmode = true → k.wv.fregs.fpc.toNat % 8 = 0 → k.slot ≤ 1 → ∀ r g, k.wv.pendTrap = some (1 - k.slot, r) →
      k.wv.frag (1 - k.slot) = some g → g.st = .ready →
      ∃ t b, exec (.rfe f) s = .next t ∧ s.WaveStep t k.w b ∧ b.hmode = true ∧ b.hslot = 1 - k.slot ∧ b.fregs = r ∧
        b.pendTrap = none ∧ b.frag k.slot = some { back with held := true } ∧
        b.frag (1 - k.slot) = some { g with pc := BitVec.ofNat 64 k.l.hentry, held := false, skip := 0, restart := false } ∧
        b = { k.wv with hmode := true, hslot := b.hslot, fregs := r, pendTrap := none, frag0 := b.frag0, frag1 := b.frag1 }) ∧
    (k.wv.hmode = true → k.wv.fregs.fpc.toNat % 8 ≠ 0 → exec (.rfe f) s = .next (s.trapWhole k 0x07 (.rfe f))) ∧
    (k.TrapReady → k.TrapsWhole (.rfe f) s 0x0A (Instr.rfe f).baseWord 0 0 0)) ∧
  (∀ (s : State) (k : Ctx), s.ctx? = some k → k.TrapReady →
    (∀ word, k.TrapsWhole (.illegalOpcode word) s 0x01 word 0 0 0) ∧
    (∀ (fw : FetchWord) (cause : BitVec 8) (malf : Bool), cause.toNat ∈ [0x07, 0x08, 0x09, 0x0A] →
      ∃ t b card, exec (.instructionFetchFault fw cause malf) s = .next t ∧
        CardNames card cause.toNat (lowestLane k.trapLanes) 3 k.ioff (k.wv.wid (lowestLane k.trapLanes) % 2 ^ 64)
          (match fw with | .base => k.fr.pc.toNat | .ext _ => (k.fr.pc + 8).toNat) 0 (s.now % 2 ^ 64) ∧
        s.EntersHandler t k b (k.wholeRegs s cause.toNat (match fw with | .base => 0 | .ext w => w) card)))

/-- R122, R278, R376, R379: a pending recess request traps RECESS at a `ckpt` under DECLARED, with FPC at the `ckpt`,
and takes a fragment from a boundary or a wait; it waits while a record of the job runs in the cluster, and the
handler is entered once the accumulators are saved, while a save that fails ends the recess; a sleeper wakes
instead. (Launches that are not checked.) R123, R378, R379: `recessok` in the handler of a RECESS trap, with every
result arrived, saves the wave and makes it non-resident: its own names are unmapped, its handler copies and every
other field of R123 kept, its grants closed; then its region is saved and what is due happens (`settle`). A save
that fails ends the recess; outside such a handler it traps PROTECTION; results on their way make it wait.
(Launches that are not checked; no dirty line of the private area.) -/
def Obligations.RecessTrapAndOk : Prop :=
  ((∀ (f : RWord) (s : State) (k : Ctx), (Instr.ckpt f).wf = true → s.ctx? = some k → k.TrapReady → k.l.checked = false →
    k.wv.recess = true → recessDeclared k.l = true →
    let i := Instr.ckpt f
    (s.recordsRun k.l.job k.cl true = true → exec i s = .next s) ∧
    (s.recordsRun k.l.job k.cl true = false →
      (s.saveAcms k.l.job k.cl = none → exec i s = .next (State.settle (s.saveFails k.l.job))) ∧
      ∀ s1, s.saveAcms k.l.job k.cl = some s1 → k.TrapsFrom k i s s1 0x10 i.baseWord 0)) ∧
  (∀ (w slot : Nat) (s : State) (k : Ctx), s.ctxOf w slot = some k → k.wv.status = .resident → k.TrapReady →
    k.l.checked = false → k.recessDue = true →
    let i := Instr.recessTrap w slot
    ((∀ j x, k.fr.st ≠ .sleep j x) →
      (s.recordsRun k.l.job k.cl (recessDeclared k.l) = true → exec i s = .next s) ∧
      (s.recordsRun k.l.job k.cl (recessDeclared k.l) = false →
        (s.saveAcms k.l.job k.cl = none → exec i s = .next (State.settle (s.saveFails k.l.job))) ∧
        ∀ s1, s.saveAcms k.l.job k.cl = some s1 → k.unskip.TrapsFrom k i s s1 0x10 (s1.instAt k) 0)) ∧
    (∀ f x, k.fr.st = .sleep (.tsleep f) x → k.Fits [] (k.dst f.d 1 0) →
      k.Goes i s [] (fun y => y.after (Instr.tsleep f).len) [] (useNames (k.dst f.d 1 0) false) []
        fun _ b => OpField.isS f.d = true →
          b.sregs.lookup (k.sname (f.d.toNat - 128)) = some { val := BitVec.ofNat 64 s.now, empty := false }))) ∧
  (∀ (f : RWord) (s : State) (k : Ctx), (Instr.recessok f).wf = true → s.ctx? = some k → k.l.checked = false →
    let i := Instr.recessok f
    (k.TrapReady → k.TrapsWhole i s 0x0A i.baseWord 0 0 0) ∧
    (k.wv.hmode = true → field k.wv.fregs.fcause.toNat 0 8 = 0x10 →
      (k.wv.pend ≠ [] → k.Goes i s [] (fun x => { x with st := .unit i .recessok }) [] [] [] fun a b =>
        b.pend = a.pend ∧ b.fpflags = a.fpflags) ∧
      (k.wv.pend = [] → s.saveWave k.wv = none → exec i s = .next (State.settle (s.saveFails k.l.job))) ∧
      (k.wv.pend = [] → ∀ s0, s.saveWave k.wv = some s0 → s0.dirty = [] →
        (∀ sl g, k.wv.frag sl = some g → ∀ j, g.st ≠ .unit j .recessok) →
        ∃ t : State, exec i s = .next ((t.saveRegion k.wv.launch k.wv.gang k.wv.wg).settle) ∧
          t = { s0 with waves := t.waves, grants := s.grants.filter fun g => g.wave != k.w } ∧
          (∀ j, j ≠ k.w → t.waves[j]? = s.waves[j]?) ∧
          t.waves[k.w]? = some { k.wv with
            status := .recessed, epochOpen := false
            vregs := k.wv.vregs.filter fun e => decide (128 ≤ e.1)
            sregs := k.wv.sregs.filter fun e => decide (64 ≤ e.1) })))

/-- R230, R444: a deferred engine trap of a wave is taken at a boundary: it leaves the wave's list, and its report
card carries the command's SEQ. (Launches that are not checked; a deferred RECESS acts as R122.) R32, R35, R141,
R183: an arriving result fills its lanes and its scalar with its values, sets its flags, leaves the list of
results on their way, and lets fragments that waited for an operand issue again; uncorrectable data contain the
gang. (No `recessok` waits for the wave's last result.) When a result arrives is the agenda's choice (log entry
6); a retired wave's trap follows log entry 23. -/
def Obligations.DeferredTrapsAndResults : Prop :=
  (∀ (w slot : Nat) (s : State) (k : Ctx) (e : BitVec 8 × Nat), s.ctxOf w slot = some k → k.wv.status = .resident →
    k.TrapReady → k.l.checked = false → k.wv.nextDeferred = some e → e.1 ≠ 0x10 → e.1 ≠ 0x0E → e.1 ≠ 0x0F →
    let wv := { k.wv with deferred := k.wv.deferred.erase e }
    ∃ s1, s.WaveStep s1 w wv ∧ k.unskip.TrapsFrom { k with wv := wv } (.deferredTrap w slot) s s1 e.1.toNat (s.instAt k) e.2) ∧
  (∀ (w j : Nat) (s : State) (wv : Wave) (p : Pending), s.waves[w]? = some wv → wv.pend[j]? = some p →
    (∀ x r, p.poison = some (x, r) →
      exec (.resultArrival w j) s = .next (s.containGang wv.launch wv.gang 0x0E wv.cluster r.cards)) ∧
    (p.poison = none → (p.vec.map (·.1)).Nodup → (∀ sl g, wv.frag sl = some g → ∀ i, g.st ≠ .unit i .recessok) →
      ∃ t b, exec (.resultArrival w j) s = .next t ∧ s.WaveStep t w b ∧
        (∀ e ∈ p.vec, (wv.vregs.lookup e.1).isSome →
          (b.vget e.1).empty = (wv.vget e.1).empty &&& ~~~e.2.1 ∧
          ∀ lane, lane < 32 → laneAt (b.vget e.1).val lane =
            if e.2.1.getLsbD lane then laneAt e.2.2 lane else laneAt (wv.vget e.1).val lane) ∧
        (∀ n, (n ∉ p.vec.map (·.1) ∨ wv.vregs.lookup n = none) → b.vregs.lookup n = wv.vregs.lookup n) ∧
        (∀ n v, p.sca = some (n, v) → (wv.sregs.lookup n).isSome →
          b.sregs.lookup n = some { val := v, empty := false }) ∧
        (∀ n, (∀ v, p.sca = some (n, v) → wv.sregs.lookup n = none) → b.sregs.lookup n = wv.sregs.lookup n) ∧
        (∀ sl, b.frag sl = (wv.frag sl).map fun (g : Frag) => if g.st = .opwait then { g with st := .ready } else g) ∧
        b = { wv with vregs := b.vregs, sregs := b.sregs, fpflags := wv.fpflags ||| p.flags,
                      pend := wv.pend.eraseIdx j, frag0 := b.frag0, frag1 := b.frag1 }))

/-! ## Floating point and conversions -/

/-- R53, R54, R140 to R146, R149: the rounding instructions of MAJ 0x08 complete, in vector and scalar form, with
every element the rule's value under FTZ, and set the flags of all active elements; nothing else changes. R142,
R144, R148: `fabs`, `fneg` and `fclass` work on the bits of each element, without FTZ and without a flag. R27,
R132, R147: `fcmp` writes the active lanes' bits of Kd, −0 equal to +0 and a NaN unordered with everything, and
reports invalid only for a signaling NaN. -/
def Obligations.FloatingPoint : Prop :=
  (∀ (i : Instr) (f : RWord) (rule : FltRule), fltRule i = some (f, rule) → i.wf = true →
    ∀ (s : State) (k : Ctx), s.ctx? = some k →
    let fm := fltFmt f.dt
    let rd := mod3 f.mod
    (f.u = false →
      let m := k.active f.pk (modNP f.mod)
      let n := k.vname f.d.toNat
      let res := fun lane o => flushed k.l.ftz fm rule rd (k.fltElem s.now f.lit f.dt f.a lane o)
        (k.fltElem s.now f.lit f.dt f.b lane o) (k.fltElem s.now f.lit f.dt f.c lane o)
      k.Clear s (k.fltUses f) (k.dst f.d 1 m) →
      k.Completes i s (k.fltUses f) [n] [] [] fun a b =>
        (∀ lane, lane < 32 → m.getLsbD lane = true →
          LaneHolds f.dt (laneAt (b.vget n).val lane) (laneAt (a.vget n).val lane) fun o => (res lane o).1) ∧
        a.KeepsLanes b [n] m ∧ b.pend = a.pend ∧
        b.fpflags = a.fpflags ||| allFlags m (fltOffs f.dt) fun lane o => (res lane o).2) ∧
    (f.u = true →
      let src := fun (x : BitVec 8) => k.fltSrc s.now f.lit f.dt x 0
      let r := flushed k.l.ftz fm rule rd (src f.a) (src f.b) (src f.c)
      k.Clear s (k.uniUses f) (k.dst f.d 1 0) →
      k.Completes i s (k.uniUses f) [] [k.sname (f.d.toNat - 128)] [] fun a b =>
        b.sregs.lookup (k.sname (f.d.toNat - 128)) = some { val := BitVec.ofNat 64 r.1, empty := false } ∧
        b.pend = a.pend ∧ b.fpflags = a.fpflags ||| BitVec.ofNat 32 r.2)) ∧
  (∀ (i : Instr) (f : RWord) (rule : Fmt → Nat → Nat), bitRule i = some (f, rule) → i.wf = true →
    ∀ (s : State) (k : Ctx), s.ctx? = some k →
    let m := k.active f.pk (modNP f.mod)
    let n := k.vname f.d.toNat
    k.Clear s (k.fltUses f) (k.dst f.d 1 m) →
    k.Completes i s (k.fltUses f) [n] [] [] fun a b =>
      (∀ lane, lane < 32 → m.getLsbD lane = true →
        LaneHolds f.dt (laneAt (b.vget n).val lane) (laneAt (a.vget n).val lane) fun o =>
          rule (fltFmt f.dt) (k.fltElem s.now f.lit f.dt f.a lane o)) ∧
      a.KeepsLanes b [n] m ∧ b.pend = a.pend ∧ b.fpflags = a.fpflags) ∧
  (∀ (f : RWord) (s : State) (k : Ctx), (Instr.fcmp f).wf = true → s.ctx? = some k →
    let m := k.active f.pk (modNP f.mod)
    let us := k.use f.a f.actl 1 m ++ k.use f.b f.bctl 1 m
    let fm := fltFmt f.dt
    let o := (fltOffs f.dt).headD 0
    let val := fun (x : BitVec 8) (lane : Nat) => fm.decode (ftzIn k.l.ftz fm (k.fltElem s.now f.lit f.dt x lane o))
    let cond := fun (x y : Machine.Num) =>
      let un := x.isNaN || y.isNaN
      match mod4 f.mod with
      | 0 => !un && !numLt x y && !numLt y x
      | 1 => un || numLt x y || numLt y x
      | 2 => !un && numLt x y
      | 3 => !un && !numLt y x
      | 4 => !un && numLt y x
      | 5 => !un && !numLt x y
      | 6 => !un
      | _ => un
    k.Clear s us [] →
    k.Completes (.fcmp f) s us [] [] [f.d.toNat] fun a b =>
      (∀ lane, lane < 32 → (b.maskAt f.d.toNat).getLsbD lane =
        if (m &&& k.ownLanes).getLsbD lane then cond (val f.a lane) (val f.b lane)
        else (a.maskAt f.d.toNat).getLsbD lane) ∧
      b.pend = a.pend ∧
      b.fpflags = a.fpflags ||| allFlags m [o] fun lane _ =>
        if (val f.a lane).isSNaN || (val f.b lane).isSNaN then flNV else 0)

/-- R32, R141, R150 to R152: a special function goes on with its destination lanes empty and one result on its way,
which carries every element's value and the flags; under an active mask of zero nothing is on its way. (The
precision of the transcendental functions is the model's, log entry 10.) R39, R172 to R174: `vrand` writes the
four Philox-4x32-10 words of each active lane, or their fp32 values in [0, 1), and advances the counter of those
lanes. The precision that carries the exact value is log entry 10. -/
def Obligations.SpecialFunctionsAndRandom : Prop :=
  (∀ (i : Instr) (f : RWord) (rule : FltRule), specialRule i = some (f, rule) → i.wf = true →
    ∀ (s : State) (k : Ctx), s.ctx? = some k →
    let fm := fltFmt f.dt
    let m := k.active f.pk (modNP f.mod)
    let n := k.vname f.d.toNat
    let res := fun lane o => flushed k.l.ftz fm rule (mod3 f.mod) (k.fltElem s.now f.lit f.dt f.a lane o)
      (k.fltElem s.now f.lit f.dt f.b lane o) (k.fltElem s.now f.lit f.dt f.c lane o)
    k.Clear s (k.fltUses f) (k.dst f.d 1 m) →
    (m = 0 → k.Completes i s (k.fltUses f) [] [] [] fun a b => b.pend = a.pend ∧ b.fpflags = a.fpflags) ∧
    (m ≠ 0 → k.Completes i s (k.fltUses f) [n] [] [] fun a b =>
      b.fpflags = a.fpflags ∧ (b.vget n).val = (a.vget n).val ∧ (b.vget n).empty = (a.vget n).empty ||| m ∧
      ∃ vals, b.pend = a.pend ++ [{ vec := [(n, m, vals)], sca := none, poison := none,
                                    flags := allFlags m (fltOffs f.dt) fun lane o => (res lane o).2 }] ∧
        ∀ lane, lane < 32 → m.getLsbD lane = true →
          LaneHolds f.dt (laneAt vals lane) (laneAt (a.vget n).val lane) fun o => (res lane o).1)) ∧
  (∀ (f : RWord) (s : State) (k : Ctx), (Instr.vrand f).wf = true → s.ctx? = some k →
    let m := k.active f.pk (modNP f.mod)
    let ns := k.vnames f.d 4
    let x := fun (lane : Nat) => philox k.wv.rngkey.toNat (k.wv.wid lane) (k.wv.rngctr.toList.getD lane 0).toNat
    let u01 := fun (y : Nat) => if mod4 f.mod = 1 then (roundF (.fin false (y / 256) (-24)) fmtFp32 0 1).1 else y
    k.Clear s [] (k.dst f.d 4 m) →
    ∃ t b, exec (.vrand f) s = .next t ∧ s.WaveStep t k.w b ∧
      (k.wv.freeUses []).Past { b with rngctr := k.wv.rngctr } k.slot (fun y => y.after (Instr.vrand f).len) ns [] [] ∧
      (∀ lane, lane < 32 → m.getLsbD lane = true →
        (k.withWave b).vgroup f.d.toNat 4 lane =
          u01 (x lane).1 + 2 ^ 32 * u01 (x lane).2.1 + 2 ^ 64 * u01 (x lane).2.2.1 + 2 ^ 96 * u01 (x lane).2.2.2) ∧
      (k.wv.freeUses []).KeepsLanes b ns m ∧
      (∀ lane : Fin 32, b.rngctr[lane] = if m.getLsbD lane.val then k.wv.rngctr[lane] + 1 else k.wv.rngctr[lane]) ∧
      b.pend = k.wv.pend ∧ b.fpflags = k.wv.fpflags)

/-- R153 to R155: `vcvt` converts each element of A to the destination type: SatI of the value for an integer, RoundF
for a float, with FTZ on floating sources and results, and sets the flags. R156 to R158: `vcvtf.to` writes code j
of a lane, `vcvtf.from` the fp32 value of code j, under the launch's format slot; an invalid slot traps
FORMAT_SLOT, a code index or scale that does not fit the slot RESERVED_FIELD. -/
def Obligations.ConversionsAndSlots : Prop :=
  (∀ (f : RWord) (s : State) (k : Ctx), (Instr.vcvt f).wf = true → s.ctx? = some k →
    let m := k.active f.pk (modNP f.mod)
    let src := cvtSource f.cvtSrc
    let us := k.use f.a f.actl (if src.1 then intBits src.2 / 32 else 1) m
    let raw := fun lane => if src.1 then k.intSrc s.now f.lit src.2 f.a lane else k.fltSrc s.now f.lit src.2 f.a lane
    let xs := fun lane => cvtValues k.l.ftz f.cvtSrc (raw lane)
    (f.cvtToInt = true →
      let g := intBits f.dt / 32
      let ns := k.vnames f.d g
      let res := fun lane e => match (xs lane)[e]? with
        | some x => withFlags (satI x (intWidth f.dt) (intSigned f.dt) (mod3 f.mod)) (if x.isSNaN then flNV else 0)
        | none => (0, 0)
      k.Clear s us (k.dst f.d g m) →
      k.Completes (.vcvt f) s us ns [] [] fun a b =>
        (∀ lane, lane < 32 → m.getLsbD lane = true → ∀ e, e < intElems f.dt →
          k.elemOut b f.dt f.d lane e = BitVec.ofNat _ (res lane e).1) ∧
        a.KeepsLanes b ns m ∧ b.pend = a.pend ∧
        b.fpflags = a.fpflags ||| allFlags m (List.range (intElems f.dt)) fun lane e => (res lane e).2) ∧
    (f.cvtToInt = false →
      let fm := fltFmt f.dt
      let n := k.vname f.d.toNat
      let res := fun lane o => match (xs lane)[(fltOffs f.dt).idxOf o]? with
        | some x => ftzOut k.l.ftz fm (withFlags (roundF x fm (mod3 f.mod) 1) (if x.isSNaN then flNV else 0))
        | none => (0, 0)
      k.Clear s us (k.dst f.d 1 m) →
      k.Completes (.vcvt f) s us [n] [] [] fun a b =>
        (∀ lane, lane < 32 → m.getLsbD lane = true →
          LaneHolds f.dt (laneAt (b.vget n).val lane) (laneAt (a.vget n).val lane) fun o => (res lane o).1) ∧
        a.KeepsLanes b [n] m ∧ b.pend = a.pend ∧
        b.fpflags = a.fpflags ||| allFlags m (fltOffs f.dt) fun lane o => (res lane o).2)) ∧
  (∀ (f : RWord) (s : State) (k : Ctx), s.ctx? = some k →
    let slot := k.l.slot f.dt.toNat
    let m := k.active f.pk (modNP f.mod)
    let n := k.vname f.d.toNat
    let us := k.use f.a f.actl 1 m ++ k.use f.b f.bctl 1 m
    let fw := fmtWidth (slotFmt slot)
    let j := f.c.toNat
    let misfit : Prop := perLane (slotFmt slot) ≤ j ∨ (f.b = 255 ↔ slotSmode slot ≠ 0)
    ((Instr.vcvtfTo f).wf = true →
      (slotInvalid slot = true → k.TrapReady → k.TrapsWhole (.vcvtfTo f) s 0x16 (Instr.vcvtfTo f).baseWord 0 0 0) ∧
      (slotInvalid slot = false → misfit → k.TrapReady →
        k.TrapsWhole (.vcvtfTo f) s 0x02 (Instr.vcvtfTo f).baseWord 0 0 0) ∧
      (slotInvalid slot = false → ¬ misfit → k.Clear s us (k.dst f.d 1 m) →
        let res := fun lane => convTo slot (k.fltSrc s.now f.lit 0 f.a lane) (k.vcvtfScale s.now slot f lane)
        k.Completes (.vcvtfTo f) s us [n] [] [] fun a b =>
          (∀ lane, lane < 32 → m.getLsbD lane = true →
            (laneAt (b.vget n).val lane).toNat / 2 ^ (fw * j) % 2 ^ fw = (res lane).1 % 2 ^ fw ∧
            ∀ x, x < 32 → (x < fw * j ∨ fw * j + fw ≤ x) → (laneAt (b.vget n).val lane).getLsbD x =
              (if fw = 6 ∧ 24 ≤ x then false else (laneAt (a.vget n).val lane).getLsbD x)) ∧
          a.KeepsLanes b [n] m ∧ b.pend = a.pend ∧
          b.fpflags = a.fpflags ||| allFlags m [0] fun lane _ => (res lane).2)) ∧
    ((Instr.vcvtfFrom f).wf = true →
      (slotInvalid slot = true → k.TrapReady → k.TrapsWhole (.vcvtfFrom f) s 0x16 (Instr.vcvtfFrom f).baseWord 0 0 0) ∧
      (slotInvalid slot = false → misfit → k.TrapReady →
        k.TrapsWhole (.vcvtfFrom f) s 0x02 (Instr.vcvtfFrom f).baseWord 0 0 0) ∧
      (slotInvalid slot = false → ¬ misfit → k.Clear s us (k.dst f.d 1 m) →
        let res := fun lane => convFrom slot (elemAt fw (k.intSrc s.now f.lit 1 f.a lane) j) (k.vcvtfScale s.now slot f lane)
        k.Completes (.vcvtfFrom f) s us [n] [] [] fun a b =>
          a.PutsLanes b n m (fun lane => BitVec.ofNat 32 (res lane).1) ∧ b.pend = a.pend ∧
          b.fpflags = a.fpflags ||| allFlags m [0] fun lane _ => (res lane).2)))

/-- R159, R160: `vdot4` adds four exact byte products to C, wrapping or saturating; `vdot2` rounds the exact sum of
two half products and an fp32 addend once. -/
def Obligations.DotProducts : Prop :=
  ∀ (f : RWord) (s : State) (k : Ctx), s.ctx? = some k →
    let m := k.active f.pk (modNP f.mod)
    let n := k.vname f.d.toNat
    let us := k.fltUses f
    k.Clear s us (k.dst f.d 1 m) →
    ((Instr.vdot4 f).wf = true →
      let sg := intSigned f.dt
      let el := fun (x : BitVec 8) lane e => (BitVec.ofNat 8 (elemAt 8 (k.intSrc s.now f.lit f.dt x lane) e) : BitVec 8)
      let v8 := fun (x : BitVec 8) => if sg then x.toInt else (x.toNat : Int)
      let c := fun lane => (BitVec.ofNat 32 (k.intSrc s.now f.lit (if sg then 0 else 1) f.c lane) : BitVec 32)
      let sum := fun lane => (if sg then (c lane).toInt else ((c lane).toNat : Int)) +
        v8 (el f.a lane 0) * v8 (el f.b lane 0) + v8 (el f.a lane 1) * v8 (el f.b lane 1) +
        v8 (el f.a lane 2) * v8 (el f.b lane 2) + v8 (el f.a lane 3) * v8 (el f.b lane 3)
      let lo : Int := if sg then -2 ^ 31 else 0
      let hi : Int := if sg then 2 ^ 31 - 1 else 2 ^ 32 - 1
      let sat := mod4 f.mod = 1
      k.Completes (.vdot4 f) s us [n] [] [] fun a b =>
        a.PutsLanes b n m (fun lane =>
          BitVec.ofInt 32 (if sat then (if sum lane < lo then lo else if hi < sum lane then hi else sum lane) else sum lane)) ∧
        b.pend = a.pend ∧
        b.fpflags = a.fpflags ||| allFlags m [0] fun lane _ => if sat ∧ (sum lane < lo ∨ hi < sum lane) then 32 else 0) ∧
    ((Instr.vdot2 f).wf = true →
      let fm := fltFmt f.dt
      let el := fun (x : BitVec 8) lane o => fm.decode (ftzIn k.l.ftz fm (k.fltElem s.now f.lit f.dt x lane o))
      let z := fun lane => fmtFp32.decode (ftzIn k.l.ftz fmtFp32 (k.fltSrc s.now f.lit 0 f.c lane))
      let res := fun lane => ftzOut k.l.ftz fmtFp32 (rounded fmtFp32 (mod3 f.mod)
        [el f.a lane 0, el f.b lane 0, el f.a lane 16, el f.b lane 16, z lane]
        (numDot2 (el f.a lane 0) (el f.b lane 0) (el f.a lane 16) (el f.b lane 16) (z lane) (mod3 f.mod)))
      k.Completes (.vdot2 f) s us [n] [] [] fun a b =>
        a.PutsLanes b n m (fun lane => BitVec.ofNat 32 (res lane).1) ∧ b.pend = a.pend ∧
        b.fpflags = a.fpflags ||| allFlags m [0] fun lane _ => (res lane).2)

/-! ## Cross-lane instructions -/

/-- R162, R164, R166 to R171: a cross-lane instruction whose member lanes are all the issuing fragment's completes at
issue, every member lane receiving its value of the rule and the other lanes keeping theirs; no flag is reported.
R142, R164, R168, R169: `xred` and `xscan` with a float operation combine the members in ascending lane order, one
rounding a step, each half of a packed type by itself, and set the flags of the whole computation once. R167:
`xvote` writes one result to the member bits of Kd; any, all or eq of the predicate bits of K(A). -/
def Obligations.CrossLane : Prop :=
  (∀ (i : Instr) (r : CrossRule) (s : State) (k : Ctx), crossRule i = some r → i.wf = true → s.ctx? = some k →
    let m := k.kread r.f.c.toNat
    let ns := k.vnames r.f.d r.g
    k.OwnsAll m → k.Clear s (r.uses k m) (k.dst r.f.d r.g m) →
    k.Completes i s (r.uses k m) ns [] [] fun a b =>
      (∀ lane, lane < 32 → m.getLsbD lane = true →
        (k.withWave b).vgroup r.f.d.toNat r.g lane = r.val s.now k m lane % 2 ^ (32 * r.g)) ∧
      a.KeepsLanes b ns m ∧ b.pend = a.pend ∧ b.fpflags = a.fpflags) ∧
  (∀ (f : RWord) (scan : Bool) (s : State) (k : Ctx),
    let i := if scan then Instr.xscan f else Instr.xred f
    i.wf = true → f.xopInt = false → s.ctx? = some k →
    let fm := fltFmt f.dt
    let m := k.kread f.c.toNat
    let n := k.vname f.d.toNat
    let us := k.use f.a f.actl 1 m
    let comb := redFloat f.xop (mod3 f.mod) k.l.ftz fm
    let vals := fun o => (lanesOf m).map fun j => ftzIn k.l.ftz fm (k.fltElem s.now f.lit f.dt f.a j o)
    k.OwnsAll m → k.Clear s us (k.dst f.d 1 m) →
    k.Completes i s us [n] [] [] fun a b =>
      (∀ lane, lane < 32 → m.getLsbD lane = true →
        LaneHolds f.dt (laneAt (b.vget n).val lane) (laneAt (a.vget n).val lane) fun o =>
          scanValue scan (f.b.getLsbD 7) (fun x => (canonFloat fm x).1) (fun x y => (comb x y).1)
            (redFloatIdent f.xop fm) (vals o) (memberIndex m lane)) ∧
      a.KeepsLanes b [n] m ∧ b.pend = a.pend ∧
      b.fpflags = a.fpflags ||| BitVec.ofNat 32 (((fltOffs f.dt).map fun o => redFlags (canonFloat fm) comb (vals o)).foldl
        (· ||| ·) 0)) ∧
  (∀ (f : RWord) (s : State) (k : Ctx), (Instr.xvote f).wf = true → s.ctx? = some k →
    let m := k.kread f.c.toNat
    let p := k.kread f.a.toNat &&& m
    let r : Prop := match mod4 f.mod with
      | 0 => p ≠ 0
      | 1 => p = m
      | _ => p = m ∨ p = 0
    k.OwnsAll m → k.Clear s [] [] →
    (r → k.Completes (.xvote f) s [] [] [] [f.d.toNat] fun a b =>
      a.PutsMask b f.d.toNat m (BitVec.allOnes 32) ∧ b.pend = a.pend ∧ b.fpflags = a.fpflags) ∧
    (¬ r → k.Completes (.xvote f) s [] [] [] [f.d.toNat] fun a b =>
      a.PutsMask b f.d.toNat m 0 ∧ b.pend = a.pend ∧ b.fpflags = a.fpflags))

/-- R162, R163, R164: in a split wave the fragment that reaches a cross-lane instruction first waits in roll call with
its own named lanes of D empty; the one that reaches the same address with the same member set completes it for
both; a member set without a live lane of the fragment writes nothing. R44, R162, R163: a member set with an
exited lane traps XLANE_EXITED with those lanes; one with own lanes outside EXEC, or that clashes with the other
fragment's roll call or arrival at the split, traps XLANE_MISMATCH; one of own lanes alone does so while the other
fragment waits in roll call (FLANES as for an instruction as a whole, log entry 17). Where the manual can be read
two ways the statement follows log entry 17. -/
def Obligations.RollCallsAndTraps : Prop :=
  (∀ (i : Instr) (r : CrossRule) (s : State) (k : Ctx) (g : Frag), crossRule i = some r → i.wf = true →
    s.ctx? = some k → k.slot ≤ 1 → k.wv.frag (1 - k.slot) = some g →
    let m := k.kread r.f.c.toNat
    let mine := m &&& k.fr.owned
    let ns := k.vnames r.f.d r.g
    (m &&& ~~~k.wv.lanes = 0 ∧ m &&& k.wv.exited = 0) →
    (mine = 0 → (∀ j m2 d, g.st ≠ .rollcall j m2 d) → k.Clear s (r.uses k m) (k.dst r.f.d r.g mine) →
      k.Completes i s (r.uses k m) [] [] [] fun a b => b.pend = a.pend ∧ b.fpflags = a.fpflags) ∧
    (mine ≠ 0 → mine &&& ~~~k.fr.exec = 0 → m &&& ~~~k.fr.owned ≠ 0 → k.wv.hmode = false →
      ((∀ j m2 d, g.st ≠ .rollcall j m2 d) → (∀ x, g.st ≠ .splitwait x) → k.Clear s (r.uses k m) (k.dst r.f.d r.g mine) →
        k.Goes i s (r.uses k m) (fun x => { x with st := .rollcall i m ns }) ns [] [] fun a b =>
          (∀ n ∈ ns, (b.vget n).val = (a.vget n).val ∧ (b.vget n).empty = (a.vget n).empty ||| mine) ∧
          b.pend = a.pend ∧ b.fpflags = a.fpflags) ∧
      (∀ j d, g.st = .rollcall j m d → g.pc = k.fr.pc →
        let k2 : Ctx := { k with wv := k.wv.withdrawRoll (1 - k.slot) }
        k2.Clear s (r.uses k m) (k.dst r.f.d r.g mine) →
        ∃ t b, exec i s = .next t ∧ s.WaveStep t k.w b ∧
          (∀ lane, lane < 32 → m.getLsbD lane = true →
            (k.withWave b).vgroup r.f.d.toNat r.g lane = r.val s.now k2 m lane % 2 ^ (32 * r.g)) ∧
          (k2.wv.freeUses (r.uses k m)).KeepsLanes b ns m ∧
          b.frag k.slot = some (k.fr.after i.len) ∧
          b.frag (1 - k.slot) = some ({ g with st := .ready }.after i.len) ∧
          b = { k.wv with vregs := b.vregs, sregs := b.sregs, frag0 := b.frag0, frag1 := b.frag1 }))) ∧
  (∀ (i : Instr) (r : CrossRule) (s : State) (k : Ctx), crossRule i = some r → i.wf = true → s.ctx? = some k →
    k.TrapReady →
    let m := k.kread r.f.c.toNat
    let mine := m &&& k.fr.owned
    let theirs := m &&& ~~~k.fr.owned
    let gone := m &&& (~~~k.wv.lanes ||| k.wv.exited)
    let traps := fun (cause : Nat) (named : Word32) =>
      let lanes := named &&& ~~~k.fr.skip
      ∃ t b card, exec i s = .next t ∧
        CardNames card cause (lowestLane lanes) 0 k.ioff (k.wv.wid (lowestLane lanes) % 2 ^ 64) 0 0 (s.now % 2 ^ 64) ∧
        s.EntersHandler t k b { k.wholeRegs s cause i.baseWord card with
          fcause := BitVec.ofNat 32 (cause + 256 * lowestLane lanes), flanes := lanes }
    k.Clear s (r.uses k m) (k.dst r.f.d r.g mine) → k.rollMate m = false →
    (gone = 0 → mine ≠ 0 → mine &&& ~~~k.fr.exec = 0 → theirs = 0 → k.mateInRoll = true →
      k.TrapsWhole i s 0x06 i.baseWord 0 0 0) ∧
    (gone ≠ 0 → traps 0x05 gone) ∧
    (gone = 0 → mine &&& ~~~k.fr.exec ≠ 0 → traps 0x06 (mine &&& ~~~k.fr.exec)) ∧
    (gone = 0 → mine ≠ 0 → mine &&& ~~~k.fr.exec = 0 → theirs ≠ 0 → k.rollClash = true → traps 0x06 theirs))

/-! ## Memory -/

/-- R4, R177, R180, R322, R324: a naturally aligned access to a virtual address below the windows whose page is mapped
and permits it has one span, at the physical address of its translation; in plain memory, without cached stale
copies, a lane reads the bytes of memory there, least significant first. R176, R180: an address of 2^56 or more is
out of range; a misaligned one traps MISALIGNED, a page without the right PROTECTION, and an address that does not
translate the walk's cause; the lane makes no access. -/
def Obligations.AddressChecks : Prop :=
  (∀ (s : State) (k : Ctx) (kind : Acc) (win : Windows) (n lane addr pa : Nat) (leaf : Word64) (vb sz : Nat),
    0 < n → addr < 0xFFFE0000000000 → addr % n = 0 →
    s.xlate k.part (coreAgents k.wv.core) addr = .ok pa leaf vb sz → s.permitted k.part kind false leaf pa n = true →
    s.laneGlobal k kind win n lane addr =
      { lane := lane, addr := addr, spans := [{ place := .phys pa leaf false, va := addr, n := n }], bad := none } ∧
    (outbound pa = false → k.l.determ = false → s.l1 = [] → s.copies = [] → ∀ fresh,
      s.laneRead k fresh (s.laneGlobal k kind win n lane addr) =
        ((List.range n).map fun j => (Memory.get s.mem (pa + j)).toNat * 256 ^ j).sum)) ∧
  (∀ (s : State) (k : Ctx) (kind : Acc) (win : Windows) (n lane addr : Nat), 0 < n →
    let none_ := fun (c : Nat) (malf : Bool) =>
      s.laneGlobal k kind win n lane addr = { lane := lane, addr := addr, spans := [], bad := some (c, malf, false) }
    (2 ^ 56 ≤ addr → none_ 0x08 false) ∧
    (addr < 0xFFFE0000000000 → addr % n ≠ 0 → none_ 0x07 false) ∧
    (addr < 0xFFFE0000000000 → addr % n = 0 → ∀ c malf,
      s.xlate k.part (coreAgents k.wv.core) addr = .fault c malf → none_ c malf) ∧
    (addr < 0xFFFE0000000000 → addr % n = 0 → ∀ pa leaf vb sz,
      s.xlate k.part (coreAgents k.wv.core) addr = .ok pa leaf vb sz → s.permitted k.part kind false leaf pa n = false →
      none_ 0x0A false))

/-- R32, R182, R185, R187, R278, R324, R330: `ld.g`, `ld.g.acq`, `ld.s`, `ld.s.acq`, `ld.u` and `ld.u.acq` complete,
in every launch: when the lanes pass their checks and nothing makes the access wait (`memBegin` answers the state
s0 in which its lines are there), exec answers a next state with the destination lanes empty and one result on its
way, each lane's value extended as its type says; an acquire at gang scope or wider drops the core's L1 copies.
Only the wave, what is kept of lines and reads, and the sets of a checked launch change. The value read is that of
the model's coherent image and L1 copies (log entries 4 and 5). -/
def Obligations.Loads : Prop :=
  ∀ (i : Instr) (f : MWord) (space : MemSpace) (acq : Bool) (s s0 : State) (k : Ctx),
    loadForm i = some (f, space, acq) → i.wf = true → s.ctx? = some k → s.Unheld →
    (acq = true → k.scopeBarred (mod3 f.mod) = false) →
    let m := k.active f.pk (modNP f.mod)
    let us := k.memUses f space
    let rs := s.lanesFor k f space .read (!acq)
    let fresh := acq && decide (2 ≤ k.scope (mod3 f.mod))
    let value := fun (w lane : Nat) (r : LaneRes) => r.lane = lane → w = s0.laneRead k fresh r
    (∀ r ∈ rs, r.bad = none) → s.memBegin k false (space != .uniform) fresh rs = .ok s0 → s.RaceFree k .read rs →
    (space = .uniform → k.Clear s us (k.dst f.d 1 0) →
      let n := k.sname (f.d.toNat - 128)
      ∃ t b v p, exec i s = .next t ∧ s.LoadStep t k b ∧
        t.l1 = (if fresh then s.l1.filter fun e => e.core != k.wv.core else s.l1) ∧
        (k.wv.freeUses us).Beyond b k.slot (fun x => x.after i.len) [] [n] [] ∧ b.fpflags = k.wv.fpflags ∧
        (∀ r ∈ rs, value v 0 r) ∧ b.pend = k.wv.pend ++ [p] ∧
        p.CarriesScalar n (BitVec.ofNat 64 (widExtend f.dt 64 v)) ∧
        b.sregs.lookup n = some { ((k.wv.freeUses us).sget n) with empty := true }) ∧
    (space ≠ .uniform → k.Clear s us (k.dst f.d (widRegs f.dt) m) →
      let ns := k.vnames f.d (widRegs f.dt)
      ∃ t b, exec i s = .next t ∧ s.LoadStep t k b ∧
        t.l1 = (if fresh then s.l1.filter fun e => e.core != k.wv.core else s.l1) ∧
        (k.wv.freeUses us).Beyond b k.slot (fun x => x.after i.len) ns [] [] ∧ b.fpflags = k.wv.fpflags ∧
        (m = 0 → b.pend = k.wv.pend ∧ b.vregs = (k.wv.freeUses us).vregs) ∧
        (m ≠ 0 → (k.wv.freeUses us).MarksGroup b ns m ∧
          ∃ (v : Nat → Nat) (p : Pending), b.pend = k.wv.pend ++ [p] ∧ (∀ r ∈ rs, value (v r.lane) r.lane r) ∧
            p.CarriesGroup ns m (fun lane => widExtend f.dt 32 (v lane))))

/-- R4, R182, R185, R186, R324, R325, R330: `st.g`, `st.g.rel`, `st.u` and `st.u.rel` complete, in every launch: when
the lanes pass their checks and nothing makes the access wait, exec answers a next state in which the fragment is
past the instruction and no register or mask is written. In plain memory each lane's bytes stand at its address,
least significant first, where no other lane writes, and every byte outside the lanes' spans keeps its value; in a
deterministic launch memory keeps every byte, and the wave's layer gains the lanes' bytes in order. R178, R186,
R298: `st.s` and `st.s.rel` complete, in every launch: a scratchpad store writes the bytes of its cluster's
scratchpad alone; memory keeps every byte. A store is performed at its issue (log entry 4). -/
def Obligations.StoresAndScratch : Prop :=
  (∀ (i : Instr) (f : MWord) (space : MemSpace) (rel : Bool) (s s0 : State) (k : Ctx),
    storeForm i = some (f, space, rel) → space ≠ .scratch → i.wf = true → s.ctx? = some k →
    (rel = true → k.scopeBarred (mod3 f.mod) = false) → (rel = true → mod3 f.mod = 5 → s.ckOutstanding k.w = false) →
    let us := k.memUses f space ++ k.dataUses f space
    let rs := s.lanesFor k f space .write false
    (∀ r ∈ rs, r.bad = none) → s.memBegin k true true true rs = .ok s0 → s.RaceFree k .write rs → k.Clear s us [] →
    ∃ t b, exec i s = .next t ∧ t.waves[k.w]? = some b ∧
      (k.wv.freeUses us).Beyond b k.slot (fun x => x.after i.len) [] [] [] ∧ b.fpflags = k.wv.fpflags ∧ b.pend = k.wv.pend ∧
      (k.l.determ = false → b.layer = k.wv.layer ∧
        (s.Unheld → s.Sound → s.PlainLanes rs → s.StoreStep t k b ∧
          (∀ a, OutsideSpans rs a → Memory.get t.mem a = Memory.get s.mem a) ∧
          (rs.Pairwise Apart → ∀ r ∈ rs, ∀ sp pa, r.spans = [sp] → sp.pa? = some pa → ∀ j, j < sp.n →
            Memory.get t.mem (pa + j) = BitVec.ofNat 8 (k.storeData f space r.lane / 256 ^ j)))) ∧
      (k.l.determ = true → (∀ r ∈ rs, r.Buffered) →
        b.layer = k.wv.layer ++ rs.flatMap (fun r => r.layerStores (k.storeData f space r.lane)) ∧
        (s.Unheld → s.StoreStep t k b ∧ t.mem = s.mem))) ∧
  (∀ (i : Instr) (f : MWord) (rel : Bool) (s : State) (k : Ctx),
    storeForm i = some (f, .scratch, rel) → i.wf = true → s.ctx? = some k → s.Sound →
    (rel = true → k.scopeBarred (mod3 f.mod) = false) →
    let us := k.memUses f .scratch ++ k.dataUses f .scratch
    let rs := s.lanesFor k f .scratch .write false
    (∀ r ∈ rs, r.bad = none) → s.memBlocked k true true rs = false → s.RaceFree k .write rs →
    (rel = true → mod3 f.mod = 5 → s.ckOutstanding k.w = false) → k.Clear s us [] →
    ∃ t b, exec i s = .next t ∧
      t = { s with waves := t.waves, clusters := t.clusters, granted := t.granted, launches := t.launches } ∧
      s.SetsStep t k ∧ t.waves[k.w]? = some b ∧ (∀ j, j ≠ k.w → t.waves[j]? = s.waves[j]?) ∧
      (k.wv.freeUses us).Beyond b k.slot (fun x => x.after i.len) [] [] [] ∧ b.fpflags = k.wv.fpflags ∧
      b.pend = k.wv.pend ∧ b.layer = k.wv.layer ∧
      ∀ c x, s.clusters[c]? = some x → ∃ y, t.clusters[c]? = some y ∧ y = { x with scratch := y.scratch } ∧
        (∀ a, (∀ r ∈ rs, ∀ sp ∈ r.spans, ∀ p o, sp.place = .scr c p o → a < p ∨ p + sp.n ≤ a) →
          Memory.get y.scratch a = Memory.get x.scratch a) ∧
        (∀ r p o sp, rs = [r] → r.spans = [sp] → sp.place = .scr c p o → ∀ j, j < sp.n →
          Memory.get y.scratch (p + j) = BitVec.ofNat 8 (k.storeData f .scratch r.lane / 256 ^ j)))

/-- R44, R180, R181: a vector load or store with failing lanes, none for uncorrectable data, makes no access and traps
with the cause of highest rank, FLANES the failing lanes, FIRST the lowest of them, and a report-card entry for
each in lane order. R183, R278, R309, R311, R336 to R338, R401: a load or store waits in OPWAIT with its operands
unread, its fragment at the same instruction and memory as it was while a range scoreboard, a tile lock or a grant
holds it, or while tokens that it needs are on their way; for those its holder has a request. With none of these,
no regulator that holds reads back for its job, and no component in reset, nothing makes it wait. -/
def Obligations.MemoryFaultsAndWaits : Prop :=
  (∀ (i : Instr) (f : MWord) (space : MemSpace) (x write : Bool) (s : State) (k : Ctx),
    (if write then storeForm i else loadForm i) = some (f, space, x) → space ≠ .uniform → i.wf = true →
    s.ctx? = some k → k.TrapReady → (x = true → k.scopeBarred (mod3 f.mod) = false) →
    let m := k.active f.pk (modNP f.mod)
    let us := k.memUses f space ++ (if write then k.dataUses f space else [])
    let rs := s.lanesFor k f space (if write then .write else .read) (!write && !x)
    let bads := rs.filter fun r => r.bad.isSome
    k.Clear s us (if write then [] else k.dst f.d (widRegs f.dt) m) → bads ≠ [] →
    (∀ r ∈ rs, ∀ c a b, r.bad = some (c, a, b) → c ≠ 0x0E) →
    ∃ (t : State) (b : Wave) (r : FaultRegs) (c : Nat), exec i s = .next t ∧ s.EntersHandler t k b r ∧
      (r.fcause.extractLsb' 0 8).toNat = c ∧ (∃ q ∈ bads, ∃ u v, q.bad = some (c, u, v)) ∧
      (∀ q ∈ bads, ∀ c2 u v, q.bad = some (c2, u, v) → causeRank c2 ≤ causeRank c) ∧
      (∀ lane, lane < 32 → r.flanes.getLsbD lane = bads.any fun q => q.lane == lane) ∧
      (r.fcause.extractLsb' 8 5).toNat = lowestLane r.flanes ∧ r.fpc = k.fr.pc ∧ r.finst = i.baseWord ∧
      r.cards.length = bads.length ∧
      ∀ (j : Nat) (q : LaneRes) (card : Card), bads[j]? = some q → r.cards[j]? = some card →
        (card.extractLsb' 8 5).toNat = q.lane ∧ (card.extractLsb' 128 64).toNat = q.addr % 2 ^ 64) ∧
  (∀ (i : Instr) (f : MWord) (space : MemSpace) (x write : Bool) (s : State) (k : Ctx),
    (if write then storeForm i else loadForm i) = some (f, space, x) → i.wf = true → s.ctx? = some k →
    (x = true → k.scopeBarred (mod3 f.mod) = false) →
    let m := k.active f.pk (modNP f.mod)
    let us := k.memUses f space ++ (if write then k.dataUses f space else [])
    let rs := s.lanesFor k f space (if write then .write else .read) (!write && !x)
    let board := write || space != .uniform
    let fresh := write || (x && decide (2 ≤ k.scope (mod3 f.mod)))
    let lines := s.lineUses k write fresh rs
    let holds := fun (u : LineUse) => s.tokensHold u.h write u.line
    let waits := fun (b : Wave) => k.wv.Past b k.slot (fun y => { y with st := .opwait }) [] [] [] ∧
      b.vregs = k.wv.vregs ∧ b.sregs = k.wv.sregs ∧ b.pend = k.wv.pend ∧ b.fpflags = k.wv.fpflags
    k.Clear s us (if write then [] else if space = .uniform then k.dst f.d 1 0 else k.dst f.d (widRegs f.dt) m) →
    (∀ r ∈ rs, r.bad = none) →
    (s.memBlocked k write board rs = true → ∃ t b, exec i s = .next t ∧ s.WaveStep t k.w b ∧ waits b) ∧
    (s.memBlocked k write board rs = false → (write = true → x = true → mod3 f.mod = 5 → s.ckOutstanding k.w = false) →
      lines.any holds = true →
      ∃ t b, exec i s = .next t ∧ t = { s with waves := t.waves, tokReqs := t.tokReqs, tokMsgs := t.tokMsgs } ∧
        t.waves[k.w]? = some b ∧ (∀ j, j ≠ k.w → t.waves[j]? = s.waves[j]?) ∧ waits b ∧
        ∀ u ∈ lines, ∀ h, u.h = some h → holds u = true → s.joinedIn h = true → s.homeStopped (some h) = false →
          ∃ r ∈ t.tokReqs, r.line = u.line ∧ r.holder = h) ∧
    (s.memBlocked k write board rs = false → lines.any holds = false → s.proctor.resets = [] →
      (∀ c, s.chargeOf k.wv.launch = some c → (s.budgetOf c).1 = 0 ∧ ∀ y ∈ s.regs, y.c = c → y.held = [] ∧ y.slice = []) →
      ∃ s0, s.memBegin k write board fresh rs = .ok s0 ∧ s0.mem = s.mem ∧ s0.waves = s.waves))

/-- R201 to R205, R325, R330: `atom.add`, `atom.min`, `atom.max`, `atom.and`, `atom.or`, `atom.xor`, `atom.xchg`,
`atom.cas`, `atom.fadd` and `atom.maxidx` on memory complete, in every launch and order: when the lanes pass their
checks and nothing makes the access wait, exec answers a next state in which the fragment is past the instruction;
on plain memory the lanes' operations are applied one at a time in ascending order, each on what the one before
left, no other byte is written, and each lane's old value goes to D; in a deterministic launch memory keeps every
byte, the wave's layer gains the operations in order, and the old values are those of its view; an acquire at gang
scope or wider drops the core's L1 copies. (Without discarded copies of lines, R196.) R178, R201, R203: the same
atomics on the scratchpad complete, in every launch and order: one of one active lane changes the element of its
cluster's scratchpad by its operation and nothing of memory, and sends the old value to D; with any lanes exec
answers a next state in which the fragment is past the instruction and memory keeps every byte. Operand corners
follow log entry 13. -/
def Obligations.AtomicsEverywhere : Prop :=
  (∀ (i : Instr) (sp : AtomSpace) (o : AtomOrder) (f : RWord) (kind : AtomKind) (s s0 : State) (k : Ctx),
    atomForm i = some (sp, o, f, kind) → sp ≠ .scratch → i.wf = true → s.ctx? = some k →
    (o ≠ .relaxed → k.scopeBarred (mod3 f.mod) = false) →
    let m := k.active f.pk (modNP f.mod)
    let n := intBits f.dt / 8
    let g := intBits f.dt / 32
    let uni := sp = .scalar
    let rs := if uni then s.resolve k .uniform .atomic { priv := false, card := false } n [0] fun _ => k.addrOf f.lit false f.a 0
      else s.resolve k .global .atomic { priv := false, card := false } n (lanesOf m) fun lane => k.addrOf f.lit true f.a lane
    let us := if uni then k.uniUses f else k.use f.a f.actl 2 m ++ k.use f.b f.bctl g m ++ k.use f.c f.cctl g m
    let src := fun (q : BitVec 8) (lane : Nat) =>
      if kind = .fadd then k.fltSrc s.now f.lit 0 q lane
      else if uni then k.scalSrc s.now f.lit (intWidth f.dt) q else k.intSrc s.now f.lit f.dt q lane
    let third := fun (lane : Nat) => if f.c = 255 then 0 else src f.c lane
    let sg := intSigned f.dt
    let ops := rs.filterMap fun r => match r.spans with
      | [x] => x.pa?.map fun pa => (r.lane, pa, src f.b r.lane, third r.lane)
      | _ => none
    let res := atomMem kind sg n s.mem ops
    let queued := rs.flatMap fun r => r.layerAtomic kind sg n (src f.b r.lane) (third r.lane)
    let scalarTo := fun (b : Wave) (old : Nat) => ∃ p, b.pend = k.wv.pend ++ [p] ∧
      p.CarriesScalar (k.sname (f.d.toNat - 128)) (BitVec.ofNat 64 (if kind = .fadd then old else scalExt f.dt old))
    let groupTo := fun (b : Wave) (old : Nat → Nat) => ∃ p, b.pend = k.wv.pend ++ [p] ∧
      p.CarriesGroup (k.vnames f.d g) m old
    let acq := (o = .acq ∨ o = .ar) ∧ 2 ≤ k.scope (mod3 f.mod)
    (∀ r ∈ rs, r.bad = none) → s.memBegin k true true true rs = .ok s0 → s.RaceFree k .atomic rs →
    ((o = .rel ∨ o = .ar) → mod3 f.mod = 5 → s.ckOutstanding k.w = false) →
    k.Clear s us (if uni then k.dst f.d 1 0 else k.dst f.d g m) →
    ∃ t b, exec i s = .next t ∧ t.waves[k.w]? = some b ∧ b.fpflags = k.wv.fpflags ∧
      (acq → ∀ e ∈ t.l1, e.core ≠ k.wv.core) ∧
      (uni → (k.wv.freeUses us).Beyond b k.slot (fun x => x.after i.len) [] (useNames (k.dst f.d 1 0) false) [] ∧
        (f.d = 255 → b.pend = k.wv.pend) ∧ (OpField.isS f.d = true → ∃ old, scalarTo b old)) ∧
      (¬ uni → (k.wv.freeUses us).Beyond b k.slot (fun x => x.after i.len) (useNames (k.dst f.d g m) true) [] [] ∧
        ((OpField.isV f.d = false ∨ m = 0) → b.pend = k.wv.pend) ∧
        (OpField.isV f.d = true → m ≠ 0 → (k.wv.freeUses us).MarksGroup b (k.vnames f.d g) m ∧ ∃ old, groupTo b old)) ∧
      (k.l.determ = false → b.layer = k.wv.layer ∧
        (s.Unheld → s.Sound → s.copies = [] → s.PlainLanes rs → (∀ r ∈ rs, ∃ x, r.spans = [x]) →
          s.StoreStep t k b ∧ (∀ a, Memory.get t.mem a = Memory.get res.1 a) ∧
          (uni → OpField.isS f.d = true → ∃ old, res.2 = [(0, old)] ∧ scalarTo b old) ∧
          (¬ uni → OpField.isV f.d = true → m ≠ 0 → groupTo b fun lane => (res.2.lookup lane).getD 0))) ∧
      (k.l.determ = true → (∀ r ∈ rs, r.Buffered) →
        let view := fun (j : Nat) (r : LaneRes) =>
          ofBytes (r.spans.flatMap fun x => s.readView { k.wv with layer := k.wv.layer ++ queued.take j } (x.pa?.getD 0) n)
        b.layer = k.wv.layer ++ queued ∧ (s.Unheld → s.StoreStep t k b ∧ t.mem = s.mem) ∧
        (uni → OpField.isS f.d = true → ∀ r, rs[0]? = some r → scalarTo b (view 0 r)) ∧
        (¬ uni → OpField.isV f.d = true → m ≠ 0 →
          ∃ old, groupTo b old ∧ ∀ (j : Nat) (r : LaneRes), rs[j]? = some r → old r.lane = view j r))) ∧
  (∀ (i : Instr) (o : AtomOrder) (f : RWord) (kind : AtomKind) (s : State) (k : Ctx),
    atomForm i = some (.scratch, o, f, kind) → i.wf = true → s.ctx? = some k → s.Sound →
    (o ≠ .relaxed → k.scopeBarred (mod3 f.mod) = false) →
    let m := k.active f.pk (modNP f.mod)
    let n := intBits f.dt / 8
    let g := intBits f.dt / 32
    let us := k.use f.a f.actl 1 m ++ k.use f.b f.bctl g m ++ k.use f.c f.cctl g m
    let rs := s.resolve k .scratch .atomic { priv := false, card := false } n (lanesOf m) fun l => k.addrOf f.lit false f.a l
    let src := fun (q : BitVec 8) (lane : Nat) =>
      if kind = .fadd then k.fltSrc s.now f.lit 0 q lane else k.intSrc s.now f.lit f.dt q lane
    (∀ r ∈ rs, r.bad = none) → s.memBlocked k true true rs = false → s.RaceFree k .atomic rs →
    ((o = .rel ∨ o = .ar) → mod3 f.mod = 5 → s.ckOutstanding k.w = false) → k.Clear s us (k.dst f.d g m) →
    ∃ t b, exec i s = .next t ∧
      t = { s with waves := t.waves, clusters := t.clusters, l1 := t.l1, granted := t.granted, launches := t.launches } ∧
      s.SetsStep t k ∧ t.waves[k.w]? = some b ∧ b.fpflags = k.wv.fpflags ∧ b.layer = k.wv.layer ∧
      (∀ j, j ≠ k.w → t.waves[j]? = s.waves[j]?) ∧
      (k.wv.freeUses us).Beyond b k.slot (fun x => x.after i.len) (useNames (k.dst f.d g m) true) [] [] ∧
      ((OpField.isV f.d = false ∨ m = 0) → b.pend = k.wv.pend) ∧
      (OpField.isV f.d = true → m ≠ 0 → ∃ p old, b.pend = k.wv.pend ++ [p] ∧ p.CarriesGroup (k.vnames f.d g) m old) ∧
      ∀ (lane c csa va : Nat) (oth : Bool) (cl : Cluster) (r : LaneRes), lanesOf m = [lane] → rs = [r] →
        r.spans = [{ place := .scr c csa oth, va := va, n := n }] → s.clusters[c]? = some cl →
        let w := 8 * n
        let old := ofBytes (Memory.read cl.scratch csa n)
        let new := atomRule kind (intSigned f.dt) (BitVec.ofNat w old) (BitVec.ofNat w (src f.b lane))
          (BitVec.ofNat w (if f.c = 255 then 0 else src f.c lane))
        ∃ y, t.clusters[c]? = some y ∧ y = { cl with scratch := y.scratch } ∧
          (∀ d, d ≠ c → t.clusters[d]? = s.clusters[d]?) ∧
          (∀ a, Memory.get y.scratch a =
            Memory.get (if new.2 then Memory.write cl.scratch csa (bytesOf n new.1.toNat) else cl.scratch) a) ∧
          (OpField.isV f.d = true → ∃ p, b.pend = k.wv.pend ++ [p] ∧ p.CarriesGroup (k.vnames f.d g) m fun _ => old))

/-- R198 to R200, R324, R325, R334: `fence.acq`, `fence.rel` and `fence.ar` complete, in every launch, when nothing is
left to wait for: in this model every access of a wave is performed when it issues (log entry 4), so only CK
writes hold a release at recovery scope, and in a checked launch no race may be found; an acquire at gang scope or
wider drops the core's L1 copies; system and recovery scope in a deterministic launch trap PROTECTION. R195 to
R197, R335: `pref`, `cclean`, `cinval` and `cflush` complete: `pref` changes no value; the others act on the lines
of their range: no line of it is left dirty in the cluster; after a clean or flush every byte keeps its value;
after a flush or an invalidation the cluster holds no token and the core no copy of it; an invalidation of a line
dirty there, which the launch may write, leaves what the home holds. A fence has nothing to wait for but CK writes
not accepted (log entry 4). -/
def Obligations.FencesAndMaintenance : Prop :=
  (∀ (i : Instr) (f : RWord) (acq rel : Bool) (s : State) (k : Ctx),
    (i = .fenceAcq f ∧ acq = true ∧ rel = false) ∨ (i = .fenceRel f ∧ acq = false ∧ rel = true) ∨
      (i = .fenceAr f ∧ acq = true ∧ rel = true) →
    i.wf = true → s.ctx? = some k →
    (k.scopeBarred (mod3 f.mod) = true → k.TrapReady → k.TrapsWhole i s 0x0A i.baseWord 0 0 0) ∧
    (k.scopeBarred (mod3 f.mod) = false → rel = true → mod3 f.mod = 5 → s.ckOutstanding k.w = true →
      k.Goes i s [] (fun x => { x with st := .opwait }) [] [] [] fun a b => b.pend = a.pend ∧ b.fpflags = a.fpflags) ∧
    (k.scopeBarred (mod3 f.mod) = false → (rel = true → mod3 f.mod = 5 → s.ckOutstanding k.w = false) →
      s.RaceFree k .read [] →
      ∃ s1 t b, exec i s = .next t ∧ s.SyncStep s1 k b ∧
        t = { s1 with l1 := if acq && decide (2 ≤ k.scope (mod3 f.mod)) then s.l1.filter fun e => e.core != k.wv.core else s.l1 } ∧
        k.wv.Beyond b k.slot (fun x => x.after i.len) [] [] [] ∧ b.pend = k.wv.pend ∧ b.fpflags = k.wv.fpflags ∧
        b.layer = k.wv.layer ∧ (k.l.checked = true → b.epoch = k.wv.epoch + 1 ∧ b.epochStart = s.now))) ∧
  ((∀ (f : MWord) (s : State) (k : Ctx), (Instr.pref f).wf = true → s.ctx? = some k →
    let us := k.addrUses f (!f.u) (if f.u then 0 else k.active f.pk (modNP f.mod))
    k.Clear s us [] → k.Completes (.pref f) s us [] [] [] fun a b => b.pend = a.pend ∧ b.fpflags = a.fpflags) ∧
  (∀ (i : Instr) (f : MWord) (s : State) (k : Ctx), (i = .cclean f ∨ i = .cflush f ∨ i = .cinval f) → i.wf = true →
    s.ctx? = some k →
    let us := k.use f.a f.actl 1 0 ++ k.use f.b f.bctl 1 0 ++ k.use f.d 0 1 0
    let n := k.scalSrc s.now f.lit 64 f.d
    let a := k.laneAddr f false 64 0
    let lines := s.maintLines k a n
    let mine := Holder.cluster k.cl
    k.Clear s us [] →
    (2 ^ 24 < n → exec i s = .next (s.trapWhole k 0x08 i)) ∧
    (n ≤ 2 ^ 24 → (n ≠ 0 → a < 0xFFFE0000000000) →
      ∃ t b, exec i s = .next t ∧ t.waves[k.w]? = some b ∧ (∀ j, j ≠ k.w → t.waves[j]? = s.waves[j]?) ∧
        (k.wv.freeUses us).Past b k.slot (fun x => x.after i.len) [] [] [] ∧ b.pend = k.wv.pend ∧
        b.fpflags = k.wv.fpflags ∧
        (i ≠ .cinval f → ∀ x, Memory.get t.mem x = Memory.get s.mem x) ∧
        (∀ x, (∀ l ∈ lines, x / 64 ≠ l.1) → Memory.get t.mem x = Memory.get s.mem x) ∧
        (∀ l ∈ lines, ∀ d ∈ t.dirty, d.line = l.1 → d.holder ≠ mine) ∧
        (i ≠ .cclean f → ∀ l ∈ lines,
          (∀ x ∈ t.tokens, x.line = l.1 → x.holder ≠ mine) ∧ ∀ e ∈ t.l1, e.line = l.1 → e.core ≠ k.wv.core) ∧
        (i = .cinval f → ∀ ln d, lines = [(ln, true)] →
          s.dirty.find? (fun x => x.line == ln && decide (x.holder = mine)) = some d →
          ∀ j, j < 64 → Memory.get t.mem (64 * ln + j) = d.home.extractLsb' (8 * j) 8))))

/-- R189, R190, R312, R442: `fq.push` (constructor fqPush) and `fq.pop` (fqPop) complete, in every launch: a push puts
the words of its lanes, in ascending lane order and each element's first word first, at the tail of a FIFO bank
with room; a pop takes as many from the head of a bank that holds them and sends each lane its own, poisoned if
the bank was; the other banks keep their words; without active lanes nothing moves; on a locked bank, or without
room or words, the fragment waits, in the second case with its operands read. R190, R191: FIFO_SERVICE
(constructor fifoService) completes: a bank that has room or words serves the fragment that waits for it, a push
with the words read at its issue, a pop with the words at the head of the bank. R192 to R194, R306: `vspill`
(constructor vspill) and `vfill` (vfill) complete, in every launch, from the first register or after `rfe` from
the one that COUNT names: when every register's lanes pass their checks at its turn and nothing makes the accesses
wait, exec answers a next state in which the fragment is past the instruction. In plain memory, where the
addresses translate alike whatever the bytes stored (as where the TLBs hold them), `vspill` stores each register
of its range, lane by lane, at the base plus 128 bytes a register, and changes no other byte; `vfill` sends the
registers what it reads there. FIFO corners follow log entry 24, those of spilling log entry 25. -/
def Obligations.FifosSpillAndFill : Prop :=
  (∀ (f : MWord) (push : Bool) (s : State) (k : Ctx) (c : Cluster),
    let i := if push then Instr.fqPush f else Instr.fqPop f
    i.wf = true → s.ctx? = some k → s.clusters[k.cl]? = some c →
    let n := memBytes f.dt / 4
    let m := if f.u then 0 else k.active f.pk (modNP f.mod)
    let cnt := if f.u then n else n * popcount m
    let a := k.scalSrc s.now f.lit 64 f.a
    let us := k.use f.a f.actl 1 0 ++ (if push then k.use f.d 0 (if f.u then 1 else n) m else [])
    let ds := if push then [] else k.dst f.d (if f.u then 1 else n) m
    let held := (c.fifos.lookup a).getD []
    let data := if f.u then (List.range n).map fun j => BitVec.ofNat 32 (k.litS f.lit f.d / 2 ^ (32 * j))
      else (lanesOf m).flatMap fun lane =>
        (List.range n).map fun j => (BitVec.ofNat 32 (k.vgroup f.d.toNat n lane / 2 ^ (32 * j)) : Word32)
    let frame := fun (t : State) (ws : List Word32) =>
      t = { s with waves := t.waves, clusters := t.clusters } ∧ (∀ j, j ≠ k.w → t.waves[j]? = s.waves[j]?) ∧
      (∀ d, d ≠ k.cl → t.clusters[d]? = s.clusters[d]?) ∧
      ∃ y, t.clusters[k.cl]? = some y ∧ y = { c with fifos := y.fifos, fpoison := y.fpoison } ∧
        y.fifos.lookup a = some ws ∧ ∀ d, d ≠ a → y.fifos.lookup d = c.fifos.lookup d
    k.Clear s us ds → a < bankCount k.cl → bitOf k.l.banks a = true → c.modes.getD a .cache = .fifo →
    (cnt = 0 → k.Completes i s us [] [] [] fun x b => b.pend = x.pend ∧ b.fpflags = x.fpflags) ∧
    (0 < cnt → (∃ x ∈ c.locks, x.bank = a) →
      k.Goes i s [] (fun x => { x with st := .opwait }) [] [] [] fun x b => b.pend = x.pend ∧ b.fpflags = x.fpflags) ∧
    (0 < cnt → (∀ x ∈ c.locks, x.bank ≠ a) →
      (push = true → held.length + cnt ≤ 65536 →
        ∃ t b, exec i s = .next t ∧ frame t (held ++ data) ∧ t.waves[k.w]? = some b ∧
          (k.wv.freeUses us).Past b k.slot (fun x => x.after i.len) [] [] [] ∧ b.pend = k.wv.pend ∧
          b.fpflags = k.wv.fpflags) ∧
      (push = false → cnt ≤ held.length →
        ∃ t b p, exec i s = .next t ∧ frame t (held.drop cnt) ∧ t.waves[k.w]? = some b ∧
          (k.wv.freeUses us).Past b k.slot (fun x => x.after i.len) (useNames ds true) (useNames ds false) [] ∧
          b.fpflags = k.wv.fpflags ∧ b.pend = k.wv.pend ++ [p] ∧ (a ∈ c.fpoison → p.poison ≠ none) ∧
          (a ∉ c.fpoison → f.u = true → p.CarriesScalar (k.sname (f.d.toNat - 128))
            (BitVec.ofNat 64 (((List.range n).map fun j => (held.getD j 0).toNat * 2 ^ (32 * j)).sum))) ∧
          (a ∉ c.fpoison → f.u = false → p.CarriesGroup (k.vnames f.d n) m fun lane =>
            ((List.range n).map fun j => (held.getD (n * memberIndex m lane + j) 0).toNat * 2 ^ (32 * j)).sum)) ∧
      ((if push then 65536 < held.length + cnt else held.length < cnt) →
        k.Goes i s [] (fun x => { x with st := .unit i (.fifo a push cnt m (if push then data else [])) }) [] [] []
          fun x b => b.pend = x.pend ∧ b.fpflags = x.fpflags))) ∧
  (∀ (w slot : Nat) (f : MWord) (push : Bool) (a cnt : Nat) (m : Word32) (data : List Word32) (s : State) (k : Ctx)
    (c : Cluster),
    let i := if push then Instr.fqPush f else Instr.fqPop f
    i.wf = true → s.waiter w slot = some k → s.clusters[k.cl]? = some c →
    k.fr.st = .unit i (.fifo a push cnt m data) →
    let n := memBytes f.dt / 4
    let us := k.use f.a f.actl 1 0 ++ (if push then k.use f.d 0 (if f.u then 1 else n) m else [])
    let ds := if push then [] else k.dst f.d (if f.u then 1 else n) m
    let held := (c.fifos.lookup a).getD []
    k.Resumes s us ds → a < bankCount k.cl → bitOf k.l.banks a = true → c.modes.getD a .cache = .fifo → 0 < cnt →
    (∀ x ∈ c.locks, x.bank ≠ a) → (if push then held.length + cnt ≤ 65536 else cnt ≤ held.length) →
    ∃ t b y, exec (.fifoService w slot) s = .next t ∧ t = { s with waves := t.waves, clusters := t.clusters } ∧
      t.clusters[k.cl]? = some y ∧ y.fifos.lookup a = some (if push then held ++ data else held.drop cnt) ∧
      t.waves[w]? = some b ∧ (∀ j, j ≠ w → t.waves[j]? = s.waves[j]?) ∧ b.fpflags = k.wv.fpflags ∧
      (k.wv.freeUses us).Past b slot (fun x => x.after i.len) (useNames ds true) (useNames ds false) [] ∧
      (push = true → b.pend = k.wv.pend) ∧
      (push = false → ∃ p, b.pend = k.wv.pend ++ [p] ∧
        (a ∉ c.fpoison → f.u = true → p.CarriesScalar (k.sname (f.d.toNat - 128))
          (BitVec.ofNat 64 (((List.range n).map fun j => (held.getD j 0).toNat * 2 ^ (32 * j)).sum))) ∧
        (a ∉ c.fpoison → f.u = false → p.CarriesGroup (k.vnames f.d n) m fun lane =>
          ((List.range n).map fun j => (held.getD (n * memberIndex m lane + j) 0).toNat * 2 ^ (32 * j)).sum))) ∧
  (∀ (f : MWord) (s s0 s1 : State) (k : Ctx), s.ctx? = some k →
    let m := k.active f.pk (modNP f.mod)
    let n := f.b.toNat
    let base := k.spillBase f
    let at_ := fun (kind : Acc) (j : Nat) => s.spillLanes k kind base j m
    let first := k.spillStart
    let left := if m = 0 then 0 else n - first
    ((Instr.vspill f).wf = true →
      let us := k.use f.a f.actl 1 0 ++ k.use f.d 0 n m
      let good := s.spillGood k .write base m n left
      s.memBegin k true true true good = .ok s0 → s0.recordAll k .write good = some s1 →
      s1.SpillsAll k f base m n left → k.Clear s us [] →
      ∃ t b, exec (.vspill f) s = .next t ∧ t.waves[k.w]? = some b ∧
        (k.wv.freeUses us).Beyond b k.slot (fun x => x.after (Instr.vspill f).len) [] [] [] ∧ b.pend = k.wv.pend ∧
        b.fpflags = k.wv.fpflags ∧
        (k.l.determ = false → s.Unheld → s.Sound → m ≠ 0 → first ≤ n →
          (∀ mem j, first ≤ j → j < n → ({ s with mem := mem } : State).spillLanes k .write base j m = at_ .write j) →
          (∀ j, first ≤ j → j < n → s.PlainLanes (at_ .write j)) →
          let all := (List.range' first (n - first)).flatMap (at_ .write)
          s.StoreStep t k b ∧ (∀ a, OutsideSpans all a → Memory.get t.mem a = Memory.get s.mem a) ∧
          (all.Pairwise Apart → ∀ j, first ≤ j → j < n → ∀ r ∈ at_ .write j, ∀ sp pa, r.spans = [sp] →
            sp.pa? = some pa → ∀ x, x < 4 →
            Memory.get t.mem (pa + x) = BitVec.ofNat 8 (k.vlane (f.d.toNat + j) r.lane / 256 ^ x)))) ∧
    ((Instr.vfill f).wf = true →
      let us := k.use f.a f.actl 1 0
      let ns := (k.vnames f.d n).drop first
      let good := s.spillGood k .read base m n left
      s.memBegin k false true false good = .ok s0 → s0.recordAll k .read good = some s1 → s.Unheld →
      (∀ j, first ≤ j → j < n → ∀ r ∈ s1.spillLanes k .read base j m, r.bad = none) → k.Clear s us (k.dst f.d n m) →
      ∃ t b, exec (.vfill f) s = .next t ∧ s.LoadStep t k b ∧ b.fpflags = k.wv.fpflags ∧
        (k.wv.freeUses us).Beyond b k.slot (fun x => x.after (Instr.vfill f).len) ns [] [] ∧
        ((m = 0 ∨ n ≤ first) → b.pend = k.wv.pend ∧ b.vregs = (k.wv.freeUses us).vregs) ∧
        (m ≠ 0 → first < n → (k.wv.freeUses us).MarksGroup b ns m ∧
          ∃ p, b.pend = k.wv.pend ++ [p] ∧ p.sca = none ∧ p.flags = 0 ∧ p.poison = none ∧ p.vec.map (·.1) = ns ∧
            ∀ j e, p.vec[j]? = some e → e.2.1 = m ∧ ∀ r ∈ s1.spillLanes k .read base (first + j) m, r.lane < 32 ∧
              laneAt e.2.2 r.lane = BitVec.ofNat 32 (s1.laneRead k false r))))

/-! ## Synchronisation -/

/-- R210, R211, R224, R325, R446: `tl.inc`, `tl.read` and `tl.wait` complete, in every launch, and TL_WAIT_SATISFIED
(constructor tlWaitSatisfied) ends a wait: `tl.inc` adds to a counter of the launch, writes the sum to D and sets
its gang's trace, `tl.read` reads one, and `tl.wait` goes on with the value once it has reached A, dropping the
core's L1 copies, or else waits. (In a checked launch each but `tl.read` is a synchronisation point at which no
race is found.) R206, R207, R208, R324, R325, R330, R331: `bar` and `gbar` complete, in every launch: a barrier
instruction waits until every wave of its set has arrived; then every fragment of the set that waits goes past it,
and a `gbar`, or a checked launch, drops the L1 copies of the cores of the set; in a checked launch the arrival
ends the epoch and the completion starts the next ones; in a deterministic launch without conflicts the layers of
the set are merged in order, the waves' into their workgroup's, and at a `gbar` the workgroups' into their gang's;
memory keeps every byte. What `tl.inc` waits for follows log entry 21, barrier corners log entry 18. -/
def Obligations.CountersAndBarriers : Prop :=
  (∀ (f : RWord) (s : State),
    (∀ k, s.ctx? = some k → (Instr.tlInc f).wf = true →
      let i := Instr.tlInc f
      let us := k.use f.a f.actl 1 0
      let c := f.b.toNat
      let a := k.scalSrc s.now f.lit 64 f.a
      let sum := s.tlcVal k.wv.launch c + a
      k.Clear s us (k.dst f.d 1 0) →
      (k.l.tlcsrc c ≠ 0 → k.TrapReady → k.TrapsWhole i s 0x0A i.baseWord 0 0 0) ∧
      (k.l.tlcsrc c = 0 → a = 0 → k.TrapReady → k.TrapsWhole i s 0x08 i.baseWord 0 0 0) ∧
      (k.l.tlcsrc c = 0 → a ≠ 0 → s.commandsOf k.w = true →
        k.Goes i s [] (fun x => { x with st := .opwait }) [] [] [] fun x b => b.pend = x.pend ∧ b.fpflags = x.fpflags) ∧
      (k.l.tlcsrc c = 0 → a ≠ 0 → s.commandsOf k.w = false → 2 ^ 64 ≤ sum → k.TrapReady →
        k.TrapsWhole i s 0x08 i.baseWord 0 0 0) ∧
      (k.l.tlcsrc c = 0 → a ≠ 0 → s.commandsOf k.w = false → sum < 2 ^ 64 → c < 16 → s.RaceFree k .read [] →
        ∃ t b, exec i s = .next t ∧ t = { s with waves := t.waves, launches := t.launches } ∧ t.waves[k.w]? = some b ∧
          (∀ j, j ≠ k.w → t.waves[j]? = s.waves[j]?) ∧
          (k.wv.freeUses us).Beyond b k.slot (fun x => x.after i.len) [] (useNames (k.dst f.d 1 0) false) [] ∧
          (OpField.isS f.d = true →
            b.sregs.lookup (k.sname (f.d.toNat - 128)) = some { val := BitVec.ofNat 64 sum, empty := false }) ∧
          b.pend = k.wv.pend ∧ b.fpflags = k.wv.fpflags ∧ t.tlcVal k.wv.launch c = sum ∧
          (∀ d, d ≠ c → d < 16 → t.tlcVal k.wv.launch d = s.tlcVal k.wv.launch d) ∧
          (∀ x g, t.launches[k.wv.launch]? = some x → x.gangs[k.wv.gang]? = some g → g.trace = true) ∧
          ∀ l, l ≠ k.wv.launch → t.launches[l]? = s.launches[l]?)) ∧
    (∀ k, s.ctx? = some k → (Instr.tlRead f).wf = true → k.Clear s [] (k.dst f.d 1 0) →
      k.Completes (.tlRead f) s [] [] (useNames (k.dst f.d 1 0) false) [] fun x b =>
        (OpField.isS f.d = true → b.sregs.lookup (k.sname (f.d.toNat - 128)) =
          some { val := BitVec.ofNat 64 (s.tlcVal k.wv.launch f.b.toNat), empty := false }) ∧
        b.pend = x.pend ∧ b.fpflags = x.fpflags) ∧
    (∀ (k : Ctx) (i : Instr) (w slot v : Nat), (Instr.tlWait f).wf = true →
      let us := k.use f.a f.actl 1 0
      let ds := k.dst f.d 1 0
      ((i = .tlWait f ∧ s.ctx? = some k ∧ v = k.scalSrc s.now f.lit 64 f.a ∧ k.Clear s us ds) ∨
       (i = .tlWaitSatisfied w slot ∧ s.waiter w slot = some k ∧ k.fr.st = .unit (.tlWait f) (.tlWait f.b.toNat v) ∧
        k.Resumes s us ds)) →
      let seen := s.tlcVal k.wv.launch f.b.toNat
      s.RaceFree k .read [] →
      (v ≤ seen → ∃ s1 t b, exec i s = .next t ∧ s.SyncStep s1 k b ∧
        t = { s1 with l1 := s.l1.filter fun e => e.core != k.wv.core } ∧
        (k.wv.freeUses us).Beyond b k.slot (fun x => x.after (Instr.tlWait f).len) [] (useNames ds false) [] ∧
        (OpField.isS f.d = true →
          b.sregs.lookup (k.sname (f.d.toNat - 128)) = some { val := BitVec.ofNat 64 seen, empty := false }) ∧
        b.pend = k.wv.pend ∧ b.fpflags = k.wv.fpflags) ∧
      (seen < v → i = .tlWait f → ∃ t b, exec i s = .next t ∧ s.SyncStep t k b ∧
        k.wv.Beyond b k.slot (fun x => { x with st := .unit i (.tlWait f.b.toNat v) }) [] [] [] ∧
        b.pend = k.wv.pend ∧ b.fpflags = k.wv.fpflags) ∧
      (seen < v → i = .tlWaitSatisfied w slot → exec i s = .next s))) ∧
  (∀ (gang : Bool) (f : RWord) (s : State) (k : Ctx),
    let i := if gang then Instr.gbar f else Instr.bar f
    i.wf = true → s.ctx? = some k → k.wv.status = .resident → s.RaceFree k .read [] →
    let li := k.wv.launch
    let g := k.wv.gang
    let kind := k.l.barKind gang
    let here := s.modFrag k.w k.slot fun x => { x with st := .barwait gang }
    let set := s.barSet li g k.wv.wg kind
    let ms := if kind then List.range k.l.wgCount else [k.wv.wg]
    let own := fun (m : Nat) => (k.l.wgLayers.lookup (4 * g + m)).getD [] ++ (s.waveUnits li g m k.l).flatten
    let up := fun (x : Frag) => if x.atBar k.l kind then x.after i.len else x
    ((∃ w v, w ∈ set ∧ here.waves[w]? = some v ∧ v.arrived k.l kind = false) →
      ∃ t b, exec i s = .next t ∧ s.SyncStep t k b ∧
        k.wv.Beyond b k.slot (fun x => { x with st := .barwait gang }) [] [] [] ∧ b.pend = k.wv.pend ∧
        b.fpflags = k.wv.fpflags ∧ b.layer = k.wv.layer ∧ b.epoch = k.wv.epoch ∧ (k.l.checked = false → t = here) ∧
        (k.l.checked = true → k.mateArrived kind = true → b.epochOpen = false)) ∧
    ((∀ w v, w ∈ set → here.waves[w]? = some v → v.arrived k.l kind = true) →
      (k.l.determ = true → (∀ m ∈ ms, layerConflicts (s.waveUnits li g m k.l) = []) ∧
        (kind = true → layerConflicts (ms.map own) = [])) →
      ∃ t, exec i s = .next t ∧ t = { s with waves := t.waves, l1 := t.l1, launches := t.launches } ∧
        (∀ w, w ∉ set → t.waves[w]? = s.waves[w]?) ∧
        (∀ w v, w ∈ set → here.waves[w]? = some v →
          let again := k.l.checked && v.status == .resident && (w == k.w || !v.epochOpen)
          t.waves[w]? = some { v with
            frag0 := v.frag0.map up, frag1 := v.frag1.map up, detSeen := false
            layer := if k.l.determ then [] else v.layer
            epochOpen := v.epochOpen || again
            epoch := if again then v.epoch + 1 else v.epoch
            epochStart := if again then s.now else v.epochStart
            raceSeen := if k.l.checked && w == k.w then [] else v.raceSeen }) ∧
        (∀ e, e ∈ t.l1 ↔ e ∈ s.l1 ∧ ¬ ((kind = true ∨ k.l.checked = true) ∧
          ∃ w v, w ∈ set ∧ s.waves[w]? = some v ∧ v.status = .resident ∧ v.core = e.core)) ∧
        (∀ n, n ≠ li → t.launches[n]? = s.launches[n]?) ∧ (k.l.determ = false → s.SetsStep t k) ∧
        (k.l.determ = true → ∃ y : Launch, t.launches[li]? = some y ∧
          y = { k.l with sets := y.sets, wgLayers := y.wgLayers, gangLayers := y.gangLayers } ∧
          (kind = false → y.gangLayers = k.l.gangLayers ∧
            ∀ q, y.wgLayers.lookup q = if q = 4 * g + k.wv.wg then some (own k.wv.wg) else k.l.wgLayers.lookup q) ∧
          (kind = true → (∀ q, y.wgLayers.lookup q = if q / 4 = g then none else k.l.wgLayers.lookup q) ∧
            ∀ q, y.gangLayers.lookup q =
              if q = g then some ((k.l.gangLayers.lookup g).getD [] ++ (ms.map own).flatten) else k.l.gangLayers.lookup q))))

/-- R212 to R214, R334: `spawn` completes in a launch that is not deterministic (in a deterministic one it traps
PROTECTION): with room it writes the active lanes' entries from TAIL on in lane order, advances TAIL by their
number (and the ring's timeline counter), sets their bits of Kc and gives each lane its slot; without room it
clears the bits, or traps when the word asks for it; without active lanes it does nothing. (What is written is
stated for plain memory and a job without a running instance, so that nothing is admitted; in a checked launch no
race is found.) To whom spawned entries belong is log entry 34. -/
def Obligations.TaskSpawn : Prop :=
  ∀ (f : RWord) (s : State) (k : Ctx), (Instr.spawn f).wf = true → s.ctx? = some k →
    let i := Instr.spawn f
    let act := k.active f.pk (modNP f.mod)
    let lanes := lanesOf act
    let us := k.use f.a f.actl 8 act ++ k.use f.b f.bctl 1 0
    let hdr := k.svalue f.b
    let hs := s.spawnAccess k .read 64 lanes fun _ => hdr
    let n := popcount act
    k.Clear s us (k.dst f.d 1 act) →
    (k.l.determ = true → k.TrapReady → k.TrapsWhole i s 0x0A i.baseWord 0 0 0) ∧
    (k.l.determ = false → act = 0 → k.Completes i s us [] [] [] fun x b => b.pend = x.pend ∧ b.fpflags = x.fpflags) ∧
    (k.l.determ = false → act ≠ 0 → (∀ r ∈ hs, r.bad = none) → ∀ s0 r0 h, s.memBegin k false true true hs = .ok s0 →
      hs.head? = some r0 → ringOf (s0.laneRead k true r0) = some h → (h.tlcen = true → k.l.tlcsrc h.tlc = 0) →
      (h.cap + h.head < h.tail + n → f.mod.getLsbD 0 = true → k.TrapReady → k.TrapsWhole i s 0x14 i.baseWord 0 0 0) ∧
      (h.cap + h.head < h.tail + n → f.mod.getLsbD 0 = false → s.RaceFree k .read [] →
        ∃ t b, exec i s = .next t ∧ t.waves[k.w]? = some b ∧ (s.Unheld → s.LoadStep t k b) ∧
          (k.wv.freeUses us).Beyond b k.slot (fun x => x.after i.len) [] [] [f.c.toNat] ∧
          (k.wv.freeUses us).PutsMask b f.c.toNat (act &&& k.ownLanes) 0 ∧ b.pend = k.wv.pend ∧ b.fpflags = k.wv.fpflags) ∧
      (h.tail + n ≤ h.cap + h.head →
        let es := s.spawnAccess k .write 32 lanes fun lane => (h.base + 32 * ((h.tail + memberIndex act lane) % h.cap)) % 2 ^ 64
        let ts := s.spawnAccess k .write 8 lanes fun _ => (hdr + 24) % 2 ^ 64
        (∀ r ∈ es ++ ts, r.bad = none) → ∀ s1, s0.memBegin k true true true (es ++ ts) = .ok s1 → s.RaceFree k .read [] →
        ∃ t b, exec i s = .next t ∧ t.waves[k.w]? = some b ∧
          (k.wv.freeUses us).Beyond b k.slot (fun x => x.after i.len) (useNames (k.dst f.d 1 act) true) [] [f.c.toNat] ∧
          (k.wv.freeUses us).PutsMask b f.c.toNat (act &&& k.ownLanes) act ∧ b.pend = k.wv.pend ∧
          b.fpflags = k.wv.fpflags ∧
          (OpField.isV f.d = true → (k.wv.freeUses us).PutsLanes b (k.vname f.d.toNat) act fun lane =>
            BitVec.ofNat 32 (h.tail + memberIndex act lane)) ∧
          (s.Unheld → s.Sound → s.inst? k.l.job = none → s.PlainLanes (es ++ ts) →
            ∃ s2, s.StoreStep s2 k b ∧ t = (if h.tlcen then s2.tlcAdd k.wv.launch h.tlc n else s2) ∧
              (∀ a, OutsideSpans (es ++ ts) a → Memory.get t.mem a = Memory.get s.mem a) ∧
              ((es ++ ts.take 1).Pairwise Apart →
                (∀ r ∈ es, ∀ sp pa, r.spans = [sp] → sp.pa? = some pa → ∀ j, j < 32 →
                  Memory.get t.mem (pa + j) = BitVec.ofNat 8 (k.vgroup f.a.toNat 8 r.lane / 256 ^ j)) ∧
                (∀ r ∈ ts, ∀ sp pa, r.spans = [sp] → sp.pa? = some pa → ∀ j, j < 8 →
                  Memory.get t.mem (pa + j) = BitVec.ofNat 8 ((h.tail + n) % 2 ^ 64 / 256 ^ j))))))

/-- R215 to R217, R338: `rg.open` and `rg.close` complete in a launch that is not deterministic (in a deterministic
one `rg.open` traps PROTECTION), and RG_OPEN_GRANTED (constructor rgOpenGranted) ends a wait: `rg.open` of a
well-formed range that no open grant conflicts with opens a grant under the lowest free handle of the cluster,
writes the handle to D, and for a write grant recalls the other holders' tokens of its lines; a conflict makes the
fragment wait; with no handle free D reads all ones; a malformed range traps OUT_OF_RANGE; `rg.close` closes a
grant of the wave, and traps PROTECTION for any other. No byte of memory changes. (In a checked launch each is a
synchronisation point at which no race is found.) Handles and bounds follow log entry 21. -/
def Obligations.RangeGrants : Prop :=
  ∀ (f : RWord) (s : State) (k : Ctx),
    (∀ (i : Instr) (w slot base stride count width : Nat) (wr : Bool), (Instr.rgOpen f).wf = true →
      let us := k.use f.a f.actl 1 0 ++ k.use f.b f.bctl 1 0 ++ k.use f.c f.cctl 1 0
      let ds := k.dst f.d 1 0
      ((i = .rgOpen f ∧ s.ctx? = some k ∧ base = k.scalSrc s.now f.lit 64 f.a ∧
          stride = k.scalSrc s.now f.lit 64 f.b % 2 ^ 32 ∧ count = k.scalSrc s.now f.lit 64 f.b / 2 ^ 32 ∧
          width = k.scalSrc s.now f.lit 64 f.c ∧ wr = f.mod.getLsbD 0 ∧ k.Clear s us ds) ∨
       (i = .rgOpenGranted w slot ∧ s.waiter w slot = some k ∧
          k.fr.st = .unit (.rgOpen f) (.rgOpen base stride count width wr) ∧ k.Resumes s us ds)) →
      let g := fun (h : Nat) => ({ handle := h, cl := k.cl, wave := k.w, base := base, stride := stride, count := count,
                                   width := width, write := wr, part := k.part } : Grant)
      let taken := fun (h : Nat) => ∃ x ∈ s.grants, x.cl = k.cl ∧ x.handle = h
      let clash := ∃ x ∈ s.grants, (g 0).conflicts x = true
      (k.l.determ = true → i = .rgOpen f → k.TrapReady → k.TrapsWhole i s 0x0A i.baseWord 0 0 0) ∧
      (k.l.determ = false → grantFaulty base stride count width = true → i = .rgOpen f → k.TrapReady →
        k.TrapsWhole i s 0x08 i.baseWord 0 0 0) ∧
      (k.l.determ = false → grantFaulty base stride count width = false → s.RaceFree k .read [] →
        (∀ h, h < 64 → ¬ taken h → (∀ j, j < h → taken j) → ¬ clash →
          ∃ t b, exec i s = .next t ∧ t.waves[k.w]? = some b ∧ (∀ j, j ≠ k.w → t.waves[j]? = s.waves[j]?) ∧
            t.grants = s.grants ++ [g h] ∧ t.mem = s.mem ∧
            (k.wv.freeUses us).Beyond b k.slot (fun x => x.after (Instr.rgOpen f).len) [] (useNames ds false) [] ∧
            (OpField.isS f.d = true →
              b.sregs.lookup (k.sname (f.d.toNat - 128)) = some { val := BitVec.ofNat 64 h, empty := false }) ∧
            b.pend = k.wv.pend ∧ b.fpflags = k.wv.fpflags ∧
            (wr = true → ∀ ln ∈ s.grantLines k (g h), ∀ x ∈ t.tokens, x.line = ln → x.holder = .cluster k.cl) ∧
            (k.l.checked = false →
              ∃ s1, s.WaveStep s1 k.w b ∧ t = { s1.grantRecall k (g h) with grants := s.grants ++ [g h] })) ∧
        ((∀ h, h < 64 → taken h) → i = .rgOpen f → ∃ t b, exec i s = .next t ∧ s.SyncStep t k b ∧
          (k.wv.freeUses us).Beyond b k.slot (fun x => x.after i.len) [] (useNames ds false) [] ∧
          (OpField.isS f.d = true →
            b.sregs.lookup (k.sname (f.d.toNat - 128)) = some { val := BitVec.allOnes 64, empty := false }) ∧
          b.pend = k.wv.pend ∧ b.fpflags = k.wv.fpflags) ∧
        ((∃ h, h < 64 ∧ ¬ taken h) → clash → i = .rgOpen f → ∃ t b, exec i s = .next t ∧ s.SyncStep t k b ∧
          k.wv.Beyond b k.slot (fun x => { x with st := .unit i (.rgOpen base stride count width wr) }) [] [] [] ∧
          b.pend = k.wv.pend ∧ b.fpflags = k.wv.fpflags))) ∧
    ((Instr.rgClose f).wf = true → s.ctx? = some k →
      let i := Instr.rgClose f
      let us := k.use f.a f.actl 1 0
      let h := k.scalSrc s.now f.lit 64 f.a
      k.Clear s us [] →
      ((∃ x ∈ s.grants, x.handle = h ∧ x.cl = k.cl ∧ x.wave = k.w) → s.RaceFree k .read [] →
        ∃ s1 t b, exec i s = .next t ∧ s.SyncStep s1 k b ∧
          t = { s1 with grants := s.grants.filter fun x => !(x.handle == h && x.cl == k.cl && x.wave == k.w) } ∧
          (k.wv.freeUses us).Beyond b k.slot (fun x => x.after i.len) [] [] [] ∧ b.pend = k.wv.pend ∧
          b.fpflags = k.wv.fpflags) ∧
      ((∀ x ∈ s.grants, ¬ (x.handle = h ∧ x.cl = k.cl ∧ x.wave = k.w)) → k.TrapReady → k.TrapsWhole i s 0x0A i.baseWord 0 0 0))

/-- R218, R219, R454, R457: `ck.begin` (constructor ckBegin) and `ck.seal` (ckSeal) complete: the first opens
checkpoint n of a domain and writes OPEN and STATE to its header; the second, of the open checkpoint, with every
CK write of the wave accepted, writes the seal record to the log region, then makes n the sealed one in the
header, returns the number of its lines, and leaves no line or undo copy of the interval in the buffer; the other
bytes of memory keep their values. Without the grant of checkpoint control, or in a deterministic launch, both
trap PROTECTION, outside their ranges or without the domain OUT_OF_RANGE; a seal waits for CK writes not accepted.
R452, R455, R456: CK_WRITE_ACCEPTED (constructor ckWriteAccepted) completes: a CK write is accepted after the
earlier ones to its line, unless the persistence unit is under restart: it enters the unit's buffer, and the first
of its interval tags the line, with an undo copy of what the line held in the log region, or without room marks
NOUNDO; memory keeps every byte but those of the domain's header and of the undo copy. The read for an undo copy
may wait for a regulator. (No regulator holds a read back otherwise.) How many undo copies a log holds is free
(log entry 15); other corners follow log entry 26. -/
def Obligations.CheckpointsAndWrites : Prop :=
  (∀ (i : Instr) (f : RWord) (opening : Bool) (s : State) (k : Ctx),
    i = (if opening then .ckBegin f else .ckSeal f) → i.wf = true → s.ctx? = some k →
    let us := k.use f.a f.actl 1 0 ++ k.use f.b f.bctl 1 0
    let ds := if opening then [] else k.dst f.d 1 0
    let d := k.scalSrc s.now f.lit 64 f.a
    let n := k.scalSrc s.now f.lit 64 f.b
    k.Clear s us ds →
    ((k.l.ckctl = false ∨ k.l.determ = true) → k.TrapReady → k.TrapsWhole i s 0x0A i.baseWord 0 0 0) ∧
    (k.l.ckctl = true → k.l.determ = false →
      (7 < d ∨ s.domain? k.part d = none → k.TrapReady → k.TrapsWhole i s 0x08 i.baseWord 0 0 0) ∧
      ∀ x, d ≤ 7 → s.domain? k.part d = some x →
        ((if opening then x.openCk ≠ 0 ∨ n ≤ x.rcp else x.openCk ≠ n ∨ n = 0) → k.TrapReady →
          k.TrapsWhole i s 0x08 i.baseWord 0 0 0) ∧
        (opening = false → x.openCk = n → n ≠ 0 → s.ckOutstanding k.w = true →
          k.Goes i s [] (fun v => { v with st := .opwait }) [] [] [] fun a b => b.pend = a.pend ∧ b.fpflags = a.fpflags) ∧
        ((if opening then x.openCk = 0 ∧ x.rcp < n else x.openCk = n ∧ n ≠ 0 ∧ s.ckOutstanding k.w = false) →
          s.persistDown = false →
          ∃ t b y, exec i s = .next t ∧
            t = { s with waves := t.waves, domains := t.domains, mem := t.mem, ckBuf := t.ckBuf, regs := t.regs } ∧
            t.waves[k.w]? = some b ∧ (∀ j, j ≠ k.w → t.waves[j]? = s.waves[j]?) ∧
            (k.wv.freeUses us).Past b k.slot (fun v => v.after i.len) [] (useNames ds false) [] ∧
            b.pend = k.wv.pend ∧ b.fpflags = k.wv.fpflags ∧
            t.domain? k.part d = some y ∧
            (∀ p e, (p, e) ≠ (k.part, d) →
              (t.domain? p e).map (fun z => { z with outlog := [] }) = (s.domain? p e).map fun z => { z with outlog := [] }) ∧
            (∀ a, (a < x.logbase ∨ x.logbase + 64 ≤ a) →
              (opening = true ∨ a < 64 * x.logLine 0 n ∨ 64 * x.logLine 0 n + 128 ≤ a) →
              Memory.get t.mem a = Memory.get s.mem a) ∧
            (∀ j, j < 64 → Memory.get t.mem (x.logbase + j) = BitVec.ofNat 8 (y.header / 256 ^ j)) ∧
            (opening = true → y = { x with openCk := n, state := 1 } ∧ t.ckBuf = s.ckBuf) ∧
            (opening = false →
              (OpField.isS f.d = true → b.sregs.lookup (k.sname (f.d.toNat - 128)) =
                some { val := BitVec.ofNat 64 x.tags.length, empty := false }) ∧
              y.rcp = n ∧ y.openCk = 0 ∧ y.state = 0 ∧ y.noundo = false ∧ y.sealtime = s.now ∧ y.tags = [] ∧ y.undo = [] ∧
              (∃ sl, y.seals.head? = some sl ∧ sl.n = n ∧ sl.count = x.tags.length ∧ sl.time = s.now ∧
                sl.digest = s.lineDigest x.tags ∧ sl.prev = x.rcp ∧ sl.undo = x.undo ∧
                (x.logbase % 64 = 0 →
                  let at_ := 64 * x.logLine 0 n
                  let record := ofBytes (Memory.read t.mem at_ 128)
                  field record 0 64 = n % 2 ^ 64 ∧ field record 64 64 = x.tags.length % 2 ^ 64 ∧
                    field record 128 64 = s.now % 2 ^ 64 ∧ Memory.read t.mem (at_ + 24) 64 = s.lineDigest x.tags ∧
                    field record 704 320 = 0)) ∧
              ∀ l, l ∈ t.ckBuf ↔ l ∈ s.ckBuf ∧ l ∉ x.tags ∧ ∀ u ∈ x.undo, x.undoLine u.1 ≠ l)))) ∧
  (∀ (k : Nat) (s : State), let run := exec (.ckWriteAccepted k) s
    (s.ckPend[k]? = none ∨ s.persistDown = true → run = .next s) ∧
    ∀ w, s.ckPend[k]? = some w → s.persistDown = false →
      ((∃ (j : Nat) (v : CkWrite), j < k ∧ s.ckPend[j]? = some v ∧ v.line = w.line) → run = .next s) ∧
      ((∀ (j : Nat) (v : CkWrite), j < k → s.ckPend[j]? = some v → v.line ≠ w.line) →
        ∀ x, s.domain? w.part w.d = some x → x.logbase % 64 = 0 →
        let reads := s.persistReads (if x.copies w.line then [w.line] else [])
        (reads.2 = false → run = .next reads.1) ∧
        (reads.2 = true → s.Unheld → ∃ t : State, run = .next t ∧
          t = { s with ckPend := s.ckPend.eraseIdx k, ckBuf := t.ckBuf, domains := t.domains, parts := t.parts, mem := t.mem,
                       regs := t.regs, granted := t.granted } ∧
          (s.ckBuf.length + 2 ≤ 131072 → w.line ∈ t.ckBuf ∧ ∀ l ∈ s.ckBuf, l ∈ t.ckBuf) ∧
          let held := fun (a : Nat) => a / 64 = x.logbase / 64 ∨ (x.copies w.line = true ∧ a / 64 = x.undoLine w.line)
          (∀ a, ¬ held a → Memory.get t.mem a = Memory.get s.mem a) ∧
          (w.line ∈ x.tags → t.domain? w.part w.d = some x ∧ t.parts = s.parts) ∧
          (¬ w.line ∈ x.tags → x.undoHeld < Config.undoRoom x.logsize →
            t.domain? w.part w.d = some { x with tags := x.tags ++ [w.line], undo := (w.line, w.old) :: x.undo } ∧
            Memory.line t.mem (x.undoLine w.line) = w.old ∧ t.parts = s.parts) ∧
          (¬ w.line ∈ x.tags → Config.undoRoom x.logsize ≤ x.undoHeld →
            t.domain? w.part w.d = some { x with tags := x.tags ++ [w.line], noundo := true }))))

/-! ## Engines -/

/-- R220, R222 to R224, R242, R334: the posting instructions (constructors ceCopy, ceFill, ceGatherrows, lrFlush,
mxPost, tvPair, tvBox, tvResume, rsTri, rsSplat, visFlow, visDisp and visRefine) complete, in every launch, on a
cluster with their engine when the descriptor passes its checks, nothing makes its read wait and their queue has
room, at issue or by ENGINE_QUEUE_ROOM (engineQueueRoom), which then completes too: SEQ and the acceptance count
grow by one, the ticket is on its way to D, and the queued command holds a copy of the descriptor, and in a
deterministic launch what the wave sees. Without room the fragment waits; without the engine, or on a counter that
a stream port drives (R367), it traps PROTECTION, on an address that is no multiple of 64 MISALIGNED. R251, R252:
on an M-cluster `mx.status` and `mx.cancel` (constructors mxStatus, mxCancel) complete: `mx.status` sends D the
state, the flags and the steps of the record with SEQ A among the wave's 64 newest, or 6 (UNKNOWN); `mx.cancel`
sends D the number of the wave's records with a SEQ above A that have not started, each of which ends as
CANCELLED, and then what is due happens (`publish` of R224, `settle`); on a G-cluster both trap PROTECTION. In
every launch. The posting instructions are those of `ce.copy`, `ce.fill`, `ce.gatherrows`, `lr.flush`, `mx.post`,
`tv.pair`, `tv.box`, `tv.resume`, `rs.tri`, `rs.splat`, `vis.flow`, `vis.disp` and `vis.refine`. The capacities
follow log entry 20. -/
def Obligations.EnginePosting : Prop :=
  (∀ (i j : Instr) (f : RWord) (s : State) (k : Ctx) (a b c : Word64) (w slot : Nat), engineWord i = some f → i.wf = true →
    let src := fun (x : BitVec 8) => BitVec.ofNat 64 (if OpField.isNone x then 0 else k.scalSrc s.now f.lit 64 x)
    let e := engineOf i
    let tick := f.mod.toNat % 16
    let us := k.use f.a f.actl 1 0 ++ k.use f.b f.bctl 1 0 ++ k.use f.c f.cctl 1 0
    let ds := k.dst f.d 1 0
    let rs := s.descRead k a.toNat e.2
    let ticket := (k.l.acnt.toList.getD tick 0).toNat + 1
    ((j = i ∧ s.ctx? = some k ∧ k.Clear s us ds ∧ a = src f.a ∧ b = src f.b ∧ c = src f.c) ∨
     (j = .engineQueueRoom w slot ∧ s.waiter w slot = some k ∧ k.Resumes s us ds ∧ k.fr.st = .unit i (.engine a b c))) →
    (e.1 = .tsq → slotInvalid (k.l.slot f.dt.toNat) = false) →
    ((hasEngine k.cl e.1 = false ∨ k.l.tlcsrc tick ≠ 0) → j = i → k.TrapReady → k.TrapsWhole i s 0x0A i.baseWord 0 0 0) ∧
    (hasEngine k.cl e.1 = true → k.l.tlcsrc tick = 0 →
      (e.2 ≠ 0 → a.toNat % 64 ≠ 0 → j = i → k.TrapReady → k.TrapsWhole i s 0x07 i.baseWord a.toNat 0 0) ∧
      ∀ s0, (e.2 = 0 ∨ a.toNat % 64 = 0) → (∀ r ∈ rs, r.bad = none) → s.memBegin k false false true rs = .ok s0 →
        (s0.engineRoom k i = true →
          ∃ t x y cmd, exec j s = .next t ∧ t.waves[k.w]? = some x ∧ x.seq = k.wv.seq + 1 ∧
            (k.wv.freeUses us).Beyond { x with seq := k.wv.seq } k.slot (fun v => v.after i.len) [] (useNames ds false) [] ∧
            x.fpflags = k.wv.fpflags ∧ x.layer = k.wv.layer ∧
            (OpField.isS f.d = false → x.pend = k.wv.pend) ∧
            (OpField.isS f.d = true → ∃ p, x.pend = k.wv.pend ++ [p] ∧
              p.CarriesScalar (k.sname (f.d.toNat - 128)) (BitVec.ofNat 64 ticket)) ∧
            (∀ n, n ≠ k.wv.launch → t.launches[n]? = s.launches[n]?) ∧
            t.launches[k.wv.launch]? = some y ∧ y = { k.l with acnt := y.acnt } ∧
            (∀ n : Fin 16, y.acnt[n] = if n.val = tick then BitVec.ofNat 64 ticket else k.l.acnt[n]) ∧
            t.cmds = s.cmds ++ [cmd] ∧ cmd.Unstarted ∧
            cmd.wave = k.w ∧ cmd.launch = k.wv.launch ∧ cmd.cl = k.cl ∧ cmd.eng = e.1 ∧ cmd.word = i ∧
            cmd.seq = k.wv.seq + 1 ∧ cmd.tick = tick ∧ cmd.ticket = ticket ∧ cmd.daddr = a.toNat ∧ cmd.hb = b ∧ cmd.hc = c ∧
            cmd.view = (if k.l.determ then s.viewOps k.wv else []) ∧
            cmd.desc = BitVec.ofNat 1024 (ofBytes (rs.flatMap fun r => r.spans.flatMap (s0.spanRead k true))) ∧
            (s.Unheld → ∃ u, s.LoadStep u k x ∧ t = { u with launches := t.launches, cmds := t.cmds })) ∧
        (s0.engineRoom k i = false →
          ∃ t x, exec j s = .next t ∧ t.waves[k.w]? = some x ∧
            k.wv.Beyond x k.slot (fun v => { v with st := .unit i (.engine a b c) }) [] [] [] ∧
            x.pend = k.wv.pend ∧ x.fpflags = k.wv.fpflags ∧ x.layer = k.wv.layer ∧ (s.Unheld → s.LoadStep t k x)))) ∧
  (∀ (i : Instr) (f : RWord) (s : State) (k : Ctx), (i = .mxStatus f ∨ i = .mxCancel f) → i.wf = true → s.ctx? = some k →
    let us := k.use f.a f.actl 1 0
    let q := k.scalSrc s.now f.lit 64 f.a
    let mine := s.cmds.filter fun c => c.isRecord && c.wave == k.w
    let hit := fun (c : Cmd) => c.isRecord = true ∧ c.wave = k.w ∧ c.st = .queued ∧ c.begun = false ∧ q < c.seq
    let sends := fun (b : Wave) (v : Nat) =>
      (OpField.isS f.d = false → b.pend = k.wv.pend) ∧
      (OpField.isS f.d = true → ∃ p, b.pend = k.wv.pend ++ [p] ∧
        p.CarriesScalar (k.sname (f.d.toNat - 128)) (BitVec.ofNat 64 v))
    k.Clear s us (k.dst f.d 1 0) →
    (isG k.cl = true → k.TrapReady → k.TrapsWhole i s 0x0A i.baseWord 0 0 0) ∧
    (isG k.cl = false → i = .mxStatus f → ∃ v,
      k.Completes i s us [] (useNames (k.dst f.d 1 0) false) [] (fun x b => b.fpflags = x.fpflags ∧ sends b v) ∧
      ((∀ c ∈ mine.drop (mine.length - 64), c.seq ≠ q) → v = 6) ∧
      (∀ c, (mine.drop (mine.length - 64)).find? (fun c => c.seq == q) = some c →
        v / 2 ^ 16 = c.step % 2 ^ 16 ∧ (v / 2 ^ 9 % 2 = 1 ↔ c.badscale = true) ∧
        (v / 2 ^ 8 % 2 = 1 ↔ c.sat = true ∨ c.flags.getLsbD 5 = true) ∧
        (c.code = 2 → v % 8 = 3) ∧ (c.code = 1 → v % 8 = 4) ∧ (c.code = 7 → v % 8 = 5) ∧
        (c.code = 0 → v % 8 = match c.st with | .queued => 0 | .started | .faulted _ => 1 | .finished | .retired => 2))) ∧
    (isG k.cl = false → i = .mxCancel f → ∃ (u : State) (b : Wave), exec i s = .next (State.settle (State.publish u)) ∧
      u = { s with waves := u.waves, cmds := u.cmds, clusters := u.clusters, parts := u.parts, launches := u.launches,
                   granted := u.granted, regs := u.regs } ∧
      (∀ n : Nat, (u.launches[n]?).map (fun (x : Launch) => { x with gangs := [] }) =
        (s.launches[n]?).map fun (x : Launch) => { x with gangs := [] }) ∧
      u.waves[k.w]? = some b ∧ (∀ j, j ≠ k.w → u.waves[j]? = s.waves[j]?) ∧
      (k.wv.freeUses us).Past b k.slot (fun x => x.after i.len) [] (useNames (k.dst f.d 1 0) false) [] ∧
      b.fpflags = k.wv.fpflags ∧
      (∃ n, n = (s.cmds.filter fun c => c.discards k.w q).length ∧ sends b n) ∧
      u.cmds.length = s.cmds.length ∧
      ∀ (j : Nat) (c : Cmd), s.cmds[j]? = some c → (¬ hit c → u.cmds[j]? = some c) ∧
        (hit c → u.cmds[j]? = some { c with st := .finished, code := 2 })))

/-- R226, R229, R238, R418: COMMAND_START (constructor commandStart) completes, in every launch: it leaves a queued
command queued while its engine waits for the fault of another command, while a predecessor has not retired, or,
in a launch that is not deterministic, while an earlier command of its wave on its engine has not started; a
descriptor whose KIND is not its cell's is rejected with DETAIL 0; `lr.flush` drops its layout record, or every
one of the cluster's cache, and has then only to retire. R239, R240: a `ce.copy`, `ce.fill` or `ce.gatherrows`
whose checks pass gives every element of a destination in scratch the element of the source at its source
coordinates, or PAD outside the extents, or the fill value; COUNT is the number of elements, every scratch byte
outside the destination's span and every byte of memory keep their values. In every launch; COMMAND_START
(commandStart) completes so when the locks are free, no running command of a deterministic launch overlaps it
(R234), and the bytes that it reads can be read at once. The order of the checks follows log entry 19; a step's
extent is the model's choice (log entry 7). -/
def Obligations.CopyEngine : Prop :=
  (∀ (j : Nat) (s : State) (c : Cmd), s.cmds[j]? = some c →
    (s.engineStalled j = true → exec (.commandStart j) s = .next s) ∧
    (c.st = .queued → c.blocked = false →
      (∃ d ∈ s.cmds, ∃ p ∈ c.preds, p ≠ 0 ∧ p < c.seq ∧ d.wave = c.wave ∧ d.seq + p = c.seq ∧ d.unfinished = true) →
      exec (.commandStart j) s = .next s) ∧
    (c.st = .queued → c.blocked = false → s.cmdDeterm c = false →
      (∃ d ∈ s.cmds, d.wave = c.wave ∧ d.seq < c.seq ∧ d.eng = c.eng ∧ d.st = .queued ∧ d.begun = false) →
      exec (.commandStart j) s = .next s) ∧
    (c.Unstarted → s.engineStalled j = false → s.canStart c = true → c.isRecord = false → (∀ f, c.word ≠ .lrFlush f) →
      c.desc.toNat % 256 ≠ kindOf c.word →
      ∃ t, exec (.commandStart j) s = .next t ∧
        t = { s with cmds := t.cmds, clusters := t.clusters, parts := t.parts, granted := t.granted, regs := t.regs } ∧
        s.CmdBecomes t j { c with st := .started, begun := true, ran := true, code := 1, detail := 0 } ∧
        ∀ n, (t.scratchByte n) = s.scratchByte n) ∧
    (∀ f x, c.word = .lrFlush f → c.Unstarted → s.engineStalled j = false → s.canStart c = true → c.isRecord = false → s.clusters[c.cl]? = some x →
      ∃ t y, exec (.commandStart j) s = .next t ∧ t = { s with cmds := t.cmds, clusters := t.clusters } ∧
        s.CmdBecomes t j { c with st := .started, begun := true, ran := true } ∧
        (∀ n, n ≠ c.cl → t.clusters[n]? = s.clusters[n]?) ∧ t.clusters[c.cl]? = some y ∧
        y = { x with lcache := y.lcache, lpoison := y.lpoison } ∧
        ∀ e, e ∈ y.lcache ↔ e ∈ x.lcache ∧
          ¬ (c.daddr % 2 ^ 32 = 2 ^ 32 - 1 ∨ e.1 = c.launch ∧ e.2.1 = c.daddr % 2 ^ 32))) ∧
  (∀ (j : Nat) (s s1 : State) (c : Cmd) (ts : List Tensor) (touch : List MemSpan) (t : Tensor) (cl : Nat) (v : Nat → Nat),
    s.cmds[j]? = some c → c.Unstarted → c.eng = .ce → isCopy c.word = true → s.engineStalled j = false →
    s.canStart c = true → s.scratchOverlap j { c with touch := touch } = false → (∀ q ∈ s.granted, q.who ≠ c.reader) →
    s.ceSetup c = .ok (s1, .go ts touch) → s1.lockFree j (lockWants touch) = true →
    ts.getLast? = some t → t.g = some cl → (∀ x, s.clusters[cl]? = some x → x.spoison = []) → cl < s.clusters.length →
    (∀ i, i < t.count →
      let cs := Tensor.coords t.ext i
      (∀ f, c.word = .ceFill f → v i = t.padValue (field c.desc.toNat 256 32)) ∧
      (∀ f, c.word ≠ .ceFill f → ∃ b row src, ts = [b, t] ∧ CopySource c.word c.desc.toNat cs row src ∧
        (∀ g, c.word = .ceGatherrows g → ∃ at_ bs,
          s1.arrayPlace c (field c.desc.toNat 256 64) (4 * t.ext.getLastD 0) = some at_ ∧
          s1.eRead c at_.1 (at_.2 + 4 * cs.getLastD 0) 4 = .ok bs ∧ ofBytes bs = row) ∧
        (InExtents src b.ext → s1.eltRead c b (b.lin (src.map Int.toNat)) = .ok (v i)) ∧
        (¬ InExtents src b.ext → v i = b.padValue b.pad))) →
    ∃ u d, exec (.commandStart j) s = .next u ∧ u = { s with cmds := u.cmds, clusters := u.clusters } ∧
      s.CmdBecomes u j d ∧ d.st = .started ∧ d.ran = true ∧ d.code = 0 ∧ d.count = t.count ∧
      s.ClusterData u ∧ (∀ n a, n ≠ cl ∨ a < t.base ∨ t.base + t.spanLen ≤ a → u.scratchByte n a = s.scratchByte n a) ∧
      ∀ i, i < t.count → u.eltRead d t (t.lin (Tensor.coords t.ext i)) = .ok (v i))

/-- R224, R225, R227, R228, R310, R334, R446: COMMAND_RETIRE (constructor commandRetire) completes, in every launch:
of a command whose work is done it writes STATUS at bits 191 to 128 of its descriptor in memory (not for
`lr.flush` and records), in a deterministic launch it adds that write, after the command's others, to the posting
wave's layer instead, it frees its locks, leaves TRACE on its gang and, once every command accepted before it on
its counter has retired, adds one to the counter; a command that has not done its work does not retire. (A STATUS
in plain memory.) R228, R256, R419 to R421: FAULT_RETRY and FAULT_DECLINE (constructors faultRetry, faultDecline)
complete. DECLINE of a pending token ends the command with CODE = FAULT, or without its STATUS where that write
faulted, with the records that a descent has written still to be released, unless that write failed; RETRY drops
the cluster's cached translations of the partition and continues the command from its access. Both free the token
and the row-progress register; a token that is not pending changes nothing. What a retry drops follows log entry
20. -/
def Obligations.RetirementAndFaults : Prop :=
  (∀ (j : Nat) (s : State) (c : Cmd) (l : Launch), s.cmds[j]? = some c → s.launches[c.launch]? = some l →
    ((c.blocked = false ∧ ¬ (c.st = .started ∧ c.ran = true)) ∨ s.engineStalled j = true →
      exec (.commandRetire j) s = .next s) ∧
    (c.st = .started → c.ran = true → c.todo = [] → c.blocked = false → s.engineStalled j = false → s.Sound →
      (c.hasStatus = true → c.daddr % 64 = 0 ∧ ∃ pa leaf x y,
        s.access l.part (clusterAgents c.cl) .write false (c.daddr + 16) 8 = .ok pa leaf x y ∧ outbound pa = false ∧
        (l.determ = false → leafCK leaf = false ∧ (∀ d ∈ s.domains, d.logbase + 40 ≠ pa) ∧
          s.engineHold c true (c.daddr + 16) pa 8 leaf = none)) →
      ∃ u, exec (.commandRetire j) s = .next (State.settle (State.publish u)) ∧
        u.launches = (s.traceCmd c).launches ∧
        s.CmdBecomes u j { c with st := .finished, wstat := false, out := [] } ∧
        (∀ x ∈ u.clusters, ∀ k ∈ x.locks, k.cmd ≠ j) ∧
        (∀ w v, s.waves[w]? = some v → w ≠ c.wave → u.waves[w]? = some v) ∧
        ((c.hasStatus = false ∨ l.determ = true) → u.mem = s.mem) ∧
        ((c.hasStatus = false ∨ l.determ = false) → ∀ v, s.waves[c.wave]? = some v →
          u.waves[c.wave]? = some { v with layer := v.layer ++ c.out }) ∧
        (∀ pa leaf x y, c.hasStatus = true →
          s.access l.part (clusterAgents c.cl) .write false (c.daddr + 16) 8 = .ok pa leaf x y →
          let status := c.code % 256 + 2 ^ 8 * (c.detail % 256) + 2 ^ 16 * (c.count % 2 ^ 32)
          (l.determ = false → (∀ n, n < 8 → Memory.get u.mem (pa + n) = BitVec.ofNat 8 (status / 256 ^ n)) ∧
            ∀ a, a < pa ∨ pa + 8 ≤ a → Memory.get u.mem a = Memory.get s.mem a) ∧
          (l.determ = true → ∀ v, s.waves[c.wave]? = some v →
            u.waves[c.wave]? = some { v with layer := v.layer ++ (c.out ++ storeOps pa (c.daddr + 16) 8 leaf status) })) ∧
        ((∀ d ∈ s.cmds, d.st ≠ .finished) →
          ((∀ n d, n < j → s.cmds[n]? = some d → d.launch = c.launch → d.tick = c.tick → d.st = .retired) →
            ((State.publish u).cmds[j]?).map (·.st) = some .retired ∧
            ∃ y, (State.publish u).launches[c.launch]? = some y ∧ ∀ n : Fin 16,
              y.tlc[n] = if n.val = c.tick then l.tlc[n] + 1 else l.tlc[n]) ∧
          ((∃ n d, n < j ∧ s.cmds[n]? = some d ∧ d.launch = c.launch ∧ d.tick = c.tick ∧ d.st ≠ .retired) →
            State.publish u = u)))) ∧
  (∀ (p token : Nat) (s : State), 
    (∀ i, (i = .faultRetry p token ∨ i = .faultDecline p token) →
      (∀ f ∈ (s.parts.getD p Part.reset).faults, f.token ≠ token) → exec i s = .next s) ∧
    ∀ f c x, s.parts[p]? = some x → x.faults.find? (fun e => e.token == token) = some f → s.cmds[f.cmd]? = some c →
      let freed : State := { s with
        parts := s.parts.modify p fun y => { y with faults := y.faults.filter fun e => e.token != token }
        clusters := s.clusters.map fun y => { y with rowprog := y.rowprog.filter fun r => r.cmd != f.cmd } }
      let mine := fun (a q : Nat) => q = p ∧ a ∈ clusterAgents c.cl
      (c.wstat = false → ∃ t e, exec (.faultDecline p token) s = .next t ∧ t = { freed with cmds := t.cmds } ∧
        s.CmdBecomes t f.cmd e ∧ e = { c with st := .started, begun := true, ran := true, code := 4, todo := e.todo, rows := [] } ∧
        (c.tv = none → e.todo = []) ∧
        ∀ v, c.tv = some v → e.todo =
          if c.todo.head?.map (·.a) = some (tvQhdr c.desc.toNat + 24) then [] else v.release (tvQhdr c.desc.toNat)) ∧
      (c.wstat = true → exec (.faultDecline p token) s = .next (freed.cmdFinish f.cmd)) ∧
      ∃ u, u = { freed with tlb := u.tlb, walks := u.walks, cmds := u.cmds } ∧
        (∀ e, e ∈ u.tlb ↔ e ∈ s.tlb ∧ ¬ mine e.agent e.part) ∧ (∀ e, e ∈ u.walks ↔ e ∈ s.walks ∧ ¬ mine e.agent e.part) ∧
        s.CmdBecomes u f.cmd { c with st := .started, detail := if c.wstat then c.detail else 0 } ∧
        exec (.faultRetry p token) s = .next (
          if c.ran then u.retireCmd f.cmd
          else if c.isRecord then (if c.op = 3 ∨ c.op = 4 then u.cmdWork f.cmd else u.stepRec f.cmd)
          else u.cmdGo f.cmd { c with st := .started, detail := if c.wstat then c.detail else 0 }))

/-- R230, R242, R243, R245, R246, R249: the events that start records (constructors commandStart, mm, mmz, cvacc,
ewiseConvert, ewiseBias, ewiseRelu, ewiseScale, rsum, rckpt and rwait) complete, in every launch. A record that
may start starts: `mm`, `mmz` and `rsum` go on step by step, `mmz` with its accumulator region zeroed; `rckpt`
retires at once but where a recess is pending under DECLARED, and `rwait` once its counter has reached WBASE. A
record whose slots fault is rejected and its wave takes FORMAT_SLOT at its next boundary; one that breaks R243 is
rejected. (`cvacc` and `ewise` do their work as they start, ElementwiseRecords; no running command of a
deterministic launch overlaps the record, R233.) The order of the checks follows log entry 19. -/
def Obligations.RecordStart : Prop :=
  ∀ (i : Instr) (j : Nat) (P : Cmd → Prop) (s : State) (c : Cmd) (f : RWord), recordForm i = some (j, P) →
    s.cmds[j]? = some c → P c → c.isRecord = true → c.word = .mxPost f → c.Unstarted →
    s.engineStalled j = false → s.canStart c = true →
    let go := { c with st := CmdState.started, begun := true }
    let ends := fun (u : State) => exec i s = .next (State.settle (State.publish u)) ∧ u.launches = (s.traceCmd c).launches ∧
      u.mem = s.mem ∧ u.waves = s.waves ∧ s.CmdBecomes u j { go with st := .finished, ran := true, wstat := false }
    (s.slotsFault c = true → ∀ v, s.waves[c.wave]? = some v → v.status ≠ .retired → c.launch < s.launches.length →
      ∃ t, exec i s = .next t ∧ 
        t = { s with cmds := t.cmds, clusters := t.clusters, parts := t.parts, waves := t.waves, granted := t.granted,
                     regs := t.regs } ∧
        s.CmdBecomes t j { go with ran := true, code := 1, detail := 0 } ∧
        t.waves[c.wave]? = some { v with deferred := v.deferred ++ [(0x16, c.seq)] } ∧
        ∀ n, n ≠ c.wave → t.waves[n]? = s.waves[n]?) ∧
    (s.slotsFault c = false → s.recFaulty c = true →
      ∃ t, exec i s = .next t ∧
        t = { s with cmds := t.cmds, clusters := t.clusters, parts := t.parts, granted := t.granted, regs := t.regs } ∧
        s.CmdBecomes t j { go with ran := true, code := 1, detail := 0 } ∧ ∀ n a, t.acmAt n a = s.acmAt n a) ∧
    (s.slotsFault c = false → s.recFaulty c = false →
      (c.op = 1 ∨ c.op = 2 ∨ c.op = 5 → s.scratchOverlap j { c with touch := s.recTouch c } = false →
        ∃ t d, exec i s = .next t ∧ t = { s with cmds := t.cmds, clusters := t.clusters } ∧ s.CmdBecomes t j d ∧
          d = { go with touch := d.touch } ∧ s.ClusterData t ∧
          (∀ n a, c.op = 2 ∧ n = c.cl ∧ n < s.clusters.length ∧ recAcmo c.desc.toNat ≤ a ∧
              a < recAcmo c.desc.toNat + recM c.desc.toNat * recN c.desc.toNat → t.acmAt n a = 0) ∧
          ∀ n a, ¬ (c.op = 2 ∧ n = c.cl ∧ n < s.clusters.length ∧ recAcmo c.desc.toNat ≤ a ∧
              a < recAcmo c.desc.toNat + recM c.desc.toNat * recN c.desc.toNat) → t.acmAt n a = s.acmAt n a) ∧
      (c.op = 6 → s.rckptStops c = false → ∃ u, ends u) ∧
      (c.op = 6 → s.rckptStops c = true → ∀ v, s.waves[c.wave]? = some v →
        ∃ t, exec i s = .next t ∧ t = { s with cmds := t.cmds, waves := t.waves } ∧ s.CmdBecomes t j go ∧
          t.waves[c.wave]? = some { v with deferred := v.deferred ++ [(0x10, 0)] } ∧
          ∀ n, n ≠ c.wave → t.waves[n]? = s.waves[n]?) ∧
      (c.op = 7 → recWbase c.desc.toNat ≤ s.tlcVal c.launch (field c.desc.toNat 20 4) → ∃ u, ends u) ∧
      (c.op = 7 → s.tlcVal c.launch (field c.desc.toNat 20 4) < recWbase c.desc.toNat →
        ∃ t, exec i s = .next t ∧ t = { s with cmds := t.cmds } ∧ s.CmdBecomes t j go))

/-- R71 to R74, R244 to R246, R301, R421: MM_STEP (constructor mmStep) completes, in every launch: for a started
record it waits for its counter and its locks, rejects the record where a slot has left SCRATCH, and gathers the
slots of its step; an `mm` or `mmz` then continues the reduction of every accumulator element of its tile, an
`rsum` writes the sums of the raw codes of every block; the step count and, with FEN, the counter FTLC grow by
one, and after the last step the record has only to retire. (Rows that can be read at once; `rsum` on scratch
slots.) R75, R247, R248: the events that start `cvacc` and `ewise` records (constructors commandStart, cvacc,
ewiseConvert, ewiseBias, ewiseRelu and ewiseScale) complete, in every launch, and the record does its whole work:
BIAS, RELU and SCALE change every accumulator element of the region; `cvacc` and CONVERT write every output
element in the format of FS(SLO), and `cvacc` with ZERO zeroes the region. (Locks free; no running command of a
deterministic launch overlaps it, R233; inputs that can be read at once; outputs in scratch, apart from the
inputs, in rows that do not overlap.) A step's extent is the model's choice (log entry 7). -/
def Obligations.MatrixAndElementwise : Prop :=
  (∀ (j : Nat) (s : State) (c : Cmd) (rows : List (List Byte)), s.cmds[j]? = some c → c.isRecord = true →
    c.op = 1 ∨ c.op = 2 ∨ c.op = 5 → c.st = .started → c.begun = true → c.ran = false → c.todo = [] → c.rows = [] →
    c.blocked = false →
    let d := c.desc.toNat
    let fa := (s.recSlots c).1
    let m := recM d
    let n := recN d
    let op := fun (k : Nat) => operandOf fa (recKstep d) (bitOf d 16) (rows.getD k [])
    let counted := fun (t : State) => ∀ l, s.launches[c.launch]? = some l → ∃ y, t.launches[c.launch]? = some y ∧
      y = { l with tlc := y.tlc } ∧
      ∀ q : Fin 16, y.tlc[q] = if bitOf d 29 = true ∧ q.val = field d 25 4 then l.tlc[q] + 1 else l.tlc[q]
    (bitOf d 24 = true → s.tlcVal c.launch (field d 20 4) < recWbase d + c.step → exec (.mmStep j) s = .next s) ∧
    (s.engineStalled j = false → s.stepDue c = true → s.lockFree j (s.stepLocks c) = true → s.slotLost c = true →
      ∃ t, exec (.mmStep j) s = .next t ∧
        t = { s with cmds := t.cmds, clusters := t.clusters, parts := t.parts, granted := t.granted, regs := t.regs } ∧
        s.CmdBecomes t j { c with ran := true, code := 1, detail := 0, out := [] } ∧ s.ClusterData t ∧
        (∀ cl a, t.acmAt cl a = s.acmAt cl a) ∧ ∀ cl a, t.scratchByte cl a = s.scratchByte cl a) ∧
    (s.engineStalled j = false → (∀ q ∈ s.granted, q.who ≠ c.reader) → s.stepDue c = true →
      s.lockFree j (s.stepLocks c) = true → s.slotLost c = false → rows.length = c.stepRows.length →
      (∀ k r, c.stepRows[k]? = some r → s.gatherRow c r = .ok (rows.getD k [])) →
      (c.op ≠ 5 → ∃ t e, exec (.mmStep j) s = .next t ∧
        t = { s with cmds := t.cmds, clusters := t.clusters, launches := t.launches } ∧ counted t ∧
        s.CmdBecomes t j e ∧ e.step = c.step + 1 ∧ e.rows = [] ∧ e.todo = [] ∧ e.st = .started ∧
        (e.ran = true ↔ field d 96 16 ≤ c.step + 1) ∧ s.ClusterData t ∧
        (∀ q a, q < m → a < n → c.cl < s.clusters.length →
          t.acmAt c.cl (recAcmo d + q * n + a) =
            (reduceStep fa (op q) (op (m + a)) (s.acmAt c.cl (recAcmo d + q * n + a))).c % 2 ^ 32) ∧
        (∀ cl a, cl ≠ c.cl ∨ a < recAcmo d ∨ recAcmo d + m * n ≤ a → t.acmAt cl a = s.acmAt cl a) ∧
        (∀ cl a, t.scratchByte cl a = s.scratchByte cl a) ∧
        (e.badscale = true ↔ c.badscale = true ∨ ∃ q a, q < m ∧ a < n ∧
          (reduceStep fa (op q) (op (m + a)) (s.acmAt c.cl (recAcmo d + q * n + a))).bad = true)) ∧
      (∀ cl base, c.op = 5 → slotSmode fa = 2 → s.slotPlace c (bitOf d 18) = some (some cl, base) →
        (∀ x, s.clusters[cl]? = some x → x.spoison = []) → cl < s.clusters.length →
        ∃ t e, exec (.mmStep j) s = .next t ∧
        t = { s with cmds := t.cmds, clusters := t.clusters, launches := t.launches } ∧ counted t ∧
        s.CmdBecomes t j e ∧ e.step = c.step + 1 ∧ e.st = .started ∧ (e.ran = true ↔ field d 96 16 ≤ c.step + 1) ∧
        s.ClusterData t ∧ (∀ g a, t.acmAt g a = s.acmAt g a) ∧
        let start := base + sumsAt fa (recKstep d) (if bitOf d 18 then n else m)
        let nb := recKstep d / blkLen (slotBlk fa)
        (∀ r b, r < rows.length → b < nb → ∀ q, q < 4 →
          t.scratchByte cl (start + 4 * (r * nb + b) + q) =
            (BitVec.ofInt 32 ((operandOf fa (recKstep d) true (rows.getD r [])).sums.getD b 0)).extractLsb' (8 * q) 8) ∧
        ∀ g a, g ≠ cl ∨ a < start ∨ start + 4 * (rows.length * nb) ≤ a → t.scratchByte g a = s.scratchByte g a))) ∧
  (∀ (i : Instr) (j : Nat) (P : Cmd → Prop) (s : State) (c : Cmd), recordForm i = some (j, P) →
    s.cmds[j]? = some c → P c → c.isRecord = true → c.Unstarted → s.engineStalled j = false →
    s.canStart c = true → (∀ q ∈ s.granted, q.who ≠ c.reader) →
    s.scratchOverlap j { c with touch := s.recTouch c } = false → c.op = 3 ∨ c.op = 4 → s.slotsFault c = false → s.recFaulty c = false → c.cl < s.clusters.length →
    s.lockFree j (lockWants (s.recTouch c)) = true →
    let d := c.desc.toNat
    let fa := (s.recSlots c).1
    let fo := (s.recSlots c).2.2
    let m := recM d
    let n := recN d
    let w := fmtWidth (slotFmt fo)
    let done := fun (t : State) => exec i s = .next t ∧ t = { s with cmds := t.cmds, clusters := t.clusters } ∧
      s.ClusterData t ∧ (∃ e, s.CmdBecomes t j e ∧ e.st = .started ∧ e.ran = true ∧ e.code = 0) ∧
      ∀ cl a, cl ≠ c.cl ∨ a < recAcmo d ∨ recAcmo d + m * n ≤ a → t.acmAt cl a = s.acmAt cl a
    (∀ beta : Nat → Nat, c.op = 4 → recFunc d ≠ 0 →
      (recFunc d = 1 → ∃ g base, s.ePlace c (bitOf d 14) (recAbase d) (4 * n) = some (g, base) ∧
        ∀ q, q < n → ∃ bs, s.eRead c g (base + 4 * q) 4 = .ok bs ∧ ofBytes bs = beta q) →
      ∃ t, done t ∧ (∀ cl a, t.scratchByte cl a = s.scratchByte cl a) ∧
        ∀ r q, r < m → q < n → t.acmAt c.cl (recAcmo d + r * n + q) =
          ewiseRule (recFunc d) (slotAccInt fa) (recSA d) (beta q) (s.acmAt c.cl (recAcmo d + r * n + q))) ∧
    (∀ (val : Nat → Nat → Nat) (cl base : Nat), (c.op = 3 ∨ recFunc d = 0) →
      s.ePlace c (bitOf d 15) (recBbase d) (tileBytes m n w (recOpitch d)) = some (some cl, base) →
      (m = 1 ∨ n * w ≤ 8 * recOpitch d) → cl < s.clusters.length → (∀ x ∈ s.clusters, x.spoison = []) →
      (c.op = 3 → ∀ r q, r < m → q < n →
        val r q = cvaccCode fa fo (recSA d) (recSB d) (s.acmAt c.cl (recAcmo d + r * n + q))) →
      (c.op = 4 → ∃ g at_, s.ePlace c (bitOf d 14) (recAbase d) (tileBytes m n (fmtWidth (slotFmt fa)) (recAslot d)) =
          some (g, at_) ∧
        (g = some cl → at_ + tileBytes m n (fmtWidth (slotFmt fa)) (recAslot d) + 1 ≤ base ∨
          base + tileBytes m n w (recOpitch d) ≤ at_) ∧
        ∀ r q, r < m → q < n →
          let u := fmtWidth (slotFmt fa)
          ∃ bs, s.eRead c g (at_ + r * recAslot d + q * u / 8) ((q * u % 8 + u + 7) / 8) = .ok bs ∧
            val r q = (convTo fo (convFrom fa (ofBytes bs / 2 ^ (q * u % 8) % 2 ^ u) (recSA d)).1 (recSB d)).1) →
      ∃ t, done t ∧
        (∀ g a, g ≠ cl ∨ a < base ∨ base + tileBytes m n w (recOpitch d) ≤ a → t.scratchByte g a = s.scratchByte g a) ∧
        (∀ r q, r < m → q < n →
          ofBytes (Memory.read (t.clusters.getD cl (Cluster.reset cl)).scratch (base + r * recOpitch d + q * w / 8)
            ((q * w % 8 + w + 7) / 8)) / 2 ^ (q * w % 8) % 2 ^ w = val r q % 2 ^ w) ∧
        ∀ r q, r < m → q < n → t.acmAt c.cl (recAcmo d + r * n + q) =
          if c.op = 3 ∧ bitOf d 17 = true then 0 else s.acmAt c.cl (recAcmo d + r * n + q)))

/-! ## The Timetable -/

/-- R358, R359, R366: QUEUE_ENABLE and QUEUE_DISABLE (constructors queueEnable, queueDisable) complete: setting EN of
a queue whose header is in order (and, for a TASK queue, whose template is) sets DONE and the counts to its HEAD,
and TAIL is read; with a faulty header EN stays 0; clearing EN withdraws the entries that no launch has been
admitted for. In each case what is due then happens (`settle`). R359, R372, R381: TAIL_RECALL (constructor
tailRecall) completes: where a write has recalled the line of TAIL of an enabled queue it reads TAIL and watches
the line again; else nothing happens. Entries without an owner then make an event-released job due that has no
instance: as the instant ends, its instance owns them all, released then, or, where MISS = 2 has skipped the
release, the release is reported with EVENT 3. (Nothing else due.) When a template is checked follows log entry
33. -/
def Obligations.Queues : Prop :=
  (∀ (q : Nat) (s : State), let qe := s.qtab.getD q QEntry.reset
    q < s.qtab.length →
    (qe.en = false → ∀ p, s.queuePart q = some p →
      ((qe.hdr.toNat % 64 ≠ 0 ∨ s.ring p qe.hdr.toNat = none ∨ s.queueTemplate q p qe = none) → exec (.queueEnable q) s = .next s) ∧
      ∀ r, qe.hdr.toNat % 64 = 0 → s.ring p qe.hdr.toNat = some r →
        (r.base % (if qe.kind then 32 else 256) ≠ 0 → exec (.queueEnable q) s = .next s) ∧
        ∀ t, s.queueTemplate q p qe = some t → r.base % (if qe.kind then 32 else 256) = 0 →
          ∃ u : State, exec (.queueEnable q) s = .next (State.settle (State.tailSeen u q)) ∧ u = { s with qtab := u.qtab } ∧
            (∀ n, n ≠ q → u.qtab[n]? = s.qtab[n]?) ∧
            u.qtab[q]? = some { qe with en := true, tmpl := t, done := BitVec.ofNat 64 r.head, head := r.head, tail := r.head,
                                        overCap := false }) ∧
    (qe.en = false → exec (.queueDisable q) s = .next s) ∧
    (qe.en = true → ∃ u : State, exec (.queueDisable q) s = .next (State.settle u) ∧
      u = { State.unwatchTail s q with qtab := u.qtab, insts := u.insts, jobs := u.jobs } ∧ (∀ n, n ≠ q → u.qtab[n]? = s.qtab[n]?) ∧
      u.qtab[q]? = some { qe with en := false } ∧
      ∀ (n : Nat) (i : Instance), s.insts[n]? = some i → u.insts[n]? = some
        (if cardQueue i.card = q then { i with hi := i.next, spawned := [] } else i))) ∧
  ((∀ (q p : Nat) (s : State) (r : RingHdr), let qe := s.qtab.getD q QEntry.reset
    ((qe.en = false ∨ s.ttDown = true ∨ s.watches p (qe.hdr.toNat + 24) = true ∧ s.queuePart q = some p) →
      exec (.tailRecall q) s = .next s) ∧
    (q < s.qtab.length → qe.en = true → s.ttDown = false → s.queuePart q = some p → s.watches p (qe.hdr.toNat + 24) = false →
      s.QueueReads q r →
      (∀ j, s.queueJob q = some j → ∃ jb, s.job? j = some jb ∧ jb.deferred = [] ∧ s.inst? j = none) →
      ∃ u : State, exec (.tailRecall q) s = .next (State.settle u) ∧
        u = { State.watchLine s p (qe.hdr.toNat + 24) with qtab := u.qtab } ∧
        u.qtab[q]? = some { qe with tail := r.tail, overCap := false } ∧ ∀ n, n ≠ q → u.qtab[n]? = s.qtab[n]?)) ∧
  ∀ (j : Nat) (s : State) (jb : Job) (r : RingHdr), let w := State.settle s
    s.QuietBut j → s.job? j = some jb → s.eventDue (j, jb) = true → w.job? j = some jb → w.inst? j = none →
    (jb.skipNext = false →
      let qe := w.qtab.getD (cardQueue jb.card) QEntry.reset
      cardQueue jb.card < w.qtab.length → qe.en = true → w.QueueReads (cardQueue jb.card) r → qe.head < r.tail →
      ∃ u : State, s.advance 1 = State.nextInstant (State.settle u) ∧ u.Released j jb.card s.now qe.head r.tail) ∧
    (jb.skipNext = true →
      ∃ u : State, (u.job? j).map (·.skipNext) = some false ∧ u = { w with jobs := u.jobs } ∧
        s.advance 1 = State.nextInstant (State.settle (State.deliver u j jb.card
          (exRecord 3 0 j (cardPart jb.card) (cardQueue jb.card) 0 s.now s.now (s.now + cardDeadline jb.card) noSeq 0 0 0 0) s.now))))

/-- R360, R362, R391: JOB_LOAD (constructor jobLoad) completes: of a card in order replaces the job's card, whose
first release is the first of its release times at or after the load; a faulty card changes LOK and LDET alone,
LDET naming its first faulty word, 255 for a card that cannot be read; VALID = 0 unloads the job, and a card of
another partition is rejected. R372, R373, R374, R381, R384, R450: PERIODIC_RELEASE (constructor periodicRelease)
completes. At the next release time it ends the instant, after what is then due (`settle`), with the release of
the job, whose next release is one PERIOD later, and TIME goes on: the instance owns the entries from HEAD to
TAIL, a release without entries completes at once, one while an instance of the job remains is deferred and
restarts the watchdog, and one that is skipped, or falls in a drain, is reported with EVENT 3. Before its time, or
for a job that is not loaded or has no period, nothing happens. (Nothing else due.) Corners of loading and of a
release follow log entries 29 and 32. -/
def Obligations.JobsAndReleases : Prop :=
  (∀ (p j : Nat) (s : State) (x : Part), j < 256 → s.parts[p]? = some x →
    let part := fun (ok : Bool) (det : BitVec 8) =>
      { s with parts := s.parts.modify p fun y => { y with jobload := BitVec.ofNat 8 j, lbusy := false, lok := ok, ldet := det } }
    (∀ e, s.readVA p dmaAgents false (x.jtbase.toNat + 128 * j) 128 = .error e →
      exec (.jobLoad p j) s = .next (part false 0xFF)) ∧
    ∀ bs, s.readVA p dmaAgents false (x.jtbase.toNat + 128 * j) 128 = .ok bs →
      let card := BitVec.ofNat 1024 (ofBytes bs)
      (bitOf card.toNat 23 = false → cardPart card ≠ p → exec (.jobLoad p j) s = .next (part false 0)) ∧
      (bitOf card.toNat 23 = false → cardPart card = p → ∃ t : State, exec (.jobLoad p j) s = .next t ∧ t = { part true x.ldet with jobs := t.jobs } ∧
        t.job? j = (s.job? j).map (fun y => { y with loaded := false }) ∧ ∀ n, n ≠ j → t.job? n = s.job? n) ∧
      (bitOf card.toNat 23 = true → (∀ f, (s.cardFaults p j card).find? (fun f => f.2) = some f →
        exec (.jobLoad p j) s = .next (part false (BitVec.ofNat 8 f.1)))) ∧
      (bitOf card.toNat 23 = true → (∀ f ∈ s.cardFaults p j card, f.2 = false) →
        (cardPeriod card ≠ 0 ∨ (s.qtab.getD (cardQueue card) QEntry.reset).en = false) →
        ∃ (t : State) (y : Job), exec (.jobLoad p j) s = .next t ∧ t = { part true x.ldet with jobs := t.jobs } ∧
          (∀ n, n ≠ j → t.job? n = s.job? n) ∧ t.job? j = some y ∧ y.card = card ∧ y.loaded = true ∧ y.loadTime = s.now ∧
          y.deferred = ((s.job? j).map (·.deferred)).getD [] ∧
          (cardPeriod card ≠ 0 → s.now ≤ y.nextRel ∧ cardFirst card ≤ y.nextRel ∧
            (y.nextRel - cardFirst card) % cardPeriod card = 0 ∧
            (y.nextRel < s.now + cardPeriod card ∨ y.nextRel = cardFirst card)))) ∧
  (∀ (j : Nat) (s : State),
    (∀ jb, s.job? j = some jb → (jb.loaded = false ∨ cardPeriod jb.card = 0 ∨ s.now < jb.nextRel ∨ s.ttDown = true) →
      exec (.periodicRelease j) s = .next s) ∧
    ∀ jb p r, let w := State.settle s
      s.QuietBut j → s.job? j = some jb → jb.loaded = true → cardPeriod jb.card ≠ 0 → jb.nextRel = s.now →
      w.job? j = some jb → w.parts[cardPart jb.card]? = some p →
      let q := cardQueue jb.card
      let qe := w.qtab.getD q QEntry.reset
      let ends := fun (u : State) => exec (.periodicRelease j) s = .next (State.nextInstant (State.settle u))
      let next := fun (u : State) => (u.job? j).map (·.nextRel) = some (s.now + cardPeriod jb.card)
      ((jb.skipNext = true ∨ p.fenced = true) → ∃ u : State, next u ∧ u = { w with jobs := u.jobs } ∧
        (u.job? j).map (·.skipNext) = some (jb.skipNext && p.fenced) ∧
        ends (State.deliver u j jb.card (exRecord 3 0 j (cardPart jb.card) q 0 s.now s.now (s.now + cardDeadline jb.card) noSeq
          0 0 0 0) s.now)) ∧
      (jb.skipNext = false → p.fenced = false → q < w.qtab.length → qe.en = true → w.QueueReads q r →
        (w.inst? j = none → jb.deferred = [] → qe.head < r.tail →
          ∃ u : State, ends u ∧ next u ∧ u.Released j jb.card s.now qe.head r.tail) ∧
        (w.inst? j = none → jb.deferred = [] → r.tail ≤ qe.head →
          ∃ u : State, ends u ∧ next u ∧ u.inst? j = none ∧ u.undecided = true) ∧
        (∀ i, w.inst? j = some i →
          ∃ (u : State) (ds : List Deferred) (d : Deferred), ends u ∧ next u ∧ (u.job? j).map (·.deferred) = some (ds ++ [d]) ∧
            ds.map (fun e => { e with own := none }) = jb.deferred.map (fun e => { e with own := none }) ∧
            ((∀ e ∈ jb.deferred, e.own.isSome = true) → ds = jb.deferred) ∧ d.release = s.now ∧ d.deadline = s.now + cardDeadline jb.card ∧ d.card = jb.card ∧
            u.inst? j = some { i with progress := s.now, elapsed := 0 })))

/-- R381, R383, R439: DEADLINE_MISS and EXQ_HEAD_RECALL (constructors deadlineMiss, exqHeadRecall) complete.
DEADLINE_MISS of an instance past its deadline reports it once, stamped with the deadline: DETAIL0 is the number
of recesses, saturating; MISS = 1 then aborts the instance, MISS = 2 makes the job skip its next release.
EXQ_HEAD_RECALL, where a write has recalled the line of EXQ's HEAD, appends held records, oldest first, while EXQ
has room, and watches the line while some are left. Corners follow log entries 29 to 31. -/
def Obligations.MissesAndHeldRecords : Prop :=
  (∀ (j : Nat) (s : State) (i : Instance) (jb : Job), s.inst? j = some i → s.job? j = some jb → jb.deferred = [] →
    s.ttDown = false →
    ((i.missed = true ∨ s.now < i.deadline) → exec (.deadlineMiss j) s = .next (State.settle s)) ∧
    (i.missed = false → i.deadline ≤ s.now →
      let rec_ := exRecord 0 0x12 j (cardPart i.card) (cardQueue i.card) (cardMiss i.card) i.deadline i.release i.deadline
        (if i.lo < i.hi then i.lo else 2 ^ 64 - 1) i.wgDone i.wgTotal (min i.recesses (2 ^ 64 - 1)) 0
      ∃ u : State, u = { s with insts := u.insts } ∧ u.inst? j = some { i with missed := true } ∧
        (cardMiss i.card = 0 → exec (.deadlineMiss j) s = .next (State.settle (State.deliver u j i.card rec_ i.deadline))) ∧
        (cardMiss i.card = 1 → ∃ v : State, exec (.deadlineMiss j) s = .next (State.settle v) ∧
          ∀ (l : Nat) (x : Launch), s.launches[l]? = some x → x.job = j → (v.launches[l]?).map (·.retired) = some true) ∧
        (cardMiss i.card = 2 → ∃ v : State, exec (.deadlineMiss j) s = .next (State.settle v) ∧
          (v.job? j).map (·.skipNext) = some true ∧ v = { State.deliver u j i.card rec_ i.deadline with jobs := v.jobs }))) ∧
  ∀ (j : Nat) (s : State) (jb : Job), s.job? j = some jb → s.ttDown = false →
    let head := cardExq jb.card + 16
    ((jb.hold = [] ∨ s.watches (cardPart jb.card) head = true) → exec (.exqHeadRecall j) s = .next s) ∧
    ∀ r rest, jb.hold = r :: rest → s.watches (cardPart jb.card) head = false →
      (s.append (cardPart jb.card) (cardExq jb.card) (recBytes r) = .full →
        exec (.exqHeadRecall j) s = .next (s.watchLine (cardPart jb.card) head)) ∧
      ∀ s2, s.append (cardPart jb.card) (cardExq jb.card) (recBytes r) = .done s2 → rest = [] →
        ∃ u : State, exec (.exqHeadRecall j) s = .next (State.unwatchLine u (cardPart jb.card) head) ∧
          u = { State.interrupt s2 jb.card with jobs := u.jobs } ∧
          u.job? j = some { jb with hold := [] } ∧ ∀ n, n ≠ j → u.job? n = s2.job? n

/-- R377, R384, R446, R450, R478: RECESS_BOUND_EXPIRY and WATCHDOG_EXPIRY (constructors recessBoundExpiry,
watchdogExpiry) complete. RECESS_BOUND_EXPIRY of an instance that has not recessed 2,000 ns before its bound ends
every gang of its job that is placed or has recessed, and each is placed again or the job aborted; WATCHDOG_EXPIRY
of an instance without progress for WDOG reports WATCHDOG and fences its partition, with the time of step 2 the
longest bound of its running instances, each of which gets a recess request. R450, R478, R479: DRAIN_KILL,
DRAIN_ABORT and DRAIN_END (constructors drainKill, drainAbort, drainEnd) complete: DRAIN_KILL at its time ends
every placed gang of the partition, DRAIN_ABORT clears EN of its queues and leaves it no instance, DRAIN_END drops
its system-cache lines, has its clusters leave and join, frees them and lifts the fence; each step is taken in its
turn alone, and what is due then happens. Corners follow log entries 29, 30 and 37. -/
def Obligations.BoundsWatchdogsAndDrains : Prop :=
  ((∀ (j : Nat) (s : State) (i : Instance) (t : Nat) (p : Part), s.inst? j = some i → s.parts[cardPart i.card]? = some p →
    i.reqTime = some t → s.ttDown = false → p.fenced = false →
    (s.now + 2000 < t + i.bound → exec (.recessBoundExpiry j) s = .next s) ∧
    (i.st = .recessing → t + i.bound ≤ s.now + 2000 →
      let mine := fun (l g : Nat) => (l, g) ∈ s.jobGangs j
      ∃ u : State, exec (.recessBoundExpiry j) s = .next (State.settle u) ∧ s.GangsEnd u mine ∧
        ((∀ (l g : Nat) (x : Launch) (y : Gang), mine l g → s.launches[l]? = some x → x.gangs[g]? = some y →
            relaunchAllowed x.determ (cardReplay i.card) true y.relaunches = true) →
          ∀ (l g : Nat) (x : Launch) (y : Gang), mine l g → s.launches[l]? = some x → x.gangs[g]? = some y →
            ∃ (x2 : Launch) (y2 : Gang), u.launches[l]? = some x2 ∧ x2.gangs[g]? = some y2 ∧ y2.relaunches = y.relaunches + 1 ∧
              y2.wgsDone = [] ∧ y2.done = y.done))) ∧
  ∀ (q : Nat) (s : State) (i : Instance) (p : Part),
    s.insts.find? (fun i => cardQueue i.card == q && (s.watchAt i).isSome) = some i →
    s.parts[cardPart i.card]? = some p → p.fenced = false → s.ttDown = false → (s.insts.map (·.job)).Nodup →
    (s.now < i.progress + (cardWdog i.card - i.elapsed) → exec (.watchdogExpiry q) s = .next s) ∧
    (i.progress + (cardWdog i.card - i.elapsed) ≤ s.now →
      ∃ (u : State) (y : Part) (g : Nat), exec (.watchdogExpiry q) s = .next (State.settle u) ∧ u.parts[cardPart i.card]? = some y ∧ y.fenced = true ∧
        y.drain = some (1, s.now, s.now + g) ∧
        (∀ r ∈ s.insts, cardPart r.card = cardPart i.card → r.st = .running →
          s.preemptBound r ≤ g ∧ ∃ z : Instance, u.inst? r.job = some z ∧ z.st = .recessing ∧ z.reqTime = some s.now ∧
            z.bound = s.preemptBound r) ∧
        (∀ e ∈ y.jq, e ∉ p.jq → e.kind = 0x01 ∧ e.time = i.progress + (cardWdog i.card - i.elapsed) ∨
          (e.kind = 0x04 ∨ e.kind = 0x0D) ∧ e.time = s.now))) ∧
  (∀ (p : Nat) (s : State) (x : Part) (step t at_ : Nat), s.parts[p]? = some x → x.drain = some (step, t, at_) →
    (step ≠ 1 ∨ s.now < at_ → exec (.drainKill p) s = .next s) ∧ (step ≠ 2 → exec (.drainAbort p) s = .next s) ∧
    (step ≠ 3 → exec (.drainEnd p) s = .next s) ∧
    (step = 1 → at_ ≤ s.now → ∃ u : State, exec (.drainKill p) s = .next (State.settle u) ∧
      (u.parts[p]?).map (·.drain) = some (some (2, t, at_)) ∧
      s.GangsEnd u fun l g => s.placedGang l g ∧ ∃ y : Launch, s.launches[l]? = some y ∧ y.part = p ∧ y.retired = false) ∧
    (step = 2 → x.fenced = true → ∃ u : State, exec (.drainAbort p) s = .next (State.settle u) ∧
      (u.parts[p]?).map (·.drain) = some (some (3, t, at_)) ∧ (∀ i ∈ u.insts, cardPart i.card ≠ p) ∧
      ∀ q, q < 64 → x.qmask.getLsbD q = true → (u.qtab.getD q QEntry.reset).en = false) ∧
    (step = 3 → ∃ (u : State) (y : Part), exec (.drainEnd p) s = .next (State.settle u) ∧ u.parts[p]? = some y ∧ y.fenced = false ∧
      y.drain = none ∧ y.drainCls = [] ∧ (∀ e ∈ u.sys, e.part ≠ p) ∧ (∀ c ∈ u.clusters, c.drain ≠ some p) ∧
      u.undecided = true ∧ u.waves = s.waves))

/-- R123, R276, R292, R293, R299, R380, R472: WORKGROUP_PLACEMENT (constructor workgroupPlacement) completes: of the
first gang of a launch that waits, whose job runs and whose clusters have room, makes its waves resident on
clusters of the job: each new wave with EXEC and the owned lanes its held lanes, the PC at KENTRY, no register
mapped and every mask and flag 0, on a wave slot of its own; a recessed gang's waves go on after their `recessok`.
Without room nothing changes. (Launches that are not CONCURRENT.) Which private index a wave gets is free (log
entry 11); whole placement of CONCURRENT launches is log entry 35. -/
def Obligations.Placement : Prop :=
  ∀ (l g : Nat) (s : State) (x : Launch) (gg : Gang) (i : Instance), s.launches[l]? = some x → x.gangs[g]? = some gg →
    s.inst? x.job = some i → i.st = .running → gg.placed = false → gg.done = false →
    (∀ (n : Nat) (y : Gang), n < g → x.gangs[n]? = some y → y.placed = true ∨ y.done = true) → s.gangReady l = true → x.serial = none →
    s.ttDown = false → x.num 384 2 ≠ 0 →
    (s.placeOne l g = none → exec (.workgroupPlacement l g) s = .next s) ∧
    ((s.placeOne l g).isSome → ∃ (t : State) (y : Launch) (z : Gang), exec (.workgroupPlacement l g) s = .next t ∧ t.launches[l]? = some y ∧
      y.gangs[g]? = some z ∧ z.placed = true ∧ z.recessed = false ∧ y.started = true ∧
      (∀ c ∈ z.cls, c ∈ s.held x.job ∧ ∃ e, s.clusters[c]? = some e ∧ e.awakeAt ≤ s.now) ∧
      (gg.recessed = false → gg.wgsDone = [] → (∀ n, n ≠ l → t.launches[n]? = s.launches[n]?) ∧
        t.waves.length = s.waves.length + x.wgCount * x.waveCount ∧ (∀ w, w < s.waves.length → t.waves[w]? = s.waves[w]?) ∧
        ∀ m n, m < x.wgCount → n < x.waveCount → ∃ v : Wave, t.waves[s.waves.length + m * x.waveCount + n]? = some v ∧
          v.launch = l ∧ v.gang = g ∧ v.wg = m ∧ v.widx = n ∧ v.widBase = x.waveWid g m n ∧ v.status = .resident ∧
          v.lanes = x.held ∧ v.exited = 0 ∧ v.vregs = [] ∧ v.sregs = [] ∧ v.masks = Vector.replicate 16 0 ∧
          v.rngkey = BitVec.ofNat 64 (x.num 1280 64) ∧ v.rngctr = Vector.replicate 32 0 ∧ v.fpflags = 0 ∧ v.hmode = false ∧
          v.frag1 = none ∧ v.split = none ∧ v.seq = 0 ∧ v.core / 4 ∈ z.cls ∧ v.wslot < 32 ∧
          (∃ f, v.frag0 = some f ∧ f.pc = BitVec.ofNat 64 x.kentry ∧ f.exec = x.held ∧ f.owned = x.held ∧ f.st = .ready ∧
            f.stack = [] ∧ f.spilled = 0) ∧
          ∀ (w : Nat) (u : Wave), w ≠ s.waves.length + m * x.waveCount + n → t.waves[w]? = some u → u.status = .resident → u.core = v.core →
            u.wslot ≠ v.wslot) ∧
      (gg.recessed = true → t.waves.length = s.waves.length ∧
        ∀ (w : Nat) (v : Wave), s.waves[w]? = some v → v.launch = l → v.gang = g → v.status = .recessed → ¬ v.wg ∈ gg.wgsDone → v.wg < x.wgCount →
          v.hslot < 2 →
          ∃ b : Wave, t.waves[w]? = some b ∧ b.status = .resident ∧ b.hmode = true ∧ b.recess = false ∧ b.vregs = v.vregs ∧
            b.sregs = v.sregs ∧ b.masks = v.masks ∧ b.core / 4 ∈ z.cls ∧
            (b.frag v.hslot) = (v.frag v.hslot).map (fun f => { f with pc := f.pc + 8, st := .ready, held := false })))

/-! ## The management range -/

/-- R388, R389, R393: a write of a partition-table entry sets PTROOT; EN, but not to 0 while a queue of the partition
is enabled; WAYS, dropping the system-cache lines of the ways given up; and QMASK, where the bit of an enabled
queue stays and a queue of another partition is not taken. Memory keeps every byte. (Constructors
partitionTableWrite and waysWrite; both complete.) R374, R390: POOL_MAP_WRITE (constructor poolMapWrite)
completes: a pool-map write of a cluster that is free takes effect at once, that of another when the cluster is
next free, and one that its kind does not allow never; then what is due happens. R5, R358, R360, R386, R391, R403,
R404, R416: REGISTER_WRITE (constructor registerWrite) completes: an 8-byte register write changes the register at
its address: in a partition's window JTBASE, the headers and the invalidation range; a queue's HDR and TEMPLATE
only while EN = 0 and in the window that owns the queue; a class budget, whose WINDOW keeps its value outside its
range; a written 1 clears a bit of OVCNT. Reserved places and read-only registers keep what they hold. Narrow and
wide accesses follow log entry 48. -/
def Obligations.ManagementRegisters : Prop :=
  (∀ (p : Nat) (s : State) (x : Part), s.parts[p]? = some x →
    let enabled := fun (q : Nat) => (s.qtab.getD q QEntry.reset).en = true
    let frame := fun (t : State) => t.mem = s.mem ∧ t.waves = s.waves ∧ t.qtab = s.qtab ∧ t.insts = s.insts
    (∀ v, exec (.partitionTableWrite p 1 v) s = .next { s with parts := s.parts.modify p fun y => { y with ptroot := v } }) ∧
    (∀ w v, 3 ≤ w → exec (.partitionTableWrite p w v) s = .next s) ∧
    (∀ v, ∃ t y, exec (.partitionTableWrite p 2 v) s = .next t ∧ t = { s with parts := t.parts } ∧
      (∀ n, n ≠ p → t.parts[n]? = s.parts[n]?) ∧ t.parts[p]? = some y ∧ y = { x with qmask := y.qmask } ∧
      ∀ q, q < 64 → (enabled q → y.qmask.getLsbD q = x.qmask.getLsbD q) ∧
        (¬ enabled q → (y.qmask.getLsbD q = true ↔ v.getLsbD q = true ∧
          ∀ n z, n < 64 → n ≠ p → s.parts[n]? = some z → z.qmask.getLsbD q = false))) ∧
    (∀ v : Word64, ∃ t y, exec (.partitionTableWrite p 0 v) s = .next t ∧ frame t ∧ t.parts[p]? = some y ∧
      y.ways = v.extractLsb' 8 24 ∧
      (v.getLsbD 0 = true → y.en = true) ∧
      (v.getLsbD 0 = false → (y.en = false ↔ x.en = false ∨ ∀ q, q < 64 → x.qmask.getLsbD q = true → ¬ enabled q))) ∧
    (∀ ways : BitVec 24, ∃ t y, exec (.waysWrite p ways) s = .next t ∧ frame t ∧ t.parts[p]? = some y ∧ y.ways = ways ∧
      y.en = x.en ∧ y.qmask = x.qmask ∧
      ∀ e, e ∈ t.sys ↔ e ∈ s.sys ∧ ¬ (e.part = p ∧ x.ways.getLsbD e.way = true ∧ ways.getLsbD e.way = false))) ∧
  (∀ (cl : Nat) (pool : BitVec 2) (s : State),
    let free := (∃ c, s.clusters[cl]? = some c ∧ c.job = none ∧ c.drain = none) ∧ s.clusterBusy cl = false
    ((64 ≤ cl ∨ (isG cl = true ∧ pool = 0) ∨ (isG cl = false ∧ pool = 1)) →
      exec (.poolMapWrite cl pool) s = .next (State.settle s)) ∧
    (cl < 64 → ¬ (isG cl = true ∧ pool = 0) → ¬ (isG cl = false ∧ pool = 1) →
      ∃ u : State, exec (.poolMapWrite cl pool) s = .next (State.settle u) ∧
        (free → u = { s with pool := s.pool.set cl pool, poolNext := u.poolNext, undecided := true } ∧
          u.poolNext.lookup cl = none) ∧
        (¬ free → u = { s with poolNext := u.poolNext } ∧ u.poolNext.lookup cl = some pool) ∧
        ∀ n, n ≠ cl → u.poolNext.lookup n = s.poolNext.lookup n)) ∧
  ((∀ (p off : Nat) (v : Word64) (s : State) (x : Part), p < 64 → s.parts[p]? = some x → off % 8 = 0 → off < 0x10000 →
    let wr := exec (.registerWrite (0x000FFF0000100000 + 0x10000 * p + off) v) s
    let put := fun (f : Part → Part) => Host.Outcome.next { s with parts := s.parts.modify p f }
    let q := off / 32
    (off = 0x800 → wr = put fun y => { y with jtbase := v }) ∧ (off = 0x840 → wr = put fun y => { y with fqhdr := v }) ∧
    (off = 0x850 → wr = put fun y => { y with jhdr := v }) ∧ (off = 0x880 → wr = put fun y => { y with iaddr := v }) ∧
    (off = 0x888 → wr = put fun y => { y with ilen := v }) ∧
    ((0x898 ≤ off ∧ off < 0x1000) ∨ 0x2300 ≤ off → wr = .next s) ∧
    (off < 0x800 → x.qmask.getLsbD q = false → wr = .next s) ∧
    (off < 0x800 → off % 32 = 24 → wr = .next s) ∧
    (off < 0x800 → off % 16 = 0 → x.qmask.getLsbD q = true → (s.qtab.getD q QEntry.reset).en = true → wr = .next s) ∧
    (off < 0x800 → x.qmask.getLsbD q = true → (s.qtab.getD q QEntry.reset).en = false →
      (off % 32 = 0 → wr = .next { s with qtab := s.qtab.modify q fun y => { y with hdr := v } }) ∧
      (off % 32 = 16 → wr = .next { s with qtab := s.qtab.modify q fun y => { y with template := v } })) ∧
    (∀ j jb, off = 0x1000 + 16 * j → j < 256 → s.job? j = some jb → cardPart jb.card = p →
      ∃ t : State, wr = .next t ∧ t = { s with regStats := t.regStats } ∧
        t.regStat j = { s.regStat j with ovcnt := (s.regStat j).ovcnt &&& ~~~(v.setWidth 32) } ∧
        ∀ n, n ≠ j → t.regStat n = s.regStat n)) ∧
  ∀ (n : Nat) (v : Word64) (s : State) (c : ClassBudget), n < 4 → s.classes[n]? = some c →
    let win := if 10000 ≤ v.toNat / 2 ^ 32 ∧ v.toNat / 2 ^ 32 ≤ 10000000 then BitVec.ofNat 32 (v.toNat / 2 ^ 32) else c.window
    exec (.registerWrite (0x000FFF0000001100 + 16 * n) v) s =
      .next { s with classes := s.classes.set n { budget := v.setWidth 32, window := win } })

/-- R399 to R402, R404: REGULATOR_READ_REQUEST and REGULATOR_WINDOW_START (constructors regulatorReadRequest,
regulatorWindowStart) complete: at a regulator that is in the window of a party a read request is counted with 64
bytes while the count is below BUDGET, and held behind it, in one of 32 entries or else at its slice, counted in
OVCNT the first time in a window; BUDGET 0 holds nothing. The start of a window takes held requests in arrival
order, as far as the budget goes, and a fragment whose read is taken can issue again. (Without OVR, where an
exception record is written.) R416, R417: INVALIDATE_PARTITION, INVALIDATE_RANGE, INVALIDATE_WALK_CACHES and
INVALIDATION_COMPLETE (constructors invalidatePartition, invalidateRange, invalidateWalkCaches,
invalidationComplete) complete: GO starts the invalidation of a partition's cached translations, of a range or of
walk caches, unless one is in progress; INVALIDATION_COMPLETE drops from every core, cluster and DMA agent the
leaves it names and every cached table pointer of the partition. A held request's count in its new window and the
KIND 0x06 payload are the model's choice (log entry 39); invalidation follows log entry 40. -/
def Obligations.RegulatorsAndInvalidations : Prop :=
  (∀ (g id : Nat) (c : Charge) (s : State), g < 24 →
    let b := (s.budgetOf c).1
    let w := windowStart (s.budgetOf c).2 s.now
    let r := s.regCount g c
    let q : ReadReq := { who := .request id, line := 0 }
    let others := fun (t : State) => ∀ n d, (n, d) ≠ (g, c) → t.regCount n d = s.regCount n d
    let silent := ∀ j, c = .job j → cardOvr (s.cardOf j) = false
    (r.window = w → exec (.regulatorWindowStart g c) s = .next s) ∧
    (b = 0 → exec (.regulatorReadRequest g c id) s = .next s) ∧
    (r.window = w → b ≠ 0 → r.count < b →
      ∃ t : State, exec (.regulatorReadRequest g c id) s = .next t ∧ t = { s with regs := t.regs } ∧
        t.regCount g c = { r with count := r.count + 64 } ∧ others t) ∧
    (r.window = w → b ≠ 0 → b ≤ r.count → ∃ t : State, exec (.regulatorReadRequest g c id) s = .next t ∧
      (silent → t.mem = s.mem ∧ t.granted = s.granted ∧ t.waves = s.waves ∧ others t ∧
        t.regCount g c = if r.held.length < 32 then { r with held := r.held ++ [q] } else { r with slice := r.slice ++ [q] }) ∧
      ∀ j, c = .job j →
        ((s.regStat j).win = some w → t.regStat j = s.regStat j) ∧
        ((s.regStat j).win ≠ some w → (t.regStat j).lasth = s.now ∧ (t.regStat j).win = some w ∧
          (t.regStat j).ovcnt.toNat = min ((s.regStat j).ovcnt.toNat + 1) (2 ^ 32 - 1))) ∧
    (r.window ≠ w → ∃ t : State, exec (.regulatorWindowStart g c) s = .next t ∧
      let all := r.held ++ r.slice
      let n := if b = 0 then all.length else min all.length ((b + 63) / 64)
      (silent → t.mem = s.mem ∧ others t ∧ t.granted = s.granted ++ all.take n ∧
        t.regCount g c =
          { r with window := w, count := 64 * n, held := (all.drop n).take 32, slice := (all.drop n).drop 32 }) ∧
      ∀ x slot v f, x ∈ all.take n → x.who = .frag v slot → (s.waves[v]?).bind (fun y => y.frag slot) = some f →
        f.st = .opwait → (t.waves[v]?).bind (fun y => y.frag slot) = some { f with st := .ready })) ∧
  (∀ (p : Nat) (s : State) (x : Part), s.parts[p]? = some x →
    (∀ i kind, (i = .invalidatePartition p ∧ kind = 0 ∨ i = .invalidateRange p ∧ kind = 1 ∨
        i = .invalidateWalkCaches p ∧ kind = 2) →
      (x.inval.isSome → exec i s = .next s) ∧
      (x.inval = none → exec i s = .next { s with parts := s.parts.modify p fun y =>
        { y with ikind := BitVec.ofNat 2 kind, inval := some (kind, y.iaddr.toNat, y.ilen.toNat) } })) ∧
    (x.inval = none → exec (.invalidationComplete p) s = .next s) ∧
    (∀ kind a n, x.inval = some (kind, a, n) → ∃ t : State, exec (.invalidationComplete p) s = .next t ∧
      t = { s with tlb := t.tlb, walks := t.walks, parts := s.parts.modify p fun y => { y with inval := none } } ∧
      (∀ e, e ∈ t.tlb ↔ e ∈ s.tlb ∧ ¬ (e.part = p ∧ e.agent < 512 ∧
        (kind = 0 ∨ kind = 1 ∧ e.vbase < a + n ∧ a < e.vbase + e.size))) ∧
      ∀ e, e ∈ t.walks ↔ e ∈ s.walks ∧ ¬ (e.part = p ∧ e.agent < 512)))

/-- R405 to R408, R418, R428, R429: STREAM_ENABLE, FRAME_START and FRAME_END (constructors streamEnable, frameStart,
frameEnd) complete. STREAM_ENABLE of an owned port with its fields in range starts it with its counters at 0; of a
frame a CSI-2 port takes the packets of its virtual channel and data types, an Ethernet port a frame of 64 to
9,216 bytes with the number of the first filter that accepts it, and another frame is discarded uncounted; it
lands in slot PROD mod NSLOT of an enabled port with a free slot, at most SLOTB bytes of it, and is dropped and
counted without one; FRAME_END writes its descriptor at DBASE + 32·(PROD mod NSLOT) and releases PROD; a write
that waits leaves the frame to be tried again. R429: ETHERNET_TRANSMIT (constructor ethernetTransmit) completes:
it serves the lowest ring of a port that holds an entry: its frame is logged and leaves the port, TXTIME is
written on TSREQ, and HEAD advances; an entry that breaks its table, or that cannot be read, is dropped, and HEAD
advances. A read that must wait for a grant, tokens or a regulator changes only what its waiting changes. The KIND
0x08 payload is the model's choice (log entry 41). -/
def Obligations.StreamsAndTransmission : Prop :=
  (∀ (port : Nat) (s : State) (x : Stream), s.streams[port]? = some x → x.stalled = none →
    let p := x.owner.toNat
    let k := x.prod.toNat
    let only := fun (t : State) => ∀ n, n ≠ port → t.streams[n]? = s.streams[n]?
    ((x.en = true ∨ x.ownen = false ∨ x.nslot = 0 ∨ x.slotb.toNat % 64 ≠ 0 ∨ x.slotb = 0 ∨ x.sbase.toNat % 64 ≠ 0 ∨
        x.dbase.toNat % 32 ≠ 0) → exec (.streamEnable port) s = .next s) ∧
    (x.en = false → x.ownen = true → x.nslot ≠ 0 → x.slotb.toNat % 64 = 0 → x.slotb ≠ 0 → x.sbase.toNat % 64 = 0 →
      x.dbase.toNat % 32 = 0 → ∃ t : State, exec (.streamEnable port) s = .next t ∧ t = { s with streams := t.streams } ∧ only t ∧
        t.streams[port]? = some { x with en := true, cons := 0, prod := 0, drops := 0, frame := none, gap := false }) ∧
    (∀ (fr : FrameIn) (cfg : ConfigRec), s.proctor.config = some cfg →
      let bs := if port < 8 then (fr.packets.filter fun z =>
          cfg.csi[port]?.any fun y => z.chan == y.chan && y.types.contains z.dtype)
        else fr.packets
      let bytes := bs.flatMap (·.bytes)
      let fnum := if port < 8 then fr.fnum else 0
      let fs := cfg.filters.getD (port - 8) []
      (((port < 8 ∧ ∀ y, cfg.csi[port]? = some y → fr.chan ≠ y.chan) ∨
          (8 ≤ port ∧ (bytes.length < 64 ∨ 9216 < bytes.length ∨ ∀ y ∈ fs, y.accepts bytes = false))) →
        exec (.frameStart port fr) s = .next s) ∧
      ∀ chan, x.en = true → x.ownen = true → x.frame = none →
        ((port < 8 ∧ ∃ y, cfg.csi[port]? = some y ∧ fr.chan = y.chan ∧ chan = y.chan) ∨
          (8 ≤ port ∧ 64 ≤ bytes.length ∧ bytes.length ≤ 9216 ∧ (∃ y, fs[chan]? = some y ∧ y.accepts bytes = true) ∧
            ∀ m y, m < chan → fs[m]? = some y → y.accepts bytes = false)) →
        (x.nslot.toNat + x.cons.toNat ≤ k →
          let counted := if x.drops = BitVec.allOnes 32 then x.drops else x.drops + 1
          ∃ t : State, exec (.frameStart port fr) s = .next t ∧ t = { s with streams := t.streams, parts := t.parts } ∧ only t ∧
            t.streams[port]? = some { x with gap := true, drops := counted }) ∧
        (k < x.nslot.toNat + x.cons.toNat →
          ∀ t e, s.landAt port p (x.sbase.toNat + x.slotb.toNat * (k % x.nslot.toNat)) k (bytes.take x.slotb.toNat) = (t, e) →
          let landing : FrameLanding :=
            { tstart := s.now, bytes := min x.slotb.toNat bytes.length, fnum := fnum, chan := BitVec.ofNat 8 chan,
              trunc := decide (x.slotb.toNat < bytes.length), err := bs.any (·.err) }
          (e.1 = true → exec (.frameStart port fr) s = .next t) ∧
          (∀ f, e = (false, some f) → exec (.frameStart port fr) s = .next (State.landFault t port p fnum.toNat f)) ∧
          (e = (false, none) → ∃ u : State, exec (.frameStart port fr) s = .next u ∧ u = { t with streams := u.streams } ∧
            only u ∧ u.streams[port]? = some { x with frame := some landing }))) ∧
    (x.frame = none → exec (.frameEnd port) s = .next s) ∧
    (∀ f, x.frame = some f →
      let b2 := fun (b : Bool) => if b then (1 : Nat) else 0
      let d := s.now % 2 ^ 64 * 2 ^ 64 + f.tstart % 2 ^ 64 + f.bytes % 2 ^ 32 * 2 ^ 128 + f.fnum.toNat * 2 ^ 160 +
        f.chan.toNat * 2 ^ 176 + b2 f.trunc * 2 ^ 184 + b2 f.err * 2 ^ 185 + b2 x.gap * 2 ^ 186 + x.drops.toNat * 2 ^ 192 +
        k % 2 ^ 32 * 2 ^ 224
      ∀ t e, s.landAt port p (x.dbase.toNat + 32 * (k % x.nslot.toNat)) k (bytesOf 32 d) = (t, e) →
        (e.1 = true → exec (.frameEnd port) s = .next t) ∧
        (e = (false, none) → ∃ u : State, exec (.frameEnd port) s = .next u ∧ u = { t with streams := u.streams } ∧ only u ∧
          u.streams[port]? = some { x with prod := x.prod + 1, frame := none, gap := false }))) ∧
  (∀ (port ring hdr : Nat) (h : RingHdr) (s : State) (x : Stream), s.streams[8 + port]? = some x → x.ownen = true → ring < 4 →
    let p := x.owner.toNat
    let at_ := (h.base + 32 * (h.head % h.cap)) % 2 ^ 64
    let put := fun (st : State) (va v : Nat) => st.writeVA p (ioAgents 99) false none (some .sensor) va (bytesOf 8 v)
    let run := exec (.ethernetTransmit port ring) s
    ((s.txRing x ring = none ∨ ∃ r, r < ring ∧ (s.txRing x r).isSome) → run = .next s) ∧
    ((∀ r, r < ring → s.txRing x r = none) → s.txRing x ring = some (hdr, h) →
      (∀ e t, s.readVA p (ioAgents 99) false at_ 32 = .error e → put s (hdr + 16) (h.head + 1) = .ok t → run = .next t) ∧
      ∀ bs, s.readVA p (ioAgents 99) false at_ 32 = .ok bs →
      let e := ofBytes bs
      let len := e / 2 ^ 64 % 2 ^ 14
      let bad := e / 2 ^ 79 % 2 ^ 49 ≠ 0 ∨ e / 2 ^ 192 % 2 ^ 64 ≠ 0 ∨ len < 64 ∨ 9216 < len
      (bad → ∀ t, put s (hdr + 16) (h.head + 1) = .ok t → run = .next t) ∧
      (¬ bad → ∀ y t, s.readVA p (ioAgents 99) false (e % 2 ^ 64) len = .error y → put s (hdr + 16) (h.head + 1) = .ok t →
        run = .next t) ∧
      (¬ bad → ∀ frame, s.readVA p (ioAgents 99) false (e % 2 ^ 64) len = .ok frame →
        ∀ b ok, s.peerBegin (.agent 99) none .sensor p (ioAgents 99) false
          ((s.xlateSpan p (ioAgents 99) .read false at_ 32).1 ++ (s.xlateSpan p (ioAgents 99) .read false (e % 2 ^ 64) len).1) = (b, ok) →
        (ok = false → run = .next b) ∧
        (ok = true →
          let s1 := b.logOut p (e % 2 ^ 64) len 1 (port * 4 + ring)
          let sent : State := { s1 with frames := s1.frames ++ [(port, frame)] }
          (e / 2 ^ 78 % 2 = 0 → ∀ t, put sent (hdr + 16) (h.head + 1) = .ok t → run = .next t) ∧
          (e / 2 ^ 78 % 2 = 1 → ∀ u t, put sent (at_ + 16) s.now = .ok u → put u (hdr + 16) (h.head + 1) = .ok t →
            run = .next t)))))

/-- R395, R430: PTP_SYNC and SYNC_TIMEOUT (constructors ptpSync, syncTimeout) complete. A message at a port whose
profile the record enables is heard; one of the best master, by priority vector and then by port, sets the rate
within ±500 ppm; TIME steps forward when STEPEN is set and TIME is behind by more than STEPTH, and never back; the
sixteenth sync in a row within 1,000 ns locks, a new grandmaster or a third interval without a sync unlocks; a
station without a master that may become grandmaster sends TIME on its ports. R397, R398: JOURNAL_WRITE
(constructor journalWrite) completes: it, 2,000 ns after the stamp of the oldest event of a partition, appends its
128-byte entry to the ring of the journal header; without room the entry is lost and counted, without a header
dropped. What a sync message carries is log entry 42. -/
def Obligations.TimeAndJournal : Prop :=
  ((∀ (m : SyncMsg) (s : State),
    let heard := ∃ c, s.proctor.config = some c ∧ m.port ∈ c.timed ∧ (m.p1588 = true → c.p1588 = true)
    let worse := fun (e : Nat × Nat) => m.rank < e.2 ∨ m.rank = e.2 ∧ m.port < e.1
    let masters := (m.port, m.rank) :: s.clock.masters.filter fun e => e.1 != m.port
    (¬ heard → exec (.ptpSync m) s = .next s) ∧
    (heard → (∃ e ∈ s.clock.masters, e.1 ≠ m.port ∧ ¬ worse e) →
      exec (.ptpSync m) s = .next { s with clock := { s.clock with masters := masters } }) ∧
    (heard → (∀ e ∈ s.clock.masters, e.1 ≠ m.port → worse e) →
      ∃ t : State, exec (.ptpSync m) s = .next t ∧
        t.clusters = s.clusters ∧ t.cmds = s.cmds ∧ t.launches = s.launches ∧ t.insts = s.insts ∧ t.qtab = s.qtab ∧
        t.streams = s.streams ∧
        let steps := m.offset < 0 ∧ s.clock.stepth.toNat < m.offset.natAbs ∧ s.clock.stepen = true
        let changed := ∃ g, s.clock.gm = some g ∧ g ≠ m.gm
        let near := m.offset.natAbs < 1000
        t.clock.gm = some m.gm ∧ t.clock.missed = 0 ∧ t.clock.stepen = s.clock.stepen ∧ t.clock.stepth = s.clock.stepth ∧
        t.clock.masters = masters ∧ t.clock.sent = s.clock.sent ∧ t.clock.rate = max (-5000) (min 5000 m.rate) ∧
        (steps → t.now = s.now + m.offset.natAbs ∧ t.clock.laststep = BitVec.ofNat 64 t.now) ∧
        (¬ steps → t.now = s.now ∧ t.clock.laststep = s.clock.laststep ∧ t = { s with clock := t.clock, parts := t.parts }) ∧
        (changed → t.clock.locked = false ∧ t.clock.good = 0) ∧
        (¬ changed → t.clock.good = (if near then s.clock.good + 1 else 0) ∧
          (t.clock.locked = true ↔ s.clock.locked = true ∨ (near ∧ 15 ≤ s.clock.good))) ∧
        (¬ steps → ¬ changed → t.parts = s.parts))) ∧
  ∀ s : State, ∃ t : State, exec .syncTimeout s = .next t ∧ t = { s with clock := t.clock } ∧
    t.clock = { s.clock with missed := s.clock.missed + 1, good := 0, locked := t.clock.locked, masters := t.clock.masters,
                             sent := t.clock.sent } ∧
    (t.clock.locked = true ↔ s.clock.locked = true ∧ s.clock.missed + 1 < 3) ∧
    (s.clock.missed + 1 < 3 → t.clock.masters = s.clock.masters) ∧
    (3 ≤ s.clock.missed + 1 → ∀ e ∈ s.clock.masters,
      (∀ f ∈ s.clock.masters, e.2 < f.2 ∨ e.2 = f.2 ∧ e.1 ≤ f.1) →
      t.clock.masters = s.clock.masters.filter fun f => f.1 != e.1) ∧
    ∀ c, s.proctor.config = some c →
      (t.clock.masters = [] → c.gmOk = true → t.clock.sent = s.clock.sent ++
        ((List.range 4).filter fun n => c.timed.contains n).map fun n => (n, s.now)) ∧
      (t.clock.masters ≠ [] ∨ c.gmOk = false → t.clock.sent = s.clock.sent)) ∧
  (∀ (p : Nat) (s : State) (x : Part), s.parts[p]? = some x →
    (x.jq = [] → exec (.journalWrite p) s = .next s) ∧
    ∀ e n, x.jq[n]? = some e →
      (∀ m f, x.jq[m]? = some f → e.time < f.time ∨ e.time = f.time ∧ (e.agent < f.agent ∨ e.agent = f.agent ∧ n ≤ m)) →
      (s.now < e.time + 2000 → exec (.journalWrite p) s = .next s) ∧
      (e.time + 2000 ≤ s.now →
        let taken : State := { s with parts := s.parts.modify p fun y => { y with jq := y.jq.eraseIdx n } }
        let entry := e.time % 2 ^ 64 + e.agent % 256 * 2 ^ 64 + e.kind % 256 * 2 ^ 72 + p % 64 * 2 ^ 80 +
          min x.lost (2 ^ 32 - 1) * 2 ^ 96 + e.payload.toNat * 2 ^ 128
        (x.jhdr = 0 → exec (.journalWrite p) s = .next taken) ∧
        (x.jhdr ≠ 0 → (State.append taken p x.jhdr.toNat (bytesOf 128 entry) = .full ∨
            State.append taken p x.jhdr.toNat (bytesOf 128 entry) = .bad) →
          exec (.journalWrite p) s = .next { taken with parts := taken.parts.modify p fun y => { y with lost := x.lost + 1 } }) ∧
        (∀ t : State, x.jhdr ≠ 0 → State.append taken p x.jhdr.toNat (bytesOf 128 entry) = .done t →
          exec (.journalWrite p) s = .next { t with parts := t.parts.modify p fun y => { y with lost := 0 } })))

/-! ## Agents outside the clusters -/

/-- R342, R423 to R425: a host access of up to 4,096 bytes read or 512 written (constructors hostRead and hostWrite)
is complete in one step. Through BAR 0 of a function it reads or writes its partition's window, or the system
window for function 0 when the record grants it, and beyond that a read gets Unsupported Request and a write is
dropped. Through BAR 2 it reaches HBASE plus the offset within 2^k bytes, and in the root-port role the attached
endpoint reaches the partition bound to the port: a read completes with the bytes of memory there, one token of a
line that one holder has whole coming home; a write changes those bytes and no other and leaves no tokens or dirty
data of their lines at any holder; one that faults is reported. An access that must wait for a grant, tokens or a
regulator changes only what its waiting changes. (No regulator holds a read back.) R426: PCIE_LINK_DOWN and
PCIE_LINK_UP (constructors pcieLinkDown and pcieLinkUp) complete. When the link goes down, each partition bound to
the port gets a journal entry of KIND 0x09 with the time, and every loaded job of it LINK_LOST; when it comes up
the interval is complete. A link that the boot has not released stays down. Accesses past a BAR follow log entry
43. -/
def Obligations.HostAndLink : Prop :=
  (∀ (fn bar off size : Nat) (bytes : List Byte) (s : State), s.pcie.up = true → size ≤ 4096 → bytes.length ≤ 512 →
    let rd := exec (.hostRead fn bar off size) s
    let wr := exec (.hostWrite fn bar off bytes) s
    let reply := fun (st : State) (bs : List Byte) (bad : Bool) =>
      ({ st with pcie := { st.pcie with replies := st.pcie.replies ++ [(bs, bad)] } } : State)
    let window := fun (f : PcieFn) => 0x000FFF0000100000 + 0x10000 * f.part + off
    (∀ f, s.pcie.rootPort = false → s.pcie.fns.find? (fun x => x.fn == fn) = some f →
      (bar = 0 → off + size ≤ 0x10000 → rd = .next (reply s (s.readRegs (window f) size) false)) ∧
      (bar = 0 → off + bytes.length ≤ 0x10000 → wr = .next (State.writeRegs s (window f) bytes)) ∧
      (bar = 0 → fn = 0 → f.sysWin = true → 0x10000 ≤ off → 0 < size → off + size ≤ 0x20000 → 
        rd = .next (reply s (s.readRegs (0x000FFF0000000000 + (off - 0x10000)) size) false)) ∧
      (bar = 0 → (f.sysWin = false ∨ fn ≠ 0 ∨ off < 0x10000 ∨ 0x20000 < off + size) → 0x10000 < off + size →
        rd = .next (reply s [] true)) ∧
      (bar = 0 → (f.sysWin = false ∨ fn ≠ 0 ∨ off < 0x10000 ∨ 0x20000 < off + bytes.length) →
        0x10000 < off + bytes.length → wr = .next s) ∧
      (bar = 2 → 2 ^ f.hbits < off + size → rd = .next (reply s [] true)) ∧
      (bar = 2 → 2 ^ f.hbits < off + bytes.length → wr = .next s)) ∧
    ∀ (p va : Nat) (o : Option Nat),
      (s.pcie.rootPort = true ∧ p = s.pcie.rootPart ∧ va = off ∧ o = none) ∨
      (s.pcie.rootPort = false ∧ bar = 2 ∧ ∃ f, s.pcie.fns.find? (fun x => x.fn == fn) = some f ∧ p = f.part ∧
        va = f.hbase.toNat + off ∧ o = some fn ∧ off + size ≤ 2 ^ f.hbits ∧ off + bytes.length ≤ 2 ^ f.hbits) →
      let begins := fun (writes : Bool) xs => s.peerBegin (.agent 98) none .host p (ioAgents 98) writes xs
      (∀ e t, s.hostSpan p o .read va size = .error e → s.hostFault p 0 e = some t → rd = .next (reply t [] true)) ∧
      (∀ e t, s.hostSpan p o .write va bytes.length = .error e → s.hostFault p 1 e = some t → wr = .next t) ∧
      (∀ xs b, s.hostSpan p o .read va size = .ok xs → begins false xs = (b, false) → rd = .next b) ∧
      (∀ xs b, s.hostSpan p o .write va bytes.length = .ok xs → begins true xs = (b, false) → wr = .next b) ∧
      ∀ (pa : Nat) (leaf : Word64) (b : State), pa < 0x0008000000000000 → leafCK leaf = false → s.Unheld →
        (0 < size → s.hostSpan p o .read va size = .ok [(va, size, pa, leaf)] →
          begins false [(va, size, pa, leaf)] = (b, true) → ∃ t : State, rd = .next t ∧
            t = { s with pcie := t.pcie, tokens := t.tokens, dirty := t.dirty, copies := t.copies, tokMsgs := t.tokMsgs,
                         sys := t.sys, regs := t.regs, granted := t.granted } ∧
            t.pcie = (reply s (Memory.read s.mem pa size) (s.poisoned pa size)).pcie ∧
            ∀ x ∈ s.tokens, pa / 64 ≤ x.line → x.line ≤ (pa + size - 1) / 64 → x.n = 128 → x.owner = true →
              (∀ y ∈ s.tokens, y.line = x.line → y = x) → s.tokMsgs = [] → t.tokensAt x.holder x.line = 127) ∧
        (0 < bytes.length → (∀ d ∈ s.domains, d.logbase + 40 ≠ pa) →
          s.hostSpan p o .write va bytes.length = .ok [(va, bytes.length, pa, leaf)] →
          begins true [(va, bytes.length, pa, leaf)] = (b, true) → ∃ t : State, wr = .next t ∧
            t = { s with mem := t.mem, dirty := t.dirty, tokens := t.tokens, copies := t.copies, tokMsgs := t.tokMsgs,
                         poison := t.poison, sys := t.sys, cores := t.cores, regs := t.regs, granted := t.granted } ∧
            (∀ j, j < bytes.length → Memory.get t.mem (pa + j) = bytes.getD j 0) ∧
            (∀ a, a < pa ∨ pa + bytes.length ≤ a → Memory.get t.mem a = Memory.get s.mem a) ∧
            ∀ ln, pa / 64 ≤ ln → ln ≤ (pa + bytes.length - 1) / 64 → (∀ x ∈ t.tokens, x.line ≠ ln) ∧ ∀ d ∈ t.dirty, d.line ≠ ln)) ∧
  (∀ s : State, s.parts.length = 64 →
    let bound := fun (p : Nat) => (s.pcie.rootPort = true ∧ p = s.pcie.rootPart) ∨
      (s.pcie.rootPort = false ∧ ∃ f ∈ s.pcie.fns, f.part = p)
    let entry := fun (t : State) (p : Nat) (payload : Nat) => ∃ (x : Part) (e : JEvent), t.parts[p]? = some x ∧ e ∈ x.jq ∧
      e.agent = 98 ∧ e.kind = 0x09 ∧ e.time = s.now ∧ e.payload.toNat = payload
    (s.pcie.up = true → exec .pcieLinkUp s = .next s) ∧ (s.pcie.up = false → exec .pcieLinkDown s = .next s) ∧
    (98 ∈ s.proctor.resets → exec .pcieLinkUp s = .next s) ∧
    (s.pcie.up = true → s.now < 2 ^ 64 → ∃ t : State, exec .pcieLinkDown s = .next t ∧ t.pcie.up = false ∧ t.pcie.downAt = some s.now ∧
      t.waves = s.waves ∧ (∀ p, bound p → p < 64 → entry t p s.now) ∧
      ∀ j jb, s.job? j = some jb → j < 256 → jb.loaded = true → bound (cardPart jb.card) →
        ∃ (x : Part) (e : JEvent), t.parts[cardPart (s.cardOf j)]? = some x ∧ e ∈ x.jq ∧ e.kind = 0x01 ∧ e.time = s.now ∧
          (e.payload.extractLsb' 0 8).toNat = 0 ∧ (e.payload.extractLsb' 8 8).toNat = 0x1A ∧
          (e.payload.extractLsb' 16 8).toNat = j ∧ (e.payload.extractLsb' 384 64).toNat = 0) ∧
    (s.pcie.up = false → ¬ 98 ∈ s.proctor.resets →
      (s.pcie.downAt = none → exec .pcieLinkUp s = .next { s with pcie := { s.pcie with up := true } }) ∧
      ∀ d, s.pcie.downAt = some d → d < 2 ^ 64 → s.now < 2 ^ 64 → ∃ t : State, exec .pcieLinkUp s = .next t ∧
        t = { s with pcie := { s.pcie with up := true, downAt := none }, parts := t.parts } ∧
        ∀ p, bound p → p < 64 → entry t p (d + s.now * 2 ^ 64)))

/-- R342, R385, R409, R431: APPLICATION_CORE_ACCESS (constructor applicationCoreAccess) is complete in one step for a
core of a pair that runs: a load and a load-reserved bring the bytes of memory, the latter with a reservation of
the line; a store, a cache-block zero and a store-conditional whose line is reserved write their bytes and no
other, one whose line is not reserved writes nothing; an AMO of 4 or 8 bytes reads and writes in one step. A
cache-block operation leaves no dirty data of the line in the pair's L2. A fence has nothing to wait for. What
does not translate, and an AMO, LR or SC not aligned to its size, is an access fault. In MODE 24 a core at level U
or S reaches what the tables of its partition register map. A claim takes the lowest identity pending and enabled.
An access that must wait changes only what its waiting changes. (No regulator holds a read back.) What an access
fault shows is log entry 44. -/
def Obligations.ApplicationCores : Prop :=
  ∀ (pair core : Nat) (s : State) (c : AppCore), s.pairRuns pair = true → core < 2 → s.cores[2 * pair + core]? = some c →
    let m := 2 * pair + core
    let run := fun (a : AppAccess) => exec (.applicationCoreAccess pair core a) s
    let h : Option Holder := if s.joinedIn (.pair pair) then some (.pair pair) else none
    let begins := fun (writes : Bool) xs => s.peerBegin (.agent (512 + m)) h .app c.part.toNat (appAgents m) writes xs
    let fault := Host.Outcome.next { s with appLast := none, appOk := false }
    let whole := fun (va n : Nat) => (n = 4 ∨ n = 8) ∧ va % n = 0
    let set := fun (f : AppCore → AppCore) => Host.Outcome.next { s with cores := s.cores.modify m f }
    (∀ a b, run (.fence a b) = .next s) ∧
    (∀ l, run (.set (.level l)) = set fun y => { y with level := l }) ∧
    (∀ p, run (.set (.partition p)) = set fun y => { y with part := p }) ∧
    (∀ md x, run (.set (.satp md x)) = set fun y => { y with satp := (md, x) }) ∧
    (∀ md x, md ≠ .part → run (.set (.vsatp md x)) = set (fun y => { y with vsatp := (md, x) }) ∧
      run (.set (.hgatp md x)) = set fun y => { y with hgatp := (md, x) }) ∧
    (∀ ids, run (.set (.enable ids)) = set fun y => { y with eie := ids }) ∧
    (∀ id, id < 256 → c.eip.getLsbD id = true → c.eie.getLsbD id = true →
      (∀ n, n < id → ¬ (c.eip.getLsbD n = true ∧ c.eie.getLsbD n = true)) →
      run .claim = .next { s with cores := s.cores.modify m fun y => { y with eip := y.eip &&& ~~~(BitVec.twoPow 256 id) }
                                  appLast := some (bytesOf 8 id), appOk := true }) ∧
    (∀ va n pa leaf vb sz, (c.level = .u ∨ c.level = .s) → c.satp.1 = .part → 0 < n → va / 4096 = (va + n - 1) / 4096 →
      management pa = false → ∀ kind, s.access c.part.toNat (appAgents m) kind true va n = .ok pa leaf vb sz →
      s.appSpan m c kind va n = some [(va, n, pa, leaf)]) ∧
    (∀ va n, s.appSpan m c .read va n = none → run (.load va n) = fault) ∧
    (∀ va bytes, s.appSpan m c .write va bytes.length = none → run (.store va bytes) = fault) ∧
    (∀ op va n x aq rl, ¬ whole va n ∨ s.appSpan m c .atomic va n = none → run (.amo op va n x aq rl) = fault) ∧
    (∀ va n aq rl, ¬ whole va n ∨ s.appSpan m c .read va n = none → run (.lr va n aq rl) = fault) ∧
    (∀ va n x aq rl, ¬ whole va n ∨ s.appSpan m c .write va n = none → run (.sc va n x aq rl) = fault) ∧
    (∀ va n xs b, s.appSpan m c .read va n = some xs → (∀ x ∈ xs, s.poisoned x.2.2.1 x.2.1 = false) →
      begins false xs = (b, false) → run (.load va n) = .next b) ∧
    (∀ va bytes xs b, s.appSpan m c .write va bytes.length = some xs → begins true xs = (b, false) →
      run (.store va bytes) = .next b) ∧
    ∀ (va pa : Nat) (leaf : Word64), pa < 0x0008000000000000 → leafCK leaf = false → (∀ d ∈ s.domains, d.logbase + 40 ≠ pa) →
      s.Unheld → (∀ x ∈ s.copies, x.2.1 ≠ .pair pair) →
      let reaches := fun (kind : Acc) (a n : Nat) => 0 < n ∧ s.poisoned pa n = false ∧
        s.appSpan m c kind a n = some [(a, n, pa, leaf)] ∧
        ∃ b, begins (kind == .write || kind == .atomic) [(a, n, pa, leaf)] = (b, true)
      let frame := fun (t : State) =>
        t = { s with mem := t.mem, dirty := t.dirty, tokens := t.tokens, copies := t.copies, tokMsgs := t.tokMsgs,
                     tokReqs := t.tokReqs, poison := t.poison, sys := t.sys, cores := t.cores, regs := t.regs,
                     granted := t.granted, appLast := t.appLast, appOk := true }
      let writes := fun (t : State) (n v : Nat) => frame t ∧
        (∀ j, j < n → Memory.get t.mem (pa + j) = BitVec.ofNat 8 (v / 256 ^ j)) ∧
        ∀ a, a < pa ∨ pa + n ≤ a → Memory.get t.mem a = Memory.get s.mem a
      let old := fun (n : Nat) => ((List.range n).map fun j => (Memory.get s.mem (pa + j)).toNat * 256 ^ j).sum
      (∀ n, reaches .read va n → ∃ t : State, run (.load va n) = .next t ∧ frame t ∧ t.mem = s.mem ∧ t.cores = s.cores ∧
        t.appLast = some (Memory.read s.mem pa n)) ∧
      (∀ n aq rl, whole va n → reaches .read va n → ∃ t : State, run (.lr va n aq rl) = .next t ∧ frame t ∧ t.mem = s.mem ∧
        t.cores = (s.cores.modify m fun y => { y with resv := some (pa / 64) }) ∧ t.appLast = some (Memory.read s.mem pa n)) ∧
      (∀ bytes, reaches .write va bytes.length → ∃ t : State, run (.store va bytes) = .next t ∧
        writes t bytes.length (ofBytes bytes) ∧ t.appLast = s.appLast) ∧
      (reaches .write (va / 64 * 64) 64 → ∃ t : State, run (.cboZero va) = .next t ∧ writes t 64 0 ∧ t.appLast = s.appLast) ∧
      (∀ op n (x : Word64) aq rl, whole va n → reaches .atomic va n → ∃ t : State, run (.amo op va n x aq rl) = .next t ∧
        t.appLast = some (Memory.read s.mem pa n) ∧
        writes t n (amoRule op (BitVec.ofNat (8 * n) (old n)) (x.setWidth (8 * n))).toNat) ∧
      (∀ n (x : Word64) aq rl, whole va n → reaches .write va n → ∃ t : State, run (.sc va n x aq rl) = .next t ∧
        (t.cores[m]?).map (·.resv) = some none ∧
        (c.resv = some (pa / 64) → t.appLast = some (bytesOf 8 0) ∧ writes t n x.toNat) ∧
        (c.resv ≠ some (pa / 64) → t.appLast = some (bytesOf 8 1) ∧ frame t ∧ t.mem = s.mem)) ∧
      (reaches .read va 1 → ∀ a, a = .cboClean va ∨ a = .cboInval va ∨ a = .cboFlush va →
        ∃ t : State, run a = .next t ∧ frame t ∧ t.mem = s.mem ∧ t.cores = s.cores ∧
          (∀ d ∈ t.dirty, ¬ (d.line = pa / 64 ∧ d.holder = .pair pair)) ∧
          (a ≠ .cboClean va → ∀ x ∈ t.tokens, ¬ (x.line = pa / 64 ∧ x.holder = .pair pair)))

/-- R336, R340, R341: TOKEN_REQUEST, FORWARDED_REQUEST and TOKEN_RESPONSE (constructors tokenRequest, forwardedRequest
and tokenResponse) complete. A joined holder that lacks what its access needs sends one transient request: it is
recorded with its time, forwarded to every other joined holder, and answered by the home from its own tokens. A
holder that a forwarded request of the current generation reaches answers by its tokens: to a read, one token if
it owns the line and has more, its one owner token, or nothing; to a write, all its tokens; while another's
persistent request is active, nothing. A message of an earlier generation has no effect. A requester keeps the
tokens that reach it, giving up another line where its cache has no room, or passes them on to an active
persistent request; tokens for the home or for a holder that has left go home. R337: a transient request fails
1,280 ns after it was sent; it is sent again, and after the fourth failure its requester sends a persistent one;
the home activates the oldest queued one, and every other joined holder sends it all its tokens; once it holds
what it needs, it is deactivated. (Constructors transientTimeout, persistentRequest and persistentDeactivate; each
completes. A holder that no route leads to has lost its tokens: R341.) R335, R336, R337: the events of the token
protocol never make tokens: where the holders and the messages of the current generation carry at most 128 tokens
of a line before one of them, they do after it. (Where no mesh link has failed; tokens that no route leads to are
lost: R341.) That each message is one turn is log entry 38. -/
def Obligations.CoherenceTokens : Prop :=
  ((∀ (h : Holder) (line : Nat) (wr : Bool) (s : State), let n := s.tokensAt h line
    let enough := if wr then n = 128 else 0 < n
    ((s.joinedIn h = false ∨ s.homeStopped (some h) = true ∨ enough ∨ ∃ r ∈ s.tokReqs, r.line = line ∧ r.holder = h) →
      exec (.tokenRequest h line wr) s = .next s) ∧
    (s.joinedIn h = true → s.homeStopped (some h) = false → ¬ enough → (∀ r ∈ s.tokReqs, r.line = line → r.holder ≠ h) →
      s.activeReq line = none →
      ∃ t : State, exec (.tokenRequest h line wr) s = .next t ∧ t = { s with tokReqs := t.tokReqs, tokMsgs := t.tokMsgs } ∧
        t.tokReqs = s.tokReqs ++ [{ holder := h, line := line, write := wr, sent := s.now, last := s.now, failures := 0, stage := 0 }] ∧
        (∀ x ∈ s.joinedHolders, x ≠ h → .forward line x h wr (s.gen line) ∈ t.tokMsgs) ∧
        (wr = true → 0 < s.homeTokens line → .response line (some h) (s.homeTokens line) (s.homeOwns line) (s.gen line) ∈ t.tokMsgs) ∧
        (wr = false → s.homeOwns line = true → 1 < s.homeTokens line → .response line (some h) 1 false (s.gen line) ∈ t.tokMsgs) ∧
        (wr = false → s.homeOwns line = true → s.homeTokens line = 1 → .response line (some h) 1 true (s.gen line) ∈ t.tokMsgs) ∧
        ∀ x ∈ s.tokMsgs, x ∈ t.tokMsgs)) ∧
  (∀ (m line : Nat) (to_ req : Holder) (wr : Bool) (g : BitVec 16) (s : State),
    s.tokMsgs[m]? = some (.forward line to_ req wr g) →
    let n := s.tokensAt to_ line
    let own := s.ownsAt to_ line
    let rest := s.tokMsgs.eraseIdx m
    let send := fun (k : Nat) (o : Bool) => ∃ t : State, exec (.forwardedRequest m) s = .next t ∧
      t = { s with tokens := t.tokens, dirty := t.dirty, tokMsgs := t.tokMsgs } ∧
      t.tokMsgs = rest ++ [.response line (some req) k o g] ∧ t.tokensAt to_ line = n - k ∧
      (o = true → t.ownsAt to_ line = false) ∧
      ∀ (x : Holder) (l : Nat), (x, l) ≠ (to_, line) → t.tokensAt x l = s.tokensAt x l
    (g ≠ s.gen line ∨ s.joinedIn to_ = false ∨ (∃ r, s.activeReq line = some r ∧ r.holder ≠ req) →
      exec (.forwardedRequest m) s = .next { s with tokMsgs := rest }) ∧
    (g = s.gen line → s.joinedIn to_ = true → s.activeReq line = none → s.cutOff to_ = false →
      (n = 0 ∨ (wr = false ∧ own = false) → exec (.forwardedRequest m) s = .next { s with tokMsgs := rest }) ∧
      (wr = true → 0 < n → send n own) ∧
      (wr = false → own = true → 1 < n → send 1 false) ∧
      (wr = false → own = true → n = 1 → send 1 true))) ∧
  ∀ (m line n : Nat) (to_ : Option Holder) (own : Bool) (g : BitVec 16) (s : State),
    s.tokMsgs[m]? = some (.response line to_ n own g) →
    let run := exec (.tokenResponse m) s
    let rest := s.tokMsgs.eraseIdx m
    (g ≠ s.gen line → run = .next { s with tokMsgs := rest }) ∧
    (g = s.gen line → to_ = none → s.activeReq line = none → run = .next { s with tokMsgs := rest }) ∧
    ∀ h, g = s.gen line → to_ = some h →
      (s.joinedIn h = false → s.activeReq line = none → ∃ t : State, run = .next t ∧
        t = { s with tokMsgs := rest, dirty := t.dirty, sys := t.sys, regs := t.regs }) ∧
      (s.joinedIn h = true → ∃ t : State, run = .next t ∧ t.mem = s.mem ∧ (∀ r ∈ t.tokReqs, r ∈ s.tokReqs) ∧
        (∀ (x : Holder) (l : Nat), (x, l) ≠ (h, line) → t.tokensAt x l = s.tokensAt x l ∨
          (x = h ∧ (s.roomFor h line).2 = some l ∧ t.tokensAt x l = 0)) ∧
        ((s.activeReq line = none ∨ ∃ r, s.activeReq line = some r ∧ r.holder = h) →
          t.tokensAt h line = s.tokensAt h line + n ∧ ((s.roomFor h line).2 = none → t.tokMsgs = rest)) ∧
        ∀ r, s.activeReq line = some r → r.holder ≠ h → 0 < s.tokensAt h line + n → t.tokensAt h line = 0 ∧
          .response line (some r.holder) (s.tokensAt h line + n) (s.ownsAt h line || own) g ∈ t.tokMsgs)) ∧
  ((∀ (h : Holder) (line : Nat) (s : State) (r : TokReq),
    s.tokReqs.find? (fun r => r.line == line && decide (r.holder = h)) = some r →
    (r.stage ≠ 0 ∨ s.now < r.last + 1280 → exec (.transientTimeout h line) s = .next s) ∧
    (r.stage = 0 → r.last + 1280 ≤ s.now → ∃ (t : State) (x : TokReq), exec (.transientTimeout h line) s = .next t ∧
      t.tokReqs.find? (fun r => r.line == line && decide (r.holder = h)) = some x ∧ x.failures = r.failures + 1 ∧
      x.sent = r.sent ∧ t.mem = s.mem ∧ t.tokens = s.tokens ∧
      (3 ≤ r.failures → x.stage = 1 ∧ t.tokMsgs = s.tokMsgs) ∧
      (r.failures < 3 → x.stage = 0 ∧ x.last = s.now ∧
        ∀ y ∈ s.joinedHolders, y ≠ h → .forward line y h r.write (s.gen line) ∈ t.tokMsgs))) ∧
  (∀ (h : Holder) (line : Nat) (s : State) (r : TokReq), r ∈ s.tokReqs → r.line = line → r.holder = h → r.stage = 1 →
    (∀ x ∈ s.tokReqs, x.line = line → x = r) → (∀ x ∈ s.joinedHolders, s.cutOff x = false) →
    ∃ t : State, exec (.persistentRequest h line) s = .next t ∧ t.mem = s.mem ∧ t.activeReq line = some { r with stage := 3 } ∧
      (∀ x ∈ s.joinedHolders, x ≠ h → t.tokensAt x line = 0 ∧
        (0 < s.tokensAt x line → .response line (some h) (s.tokensAt x line) (s.ownsAt x line) (s.gen line) ∈ t.tokMsgs)) ∧
      (0 < s.homeTokens line → ∃ k o, s.homeTokens line ≤ k ∧ (s.homeOwns line = true → o = true) ∧
        .response line (some h) k o (s.gen line) ∈ t.tokMsgs)) ∧
  ∀ (line : Nat) (s : State),
    (s.activeReq line = none → exec (.persistentDeactivate line) s = .next s) ∧
    ∀ r, s.activeReq line = some r →
      let has := if r.write then s.tokensAt r.holder line = 128 else 0 < s.tokensAt r.holder line
      (¬ has → exec (.persistentDeactivate line) s = .next s) ∧
      (has → (∀ x ∈ s.tokReqs, x.line = line → x.holder = r.holder) →
        exec (.persistentDeactivate line) s = .next { s with tokReqs := s.tokReqs.filter fun x => x.line != line })) ∧
  (∀ (i : Instr) (line : Nat) (s t : State),
    ((∃ h l wr, i = .tokenRequest h l wr) ∨ (∃ m, i = .forwardedRequest m) ∨ (∃ m, i = .tokenResponse m) ∨
      (∃ h l, i = .transientTimeout h l) ∨ (∃ h l, i = .persistentRequest h l) ∨ (∃ l, i = .persistentDeactivate l)) →
    s.links = [] → exec i s = .next t → s.lineTokens line ≤ 128 → t.lineTokens line ≤ 128)

/-- R340, R341, R464: a cache that is to leave gives up its tokens, its dirty data and its copies and takes no part in
coherence; one that may take part again joins with no more tokens than before. When a forward to a joined holder
cannot be delivered, the line's tokens are lost: no holder keeps any, its generation advances, it is poisoned,
dirty data of it is gone, and an unreachable cluster is isolated. (Constructors leave, joinMessage and tokensLost;
each completes.) Corners follow log entry 38. -/
def Obligations.LeaveAndJoin : Prop :=
  (∀ (h : Holder) (s : State), (∀ n, h = .cluster n → n < s.clusters.length) →
    (s.joinedIn h = false ∨ s.leaveDue h = false → exec (.leave h) s = .next s) ∧
    (s.joinedIn h = true ∨ s.leaveDue h = true → exec (.joinMessage h) s = .next s) ∧
    (s.joinedIn h = true → s.leaveDue h = true → ∃ t : State, exec (.leave h) s = .next t ∧ t.mem = s.mem ∧
      t.joinedIn h = false ∧ (∀ x ∈ t.tokens, x.holder ≠ h) ∧ (∀ x ∈ t.dirty, x.holder ≠ h) ∧
      (∀ x ∈ t.copies, x.2.1 ≠ h) ∧ ∀ x ∈ s.tokens, x.holder ≠ h → x ∈ t.tokens) ∧
    (s.joinedIn h = false → s.leaveDue h = false →
      (∀ n, h = .cluster n → (s.clusters[n]?).map (·.selfTest) = some true) →
      ∃ t : State, exec (.joinMessage h) s = .next t ∧ t = { s with clusters := t.clusters, left := t.left } ∧
        t.joinedIn h = true)) ∧
  ∀ (line : Nat) (h : Holder) (s : State),
    (s.joinedIn h = false → exec (.tokensLost line h) s = .next s) ∧
    (s.joinedIn h = true → (∀ n, h = .cluster n → s.gangsOn n = []) → ∃ t : State, exec (.tokensLost line h) s = .next t ∧
      (∀ x ∈ t.tokens, x.line ≠ line) ∧ t.gen line = s.gen line + 1 ∧ (∀ l, l ≠ line → t.gen l = s.gen l) ∧ line ∈ t.poison ∧
      (∀ x ∈ t.dirty, x.line ≠ line) ∧ (∀ x ∈ s.tokens, x.line ≠ line → x ∈ t.tokens) ∧
      (∀ d, s.dirty.find? (fun d => d.line == line) = some d → Memory.line t.mem line = d.home) ∧
      (∀ a, a / 64 ≠ line → Memory.get t.mem a = Memory.get s.mem a) ∧
      ∀ n, h = .cluster n → (t.clusters[n]?).map (·.isolated) = some true)

/-- R459, R460: RESTORE (constructor restore) completes: a restore that has been requested puts every line of the open
checkpoint back, where its undo copies are complete, reports it as torn with REASON 1 in the domain's header, and
keeps RCP where its checkpoint's digest holds; with NOUNDO set there is no checkpoint left: RCP = 0. A digest that
no longer holds leaves RCP = 0 with REASON 3 without undo copies, and with them, the lines put back, RCP is the
checkpoint before; the partition's journal is told. While the reads for the digests wait for a regulator nothing
else changes. (No checkpoint write pending; no job to be told; no regulator holds a read back otherwise.) R441,
R442, R451, R462, R463: the loss of input power drains the persistence unit's buffer; the patrol scrub poisons a
line with an uncorrectable error and nothing else; a flit is sent again; a lane is retrained out, the compute die
being reset below 48 lanes of a direction, with its end of the link and every queue disabled; a failed mesh link
between neighbours is recorded. (Constructors modulePowerFail, flitCrcRetry, patrolScrub, laneRetrain and
meshLinkFailure; each completes.) The KIND 0x0B payload is the model's choice (log entry 26); failures come from
the agenda (log entry 49). -/
def Obligations.RestoresAndErrors : Prop :=
  (∀ (p d : Nat) (s : State) (x : Domain), s.domain? p d = some x → (∀ e ∈ s.jobs, e.2.lastCkctl = false) →
    (∀ w ∈ s.ckPend, ¬ (w.part = p ∧ w.d = d)) → 
    let run := exec (.restore p d) s
    let reads := s.persistReads (x.digestLines (s.restored x))
    let header := fun (a : Nat) => x.logbase ≤ a ∧ a < x.logbase + 64
    let still := fun (t : State) => ∀ a, ¬ header a → Memory.get t.mem a = Memory.get s.mem a
    let quiet := fun (t : State) => t = { s with domains := t.domains, mem := t.mem, regs := t.regs, granted := t.granted }
    let done := fun (t : State) (rcp reason torn : Nat) => (∃ y : Domain, t.domain? p d = some y ∧ y.rcp = rcp ∧ y.openCk = 0 ∧
      y.state = 0 ∧ y.busy = false ∧ y.tags = [] ∧ y.undo = [] ∧ y.noundo = false ∧ (y.tornf = true ↔ reason ≠ 0) ∧
      y.reason = reason ∧ y.tornck = torn) ∧
      (reason ≠ 0 → ∀ z, s.parts[p]? = some z → ∃ (y : Part) (e : JEvent), t.parts[p]? = some y ∧ e ∈ y.jq ∧ e.agent = 97 ∧
        e.kind = 0x0B ∧ e.time = s.now)
    let back := fun (t : State) (undo : List (Nat × Line)) => (∀ e ∈ undo, ¬ e.1 ∈ t.poison ∧
        ((∀ j, j < 64 → ¬ header (64 * e.1 + j)) → Memory.line t.mem e.1 = e.2)) ∧
      ∀ a, ¬ header a → (∀ e ∈ undo, e.1 ≠ a / 64) → Memory.get t.mem a = Memory.get s.mem a
    (x.busy = false ∨ s.persistDown = true → run = .next s) ∧
    (x.busy = true → s.persistDown = false → reads.2 = false → run = .next reads.1) ∧
    (x.busy = true → s.persistDown = false → reads.2 = true → s.Unheld →
      (x.tags ≠ [] → x.openCk ≠ 0 →
        (x.noundo = true → ∃ t : State, run = .next t ∧ still t ∧ done t 0 1 x.openCk) ∧
        (x.noundo = false → x.rcp = 0 → (x.undo.map (·.1)).Nodup →
          ∃ t : State, run = .next t ∧ back t x.undo ∧ done t 0 1 x.openCk)) ∧
      (x.tags = [] →
        (x.rcp = 0 → ∃ t : State, run = .next t ∧ quiet t ∧ still t ∧ done t 0 0 0) ∧
        ∀ sl, x.seals.find? (fun y => y.n == x.rcp) = some sl → x.rcp ≠ 0 →
          let holds := (∀ l ∈ sl.tags, ¬ l ∈ s.poison) ∧ s.lineDigest sl.tags = sl.digest
          (sl.count = sl.tags.length → holds → ∃ t : State, run = .next t ∧ quiet t ∧ still t ∧ done t x.rcp 0 0) ∧
          (sl.count = sl.tags.length → ¬ holds → sl.hasUndo = false → ∃ t : State, run = .next t ∧ still t ∧ done t 0 3 x.rcp) ∧
          (sl.count = sl.tags.length → ¬ holds → sl.hasUndo = true → sl.noundo = false → sl.prev = 0 →
            (sl.undo.map (·.1)).Nodup → ∃ t : State, run = .next t ∧ back t sl.undo ∧ done t 0 3 x.rcp) ∧
          (sl.count ≠ sl.tags.length → sl.hasUndo = false → ∃ t : State, run = .next t ∧ still t ∧ done t 0 2 x.rcp)))) ∧
  ((∀ s : State, (∃ t : State, exec .modulePowerFail s = .next t ∧ t = { s with ckBuf := [], regs := t.regs }) ∧
    exec .flitCrcRetry s = .next { s with outTx := s.outTx + 1 }) ∧
  (∀ (line : Nat) (s : State), exec (.patrolScrub line .clean) s = .next s ∧ exec (.patrolScrub line .correctable) s = .next s ∧
    ∃ t : State, exec (.patrolScrub line .uncorrectable) s = .next t ∧ t = { s with poison := t.poison } ∧
      ∀ l, l ∈ t.poison ↔ l ∈ s.poison ∨ (l = line ∧ 64 * line < s.capacity)) ∧
  (∀ (dir lane : Nat) (s : State),
    let lost := (s.lanes.filter fun l => l.1 == dir).length
    (2 ≤ dir ∨ 64 ≤ lane ∨ (dir, lane) ∈ s.lanes → exec (.laneRetrain dir lane) s = .next s) ∧
    (dir < 2 → lane < 64 → ¬ (dir, lane) ∈ s.lanes →
      (lost + 1 ≤ 16 → exec (.laneRetrain dir lane) s = .next { s with lanes := (dir, lane) :: s.lanes }) ∧
      (16 < lost + 1 → s.clusters.length = 64 → ∃ u : State, exec (.laneRetrain dir lane) s = .next (State.settle u) ∧
        u.lanes = [] ∧ (∀ q e, q < 64 → u.qtab[q]? = some e → e.en = false) ∧ (∀ e ∈ u.l1, 256 ≤ e.core) ∧
        ∀ (n : Nat) (y : Cluster), u.clusters[n]? = some y → y.scratch = [] ∧ y.fifos = [] ∧ y.acm = [] ∧ y.regions = [] ∧
          y.isolated = false ∧ y.selfTest = (s.proctor.clusterOk[n]?).getD true))) ∧
  ∀ (a b : Nat) (s : State),
    let near := (a / 8 = b / 8 ∧ (a + 1 = b ∨ b + 1 = a)) ∨ a + 8 = b ∨ b + 8 = a
    let l := (min a b, max a b)
    (¬ (near ∧ a < 64 ∧ b < 64) ∨ l ∈ s.links → exec (.meshLinkFailure a b) s = .next s) ∧
    (near → a < 64 → b < 64 → ¬ l ∈ s.links → exec (.meshLinkFailure a b) s = .next { s with links := l :: s.links }))

/-- R389, R390, R465, R467, R468: BOOT (constructor boot) completes: the boot takes its stages in order, those of
domains that run already apart, and stops at the first that fails, with its code, after which only the Proctor
runs; when all complete, STAGE is 7 and RESULT 0, TIME counts from 0, the tables are those of the configuration
record, no queue standing in two partitions' QMASK, and every cluster whose self-test passes is active and in
coherence, while one that fails is in pool 3. R465: PROCTOR_RESTART and PROCTOR_RESTART_COMPLETE (constructors
proctorRestart and proctorRestartComplete) complete: a restart of the Proctor resets its own window and SRAM and
leaves every other domain; when it has booted again, each partition's journal names the cause, and a restart
request that waited is taken. Whether a signature verifies is uninterpreted (log entry 9), and the record is held
decoded (log entry 46). -/
def Obligations.BootAndRestart : Prop :=
  (∀ s : State, let P := s.proctor
    let ends := fun (stage code : Nat) => ∃ t : State, exec .boot s = .next t ∧ t.mem = s.mem ∧ t.proctor.booted = true ∧
      t.proctor.stage.toNat = stage ∧ t.proctor.result.toNat = code ∧ (t.proctor.halted = true ↔ code ≠ 0)
    (P.booted = true → exec .boot s = .next s) ∧
    (P.booted = false →
      (P.pickSlot = none → ends 0 1) ∧
      ∀ b slot, P.pickSlot = some (b, slot) →
        (P.config = none → ends 1 2) ∧
        ∀ c, P.config = some c →
          let f := configFault { P with slot := b } slot.owners
          let memory := 3 ≤ P.up ∨ (P.memOk = true ∧ P.linkOk = true)
          let ports := memory ∧ (4 ≤ P.up ∨ P.portOk = true)
          let pairs := ports ∧ (5 ≤ P.up ∨ P.pairOk = true)
          (f ≠ 0 → ends 1 f ∧ (f = 2 ∨ f = 3)) ∧
          (f = 0 → P.up < 3 → P.memOk = false → ends 2 4) ∧
          (f = 0 → P.up < 3 → P.memOk = true → P.linkOk = false → ends 2 5) ∧
          (f = 0 → memory → P.up < 4 → P.portOk = false → ends 3 6) ∧
          (f = 0 → ports → P.up < 5 → P.pairOk = false → ends 4 7) ∧
          (f = 0 → pairs → P.storeOk = false → ends 6 8) ∧
          (f = 0 → pairs → P.storeOk = true → ends 7 0 ∧ ∃ t : State, exec .boot s = .next t ∧ t.proctor.slot = b ∧
            t.proctor.pcap = c.pcap ∧ P.fwsvn ≤ t.proctor.fwsvn ∧ slot.svn ≤ t.proctor.fwsvn ∧
            (3 ≤ P.up → t.now = s.now) ∧ (P.up < 3 → t.now = 0) ∧
            (4 ≤ P.up → t.pcie = s.pcie ∧ t.classes = s.classes) ∧
            (P.up < 4 → t.pcie.fns = c.fns ∧ t.pcie.rootPort = c.rootPort ∧ t.pcie.rootPart = c.rootPart ∧
              (c.classes.length = 4 → t.classes = c.classes) ∧
              ((c.parts.map (·.1)).Nodup → ∀ q en ways root qm, (q, en, ways, root, qm) ∈ c.parts → q < s.parts.length →
                ∃ y : Part, t.parts[q]? = some y ∧ y.en = en ∧ y.ways = ways ∧ y.ptroot = root) ∧
              ((∀ x ∈ s.parts, x.qmask = 0) → (∀ e ∈ s.qtab, e.en = false) → s.parts.length = 64 →
                ∀ (q r : Nat) (x y : Part), q ≠ r → t.parts[q]? = some x → t.parts[r]? = some y → x.qmask &&& y.qmask = 0)) ∧
            (P.up < 6 → ∀ (n : Nat) (y : Cluster), n < 64 → s.clusters[n]? = some y →
              let ok := (P.clusterOk[n]?).getD true
              t.clusters[n]? = some { y with selfTest := ok, isolated := false, joined := ok,
                                             power := if ok then Power.active else Power.off } ∧
              (ok = false → n < s.pool.length → t.pool[n]? = some 3)) ∧
            (6 ≤ P.up → t.clusters = s.clusters)))) ∧
  ((∀ (cause : Nat) (s : State), let p := s.proctor
    (p.booted = false ∨ p.restarting.isSome ∨ cause = 0 ∨ 3 < cause → exec (.proctorRestart cause) s = .next s) ∧
    (p.booted = true → p.restarting = none → 1 ≤ cause → cause ≤ 3 →
      ∃ t : State, exec (.proctorRestart cause) s = .next t ∧ t = { s with proctor := t.proctor } ∧
        t.proctor.restarting = some cause ∧ t.proctor.stage = 0 ∧ t.proctor.result = 0 ∧ t.proctor.tolm = 0 ∧
        t.proctor.tolg = 0 ∧ t.proctor.tols = 0 ∧ t.proctor.hbpair = 0 ∧ t.proctor.hben = 0 ∧ t.proctor.nonce = 0 ∧
        t.proctor.qaddr = 0 ∧ t.proctor.qbusy = false ∧ t.proctor.domain = 0 ∧ t.proctor.sram = [] ∧
        t.proctor.config = p.config ∧ t.proctor.resets = p.resets ∧ t.proctor.up = p.up ∧ t.proctor.fwsvn = p.fwsvn)) ∧
  ∀ s : State, let run := exec .proctorRestartComplete s
    (s.proctor.restarting = none → run = .next s) ∧
    ∀ c, s.proctor.restarting = some c → 6 ≤ s.proctor.up →
      ∃ t : State, t = { s with proctor := t.proctor, parts := t.parts } ∧
        (s.proctor.waiting = none → run = .next t) ∧
        (∀ d, s.proctor.waiting = some d →
          run = exec (.domainRestart d) { t with proctor := { t.proctor with waiting := none } }) ∧
        t.proctor.restarting = none ∧ t.proctor.booted = true ∧ t.proctor.resets = s.proctor.resets ∧
        (∀ b slot, s.proctor.pickSlot = some (b, slot) → s.proctor.config.isSome →
          configFault { s.proctor with slot := b, restarting := none } slot.owners = 0 →
          s.proctor.storeOk = true → t.proctor.stage = 7 ∧ t.proctor.result = 0 ∧ t.proctor.halted = false) ∧
        ∀ (q : Nat) (x : Part), q < 64 → s.parts[q]? = some x → t.parts[q]? = some { x with jq := x.jq ++
          [{ time := s.now, agent := 255, kind := 0x10, payload := BitVec.ofNat 896 c }] })

/-- R466, R470: HEARTBEAT and HEARTBEAT_TIMEOUT (constructors heartbeat and heartbeatTimeout) complete: a heartbeat
clears a domain's misses, that of an application-core pair through its HBPAIR bit; the third millisecond in a row
without one restarts the domain as if GO were written for it; a pair outside HBEN is not supervised. R464, R465,
R471: DOMAIN_RESTART and DOMAIN_RESTART_DONE (constructors domainRestart and domainRestartDone) complete: a domain
restart is taken while none is under way: the domain is named, its steps are in every partition's journal, a
cluster is isolated and loses its contents, an application-core pair leaves coherence with its cores reset, and a
block's registers are reset; while the Proctor itself restarts, it waits. When it is done the domain is back: a
cluster in coherence and its pool, a pair in coherence, the link, below 48 lanes of a direction with the compute
die reset, the Timetable running. Corners follow log entries 45 and 47. -/
def Obligations.DomainRestarts : Prop :=
  (∀ (dom : Nat) (s : State), dom ≤ 102 → s.proctor.restarting = none →
    let pair := 64 ≤ dom ∧ dom < 72
    let p := s.proctor
    (¬ pair → ∃ t : State, exec (.heartbeat dom) s = .next t ∧ t = { s with proctor := { p with missed := t.proctor.missed } } ∧
      t.proctor.missed.lookup dom = none ∧ ∀ n, n ≠ dom → t.proctor.missed.lookup n = p.missed.lookup n) ∧
    (pair → exec (.heartbeat dom) s = .next { s with proctor := { p with hbpair := p.hbpair ||| BitVec.twoPow 8 (dom - 64) } }) ∧
    (dom ∈ p.resets → exec (.heartbeatTimeout dom) s = .next s) ∧
    (¬ dom ∈ p.resets → pair → p.hbpair.getLsbD (dom - 64) = true →
      ∃ t : State, exec (.heartbeatTimeout dom) s = .next t ∧ t.proctor.missed.lookup dom = none ∧
        t = { s with proctor := { p with missed := t.proctor.missed, hbpair := p.hbpair &&& ~~~(BitVec.twoPow 8 (dom - 64)) } }) ∧
    (pair → p.hbpair.getLsbD (dom - 64) = false → p.hben.getLsbD (dom - 64) = false →
      exec (.heartbeatTimeout dom) s = .next s) ∧
    (¬ dom ∈ p.resets → ¬ pair ∨ (p.hbpair.getLsbD (dom - 64) = false ∧ p.hben.getLsbD (dom - 64) = true) →
      ∃ u : State, u = { s with proctor := { p with missed := u.proctor.missed } } ∧
        u.proctor.missed.lookup dom = some ((p.missed.lookup dom).getD 0 + 1) ∧
        ((p.missed.lookup dom).getD 0 < 2 → exec (.heartbeatTimeout dom) s = .next u) ∧
        (2 ≤ (p.missed.lookup dom).getD 0 → exec (.heartbeatTimeout dom) s = exec (.domainRestart dom) u))) ∧
  ((∀ (dom : Nat) (s : State), let p := s.proctor
    let run := exec (.domainRestart dom) s
    (102 < dom ∨ p.resets ≠ [] ∨ p.booted = false ∨ p.halted = true → run = .next s) ∧
    (dom ≤ 102 → p.resets = [] → p.booted = true → p.halted = false →
      (p.restarting.isSome → run = .next { s with proctor := { p with waiting := some dom } }) ∧
      (p.restarting = none → ∃ t : State, run = .next t ∧ t.proctor.resets = [dom] ∧
        t.proctor.domain.toNat = dom ∧ t.proctor.booted = true ∧
        (∀ (q : Nat) (x : Part), q < 64 → s.parts[q]? = some x → ∃ y : Part, t.parts[q]? = some y ∧ ∀ step, step = 1 ∨ step = 2 →
          { time := s.now, agent := 255, kind := 0x0F, payload := BitVec.ofNat 896 (dom + 256 * step) } ∈ y.jq) ∧
        (∀ y, s.clusters[dom]? = some y → dom < 64 → ∃ z : Cluster, t.clusters[dom]? = some z ∧ z.isolated = true ∧ z.joined = false ∧
          z.selfTest = false ∧ z.scratch = [] ∧ z.fifos = [] ∧ z.acm = [] ∧ z.regions = []) ∧
        (64 ≤ dom → dom < 72 → t.joinedIn (.pair (dom - 64)) = false ∧ t.waves = s.waves ∧
          (∀ n, n / 2 = dom - 64 → n < s.cores.length → t.cores[n]? = some AppCore.reset) ∧
          (s.joinedIn (.pair (dom - 64)) = true → ∀ x ∈ t.tokens, x.holder ≠ .pair (dom - 64)) ∧
          ∀ a, (∀ x ∈ s.tokens, x.holder = .pair (dom - 64) → x.line ≠ a / 64) →
            (∀ d ∈ s.dirty, d.holder = .pair (dom - 64) → d.line ≠ a / 64) → Memory.get t.mem a = Memory.get s.mem a) ∧
        (72 ≤ dom → dom ≤ 95 → t.mem = s.mem ∧ (∀ r ∈ t.regs, r.g ≠ dom - 72) ∧ ∀ r ∈ s.regs, r.g ≠ dom - 72 → r ∈ t.regs) ∧
        (dom = 96 → t.sys = [] ∧ t.mem = s.mem) ∧ (dom = 97 → t.ckBuf = [] ∧ t.mem = s.mem) ∧
        (dom = 98 → t.pcie.up = false ∧ ∀ f ∈ t.pcie.fns, f.msix = false ∧ f.pending = 0) ∧
        (dom = 99 → t.clock.locked = false ∧ t.mem = s.mem ∧ ∀ n x, 8 ≤ n → n ≤ 11 → s.streams[n]? = some x →
          t.streams[n]? = some { Stream.reset with owner := x.owner, ownen := x.ownen, rings := x.rings }) ∧
        (dom = 100 → t.mem = s.mem ∧ ∀ n x, n ≤ 7 → s.streams[n]? = some x →
          t.streams[n]? = some { Stream.reset with owner := x.owner, ownen := x.ownen, rings := x.rings }) ∧
        (dom = 101 → t.mem = s.mem ∧ ∀ l ∈ t.lanes, l ∈ s.lanes) ∧
        (dom = 102 → t.ttDown = true ∧ t.ttSince = s.now ∧ t.mem = s.mem ∧ t.insts = s.insts ∧ t.qtab = s.qtab ∧
          ∀ x ∈ t.parts, x.jtbase = 0 ∧ x.jobload = 0 ∧ x.lok = false ∧ x.ldet = 0)))) ∧
  ∀ (dom : Nat) (s : State), let p := s.proctor
    let run := exec (.domainRestartDone dom) s
    (¬ dom ∈ p.resets ∨ p.restarting.isSome → run = .next s) ∧
    (dom ∈ p.resets → p.restarting = none →
      let ok := (p.clusterOk[dom]?).getD true
      let shifted := s.insts.map fun i => { i with progress := i.progress + (s.now - s.ttSince) }
      (dom < 64 → ∀ y, s.clusters[dom]? = some y → ∃ u : State, run = .next (State.settle u) ∧
        u.proctor.resets = [] ∧ u.mem = s.mem ∧ u.undecided = true ∧
        u.clusters[dom]? = some { y with selfTest := ok, isolated := false, joined := ok, power := if ok then Power.active else Power.off }) ∧
      (64 ≤ dom → dom < 72 → ∃ t : State, run = .next t ∧ t.proctor.resets = [] ∧ t.mem = s.mem ∧
        t.joinedIn (.pair (dom - 64)) = true) ∧
      (72 ≤ dom → dom ≤ 101 → (dom = 101 → s.lanesShort = false) → ∃ t : State, run = .next t ∧
        t = { s with proctor := t.proctor, parts := t.parts } ∧ t.proctor.resets = []) ∧
      (dom = 101 → s.lanesShort = true → ∃ u : State, run = .next (State.settle u) ∧ u.lanes = [] ∧ u.proctor.resets = []) ∧
      (dom = 102 → (∀ t ∈ ({ s with ttDown := false, insts := shifted } : State).dueTimes, s.now ≤ t) →
        ∃ u : State, run = .next (State.settle u) ∧ u.ttDown = false ∧ u.mem = s.mem ∧ u.insts = shifted ∧ u.undecided = true)))

/-- R453, R469: QUOTE (constructor quote) completes: while QBUSY = 1 a quote of 4,915 bytes is written at QADDR: the
magic number, the length, TIME, the nonce, then digests, versions and the signature; QBUSY clears, and every other
byte of memory keeps its value. A log region refuses the write. R472, R473: CLUSTER_POWER_DOWN and POWER_SAMPLE
(constructors clusterPowerDown and powerSample) complete: a cluster that holds nothing goes to the deepest state
whose exit latency its kind tolerates, leaving coherence from POWER_GATED on; a mean power above PCAP withholds
the highest free cluster, one below 95 % of it returns the lowest withheld one, and one between changes nothing.
The signature is uninterpreted (log entry 9); the payload of KIND 0x0E and the mean of few samples are the model's
choice (log entry 47). -/
def Obligations.QuotesAndPower : Prop :=
  (∀ s : State, let p := s.proctor
    (p.booted = false ∨ p.restarting.isSome ∨ p.qbusy = false → exec .quote s = .next s) ∧
    (p.booted = true → p.restarting = none → p.qbusy = true →
      let q := p.qaddr.toNat
      (s.logRefuses q 4915 = true → exec .quote s = .next { s with proctor := { p with qbusy := false } }) ∧
      (s.logRefuses q 4915 = false → ∃ t : State, exec .quote s = .next t ∧
        t = { s with mem := t.mem, dirty := t.dirty, tokens := t.tokens, copies := t.copies, tokMsgs := t.tokMsgs,
                     poison := t.poison, sys := t.sys, cores := t.cores, proctor := { p with qbusy := false } } ∧
        (∀ j, j < 4 → Memory.get t.mem (q + j) = BitVec.ofNat 8 (0x51544F51 / 256 ^ j)) ∧
        (∀ j, j < 4 → Memory.get t.mem (q + 4 + j) = BitVec.ofNat 8 (4915 / 256 ^ j)) ∧
        (∀ j, j < 8 → Memory.get t.mem (q + 8 + j) = BitVec.ofNat 8 (s.now / 256 ^ j)) ∧
        (∀ j, j < 64 → Memory.get t.mem (q + 16 + j) = BitVec.ofNat 8 (p.nonce.toNat / 256 ^ j)) ∧
        ∀ a, a < q ∨ q + 4915 ≤ a → Memory.get t.mem a = Memory.get s.mem a))) ∧
  ((∀ (cl : Nat) (s : State) (c : Cluster) (pool : BitVec 2), s.clusters[cl]? = some c → s.pool[cl]? = some pool →
    let tol := if pool = 0 then s.proctor.tolm.toNat else if pool = 1 then s.proctor.tolg.toNat
      else if pool = 2 then s.proctor.tols.toNat else 0
    let to_ := if 2000000 ≤ tol then Power.off else if 200000 ≤ tol then .retain else if 10000 ≤ tol then .powerGated
      else if 100 ≤ tol then .clockGated else .active
    (s.idleCluster cl = false ∨ to_.depth ≤ c.power.depth → exec (.clusterPowerDown cl) s = .next s) ∧
    (s.idleCluster cl = true → c.power.depth < to_.depth → ∃ (t : State) (y : Cluster), exec (.clusterPowerDown cl) s = .next t ∧
      t.mem = s.mem ∧ t.waves = s.waves ∧ t.clusters[cl]? = some y ∧ y.power = to_ ∧
      (∀ n, n ≠ cl → t.clusters[n]? = s.clusters[n]?) ∧ (to_ = .clockGated → y = { c with power := .clockGated }) ∧
      (to_ = .powerGated → y = { c with power := .powerGated, joined := false }) ∧
      (to_ = .retain ∨ to_ = .off → y.scratch = [] ∧ y.fifos = [] ∧ y.acm = [] ∧ y.lcache = []) ∧
      (to_ ≠ .clockGated → y.joined = false ∧ ∀ x ∈ t.tokens, x.holder ≠ .cluster cl))) ∧
  ∀ (mw : Nat) (s : State), let p := s.proctor
    (p.booted = false ∨ p.restarting.isSome → exec (.powerSample mw) s = .next s) ∧
    (p.booted = true → p.restarting = none →
      let xs := (mw :: p.samples).take 100
      let sampled : State := { s with proctor := { p with samples := xs } }
      let free := fun (n : Nat) => s.idleCluster n = true ∧ (s.clusters[n]?).map (·.withheld) = some false
      let held := fun (n : Nat) => (s.clusters[n]?).map (·.withheld) = some true
      (p.pcap * xs.length < xs.sum → (∀ n, n < 64 → ¬ free n) → exec (.powerSample mw) s = .next sampled) ∧
      (p.pcap * xs.length < xs.sum → ∀ n, n < 64 → free n → (∀ m, n < m → m < 64 → ¬ free m) →
        ∃ (t : State) (y : Cluster), exec (.powerSample mw) s = .next t ∧ t.mem = s.mem ∧ t.waves = s.waves ∧
          t.proctor = sampled.proctor ∧ t.clusters[n]? = some y ∧ y.withheld = true ∧ 2 ≤ y.power.depth ∧
          ∀ m, m ≠ n → t.clusters[m]? = s.clusters[m]?) ∧
      (xs.sum ≤ p.pcap * xs.length → 95 * (p.pcap * xs.length) ≤ 100 * xs.sum → exec (.powerSample mw) s = .next sampled) ∧
      (100 * xs.sum < 95 * (p.pcap * xs.length) → (∀ n, n < 64 → ¬ held n) → exec (.powerSample mw) s = .next sampled) ∧
      (100 * xs.sum < 95 * (p.pcap * xs.length) → ∀ n, n < 64 → held n → (∀ m, m < n → ¬ held m) →
        ∃ (u : State) (y : Cluster), exec (.powerSample mw) s = .next (State.settle u) ∧ u.mem = s.mem ∧ u.undecided = true ∧
          u.clusters[n]? = some y ∧ y.withheld = false ∧ ∀ m, m ≠ n → u.clusters[m]? = s.clusters[m]?)))
end

