-- ==== Sys2Proof/Laws/Memory.lean ====
section
/-!
SUPPORT. Memory: the canonical form is kept by every operation on a memory, and what a byte reads after each of them.
-/

namespace Sys2Proof.Machine

/-- The parts of the canonical form of a list with a head. -/
theorem Memory.wf_cons {k : Nat} {b : Byte} {t : List Host.Cell} :
    Memory.wf ((k, b) :: t) = true ↔ b ≠ 0 ∧ (∀ e, t.head? = some e → k < e.1) ∧ Memory.wf t = true := by
  cases t with
  | nil => simp [Memory.wf]
  | cons e t => simp [Memory.wf, and_assoc]

/-- Addresses below every listed one read 0. -/
theorem Memory.get_below {t : List Host.Cell} (h : Memory.wf t = true) {a : Nat}
    (ha : ∀ e, t.head? = some e → a < e.1) : Memory.get t a = 0 := by
  induction t with
  | nil => rfl
  | cons e t ih =>
    obtain ⟨k, b⟩ := e
    have hk : a < k := ha (k, b) rfl
    obtain ⟨-, h2, h3⟩ := Memory.wf_cons.1 h
    rw [Memory.get, if_neg (by omega)]
    exact ih h3 fun e he => Nat.lt_trans hk (h2 e he)

/-- Setting a byte keeps the canonical form, and lists nothing below the byte and what was listed. -/
theorem Memory.set_bounds {m : List Host.Cell} (h : Memory.wf m = true) (a : Nat) (b : Byte) :
    Memory.wf (Memory.set m a b) = true ∧
    ∀ n, n ≤ a → (∀ e, m.head? = some e → n ≤ e.1) → ∀ e, (Memory.set m a b).head? = some e → n ≤ e.1 := by
  induction m with
  | nil =>
    by_cases hb : b = 0#8 <;> simp [Memory.set, hb, Memory.wf]
  | cons x t ih =>
    obtain ⟨k, c⟩ := x
    obtain ⟨h1, h2, h3⟩ := Memory.wf_cons.1 h
    obtain ⟨ih1, ih2⟩ := ih h3
    by_cases hak : a < k
    · by_cases hb : b = 0
      · simp only [Memory.set, hak, hb, if_true]
        exact ⟨h, fun n _ hn e he => hn e he⟩
      · simp only [Memory.set, hak, hb, if_true, if_false]
        refine ⟨Memory.wf_cons.2 ⟨hb, fun e he => ?_, h⟩, fun n hn _ e he => ?_⟩
        · simp only [List.head?_cons, Option.some.injEq] at he; subst he; exact hak
        · simp only [List.head?_cons, Option.some.injEq] at he; subst he; exact hn
    · by_cases hk : a = k
      · subst hk
        by_cases hb : b = 0
        · simp only [Memory.set, hb, Nat.lt_irrefl, if_true, if_false]
          exact ⟨h3, fun n hn _ e he => Nat.le_trans hn (Nat.le_of_lt (h2 e he))⟩
        · simp only [Memory.set, hb, Nat.lt_irrefl, if_true, if_false]
          refine ⟨Memory.wf_cons.2 ⟨hb, h2, h3⟩, fun n hn _ e he => ?_⟩
          simp only [List.head?_cons, Option.some.injEq] at he; subst he; exact hn
      · simp only [Memory.set, hak, hk, if_false]
        refine ⟨Memory.wf_cons.2 ⟨h1, fun e he => ?_, ih1⟩, fun n _ hn e he => ?_⟩
        · exact ih2 (k + 1) (by omega) (fun e he => h2 e he) e he
        · simp only [List.head?_cons, Option.some.injEq] at he; subst he; exact hn (k, c) rfl

/-- Setting a byte keeps the canonical form. -/
theorem Memory.wf_set {m : List Host.Cell} (h : Memory.wf m = true) (a : Nat) (b : Byte) :
    Memory.wf (Memory.set m a b) = true := (Memory.set_bounds h a b).1

/-- A byte after one byte has been set. -/
theorem Memory.get_set {m : List Host.Cell} (h : Memory.wf m = true) (a : Nat) (b : Byte) (x : Nat) :
    Memory.get (Memory.set m a b) x = if x = a then b else Memory.get m x := by
  induction m with
  | nil => by_cases hb : b = 0#8 <;> by_cases hx : x = a <;> simp [Memory.set, hb, hx, Memory.get]
  | cons y t ih =>
    obtain ⟨k, c⟩ := y
    obtain ⟨-, h2, h3⟩ := Memory.wf_cons.1 h
    by_cases hak : a < k
    · by_cases hb : b = 0
      · simp only [Memory.set, hak, hb, if_true]
        by_cases hx : x = a
        · rw [if_pos hx, hx]
          exact Memory.get_below h fun e he => by
            simp only [List.head?_cons, Option.some.injEq] at he; subst he; exact hak
        · rw [if_neg hx]
      · simp only [Memory.set, hak, hb, if_true, if_false, Memory.get]
    · by_cases hk : a = k
      · subst hk
        by_cases hb : b = 0
        · simp only [Memory.set, hb, Nat.lt_irrefl, if_true, if_false, Memory.get]
          by_cases hx : x = a
          · rw [if_pos hx, hx]; exact Memory.get_below h3 h2
          · rw [if_neg hx, if_neg hx]
        · simp only [Memory.set, hb, Nat.lt_irrefl, if_true, if_false, Memory.get]
          by_cases hx : x = a <;> simp [hx]
      · simp only [Memory.set, hak, hk, if_false, Memory.get, ih h3]
        by_cases hx : x = k
        · have : x ≠ a := by omega
          simp [hx, show k ≠ a by omega]
        · simp [hx]

/-- Writing bytes keeps the canonical form. -/
theorem Memory.wf_write {m : List Host.Cell} (h : Memory.wf m = true) (a : Nat) (bs : List Byte) :
    Memory.wf (Memory.write m a bs) = true := by
  induction bs generalizing m a with
  | nil => exact h
  | cons b bs ih => exact ih (Memory.wf_set h a b) (a + 1)

/-- A byte after bytes have been written: theirs inside, as before outside. -/
theorem Memory.get_write {m : List Host.Cell} (h : Memory.wf m = true) (a : Nat) (bs : List Byte) (x : Nat) :
    Memory.get (Memory.write m a bs) x =
      if a ≤ x ∧ x < a + bs.length then bs.getD (x - a) 0 else Memory.get m x := by
  induction bs generalizing m a with
  | nil => simp only [Memory.write, List.length_nil]; rw [if_neg (by omega)]
  | cons b bs ih =>
    rw [Memory.write, ih (Memory.wf_set h a b), Memory.get_set h]
    simp only [List.length_cons]
    by_cases h1 : x = a
    · subst h1
      rw [if_neg (by omega), if_pos rfl, if_pos (by omega), Nat.sub_self]
      rfl
    · by_cases h2 : a + 1 ≤ x ∧ x < a + 1 + bs.length
      · rw [if_pos h2, if_pos (by omega)]
        obtain ⟨n, hn⟩ : ∃ n, x - a = n + 1 := ⟨x - a - 1, by omega⟩
        rw [hn, show x - (a + 1) = n by omega]
        rfl
      · rw [if_neg h2, if_neg h1, if_neg (by omega)]

/-- Bytes outside those written read as before, with no condition on the memory's form. -/
theorem Memory.get_set_ne (m : List Host.Cell) {a x : Nat} (b : Byte) (hx : x ≠ a) :
    Memory.get (Memory.set m a b) x = Memory.get m x := by
  induction m with
  | nil => by_cases hb : b = 0#8 <;> simp [Memory.set, hb, Memory.get, hx]
  | cons y t ih =>
    obtain ⟨k, c⟩ := y
    by_cases hak : a < k
    · by_cases hb : b = 0#8 <;> simp [Memory.set, hak, hb, Memory.get, hx]
    · by_cases hk : a = k
      · subst hk
        by_cases hb : b = 0#8 <;> simp [Memory.set, hb, Memory.get, hx]
      · simp [Memory.set, hak, hk, Memory.get, ih]

/-- Bytes outside those written read as before, with no condition on the memory's form. -/
theorem Memory.get_write_out (m : List Host.Cell) (a : Nat) (bs : List Byte) {x : Nat}
    (hx : x < a ∨ a + bs.length ≤ x) : Memory.get (Memory.write m a bs) x = Memory.get m x := by
  induction bs generalizing m a with
  | nil => rfl
  | cons b bs ih =>
    simp only [List.length_cons] at hx
    rw [Memory.write, ih _ _ (by omega), Memory.get_set_ne _ _ (by omega)]

/-- Replacing a line keeps the canonical form. -/
theorem Memory.wf_putLine {m : List Host.Cell} (h : Memory.wf m = true) (ln : Nat) (d : Line) :
    Memory.wf (Memory.putLine m ln d) = true := Memory.wf_write h _ _

/-- The byte list of a number has the length asked for. -/
@[simp] theorem bytesOf_length (n v : Nat) : (bytesOf n v).length = n := by
  induction n generalizing v with
  | zero => rfl
  | succ n ih => simp [bytesOf, ih]

/-- Byte i of a number. -/
theorem bytesOf_getD (n v i : Nat) (hi : i < n) : (bytesOf n v).getD i 0 = BitVec.ofNat 8 (v / 256 ^ i) := by
  induction n generalizing v i with
  | zero => omega
  | succ n ih =>
    cases i with
    | zero => simp [bytesOf]
    | succ i =>
      have := ih (v / 256) i (by omega)
      simp only [bytesOf, List.getD_cons_succ, this, Nat.div_div_eq_div_mul, Nat.pow_succ, Nat.mul_comm]

/-- The bytes of a number give its low bytes back. -/
theorem ofBytes_bytesOf (n v : Nat) : ofBytes (bytesOf n v) = v % 256 ^ n := by
  induction n generalizing v with
  | zero => simp [bytesOf, ofBytes, Nat.mod_one]
  | succ n ih =>
    rw [bytesOf, ofBytes, ih, Nat.pow_succ, Nat.mul_comm (256 ^ n) 256, Nat.mod_mul, BitVec.toNat_ofNat]

/-- The bytes of a number below 256^n, written out again. -/
theorem bytesOf_ofBytes (bs : List Byte) : bytesOf bs.length (ofBytes bs) = bs := by
  induction bs with
  | nil => rfl
  | cons b bs ih =>
    have h1 : (b.toNat + 256 * ofBytes bs) / 256 = ofBytes bs := by have := b.isLt; omega
    have h2 : BitVec.ofNat 8 (b.toNat + 256 * ofBytes bs) = b := by
      apply BitVec.eq_of_toNat_eq; simp only [BitVec.toNat_ofNat]; have := b.isLt; omega
    simp only [List.length_cons, bytesOf, ofBytes, h1, h2, ih]

/-- A byte list is below 256 to its length. -/
theorem ofBytes_lt (bs : List Byte) : ofBytes bs < 256 ^ bs.length := by
  induction bs with
  | nil => simp [ofBytes]
  | cons b bs ih => have := b.isLt; simp only [ofBytes, List.length_cons, Nat.pow_succ]; omega

/-- What was written reads back. -/
theorem Memory.read_write {m : List Host.Cell} (h : Memory.wf m = true) (a : Nat) (bs : List Byte) :
    Memory.read (Memory.write m a bs) a bs.length = bs := by
  apply List.ext_getElem
  · simp [Memory.read]
  · intro i h1 h2
    simp only [Memory.read, List.getElem_map, List.getElem_range, Memory.get_write h]
    rw [if_pos (by omega), Nat.add_sub_cancel_left]
    simp [List.getD_eq_getElem?_getD, h2]

/-- Memory after reset is in its canonical form. -/
theorem State.reset_mem_wf : Memory.wf State.reset.mem = true := rfl

/-! ## The operations of Machine/Memory.lean on memory -/

@[simp] theorem State.updateL1_mem (s : State) (c pa : Nat) (bs : List Byte) : (s.updateL1 c pa bs).mem = s.mem := by
  unfold State.updateL1; split <;> rfl
@[simp] theorem State.invalidateL1_mem (s : State) (c : Nat) : (s.invalidateL1 c).mem = s.mem := rfl
@[simp] theorem State.unpoison_mem (s : State) (pa n : Nat) : (s.unpoison pa n).mem = s.mem := by
  unfold State.unpoison; split <;> rfl
@[simp] theorem State.writeGranted_mem (s : State) (pa : Nat) (bs : List Byte) :
    (s.writeGranted pa bs).mem = Memory.write s.mem pa bs := rfl

end Sys2Proof.Machine
end

