-- ==== Sys2Proof/Laws/Home.lean ====
section
/-!
SUPPORT. The operations of Machine/Home.lean, the home of a line: one lemma each that says all that the operation may
change, and what follows from it: memory keeps every byte.
-/

namespace Sys2Proof.Machine

/-- A property that every round keeps holds after a fold. -/
theorem foldl_keeps {α β : Type} (P : β → Prop) (f : β → α → β) (h : ∀ b x, P b → P (f b x)) (l : List α) {b : β} (hb : P b) :
    P (l.foldl f b) := by
  induction l generalizing b with
  | nil => exact hb
  | cons x l ih => exact ih (h b x hb)

/-- From s to t nothing changes but tokens and the messages and requests for them, dirty and cached copies, the system
cache, the regulators' counts and admitted reads, reservations, and the lines known to be of CK pages. -/
def State.HomeStep (s t : State) : Prop :=
  t = { s with dirty := t.dirty, tokens := t.tokens, copies := t.copies, tokMsgs := t.tokMsgs, tokReqs := t.tokReqs,
               sys := t.sys, regs := t.regs, granted := t.granted, cores := t.cores, ckSeen := t.ckSeen }

theorem State.HomeStep.refl (s : State) : s.HomeStep s := rfl

theorem State.HomeStep.trans {s t u : State} (h : s.HomeStep t) (g : t.HomeStep u) : s.HomeStep u := by
  unfold State.HomeStep at *
  refine g.trans ?_
  rw [h]

/-- Memory, waves, clusters, launches and commands stay. -/
theorem State.HomeStep.same {s t : State} (h : s.HomeStep t) :
    t.mem = s.mem ∧ t.waves = s.waves ∧ t.clusters = s.clusters ∧ t.launches = s.launches ∧ t.cmds = s.cmds := by
  rw [State.HomeStep] at h
  rw [h]
  exact ⟨rfl, rfl, rfl, rfl, rfl⟩

theorem State.HomeStep.mem {s t : State} (h : s.HomeStep t) : t.mem = s.mem := h.same.1

/-- A fold of such operations is one. -/
theorem State.HomeStep.fold {α : Type} (f : State → α → State) (hf : ∀ (t : State) (x : α), t.HomeStep (f t x)) (l : List α) (s : State) :
    s.HomeStep (l.foldl f s) :=
  foldl_keeps (fun t => s.HomeStep t) f (fun _ _ h => h.trans (hf _ _)) l (State.HomeStep.refl s)

variable (s : State)

theorem State.setRegCount_home (r : RegCount) : s.HomeStep (s.setRegCount r) := rfl

theorem State.tallyWrite_home (ln : Nat) (c : Option Charge) : s.HomeStep (s.tallyWrite ln c) := by
  cases c with
  | none => rfl
  | some x =>
    unfold State.tallyWrite
    dsimp only
    exact iteInduction (motive := fun t => s.HomeStep t) (fun _ => rfl) fun _ => s.setRegCount_home _

theorem State.sysPut_home (ln way p : Nat) : s.HomeStep (s.sysPut ln way p) :=
  State.HomeStep.trans (State.HomeStep.fold _ (fun t _ => State.tallyWrite_home t _ _) _ s) rfl

theorem State.sysAlloc_home (p : Option Nat) (ln : Nat) : s.HomeStep (s.sysAlloc p ln) := by
  unfold State.sysAlloc
  split
  · rfl
  · split
    · rfl
    · dsimp only; split
      · rfl
      · split <;> exact State.sysPut_home _ _ _ _

theorem State.writeBack_home (ln : Nat) (c : Option Charge) : s.HomeStep (s.writeBack ln c) := by
  unfold State.writeBack
  split
  · rfl
  · exact State.tallyWrite_home _ _ _

theorem State.homeWrite_home (p : Option Nat) (u : Bool) (c : Option Charge) (ln : Nat) : s.HomeStep (s.homeWrite p u c ln) := by
  unfold State.homeWrite
  refine State.HomeStep.trans ?_ (State.writeBack_home _ _ _)
  split
  · rfl
  · exact State.sysAlloc_home _ _ _

theorem State.clearLine_home (ln : Nat) : s.HomeStep (s.clearLine ln) := rfl
theorem State.ownLine_home (h : Holder) (ln : Nat) (d : Line) (c : Option Charge) (w : Nat) : s.HomeStep (s.ownLine h ln d c w) := rfl
theorem State.moveDirty_home (ln : Nat) (a b : Holder) : s.HomeStep (s.moveDirty ln a b) := rfl
theorem State.setTokens_home (h : Holder) (ln n : Nat) (o : Bool) (w : Nat) : s.HomeStep (s.setTokens h ln n o w) := rfl

theorem State.sendTokens_home (src : Option Holder) (ln : Nat) (dst : Holder) (n : Nat) (o : Bool) :
    s.HomeStep (s.sendTokens src ln dst n o) := by
  unfold State.sendTokens
  split
  · rfl
  · cases src <;> rfl

theorem State.homecoming_home (ln : Nat) : s.HomeStep (s.homecoming ln) := by
  unfold State.homecoming
  split
  · exact State.sendTokens_home _ _ _ _ _ _
  · rfl

theorem State.evictLine_home (h : Holder) (ln : Nat) : s.HomeStep (s.evictLine h ln) := by
  unfold State.evictLine
  refine State.HomeStep.trans ?_ (State.homecoming_home _ _)
  split
  · exact State.HomeStep.trans (t := { s with dirty := _, tokens := _, copies := _ }) rfl (State.writeBack_home _ _ _)
  · rfl

theorem State.putTokens_home (h : Holder) (ln n : Nat) (o : Bool) : s.HomeStep (s.putTokens h ln n o) := by
  unfold State.putTokens
  split
  · rfl
  · refine State.HomeStep.trans ?_ (State.setTokens_home _ _ _ _ _ _)
    split
    · exact State.evictLine_home _ _ _
    · rfl

theorem State.requestMet_home (h : Holder) (ln : Nat) : s.HomeStep (s.requestMet h ln) := by
  unfold State.requestMet; split <;> rfl

theorem State.breakResv_home (ln : Nat) : s.HomeStep (s.breakResv ln) := by
  unfold State.breakResv; split <;> rfl

theorem State.seeCk_home (ck : Bool) (ln : Nat) : s.HomeStep (s.seeCk ck ln) := by
  unfold State.seeCk; split <;> rfl

theorem State.dropGranted_home (w : Reader) : s.HomeStep (s.dropGranted w) := rfl

theorem State.collectRead_home (h : Option Holder) (ln : Nat) : s.HomeStep (s.collectRead h ln) := by
  have put : ∀ (t : State) (x : Holder) (n : Nat) (o : Bool), s.HomeStep t → s.HomeStep ((t.putTokens x ln n o).requestMet x ln) :=
    fun t x n o h => (h.trans (State.putTokens_home t x ln n o)).trans (State.requestMet_home _ x ln)
  unfold State.collectRead
  split
  · split
    · rfl
    · split
      · exact put _ _ _ _ rfl
      · split
        · rfl
        · refine put _ _ _ _ ?_
          split
          · exact (State.setTokens_home s _ _ _ _ _).trans (State.moveDirty_home _ _ _ _)
          · rfl
  · split
    · rfl
    · split
      · rfl
      · split
        · exact State.setTokens_home _ _ _ _ _ _
        · exact State.evictLine_home _ _ _

/-- A write at the home of what the holders no longer keep (R335, R342). -/
theorem State.homeWrite_coming (p : Option Nat) (u : Bool) (c : Option Charge) (ln : Nat) :
    s.HomeStep ((s.homeWrite p u c ln).homecoming ln) := (s.homeWrite_home p u c ln).trans (State.homecoming_home _ _)

theorem State.noteWrite_home (h : Option Holder) (p : Option Nat) (u : Bool) (c : Option Charge) (ln : Nat) :
    s.HomeStep (s.noteWrite h p u c ln) := by
  have atHome := (s.clearLine_home ln).trans (State.homeWrite_coming _ p u c ln)
  unfold State.noteWrite
  dsimp only
  split
  · split
    · refine State.HomeStep.trans (State.HomeStep.trans (State.HomeStep.trans ?_ (State.clearLine_home _ _))
        (State.requestMet_home _ _ _)) (State.ownLine_home _ _ _ _ _ _)
      split
      · exact State.evictLine_home _ _ _
      · rfl
    · exact atHome
  · exact atHome

theorem State.noteThrough_home (ln : Nat) : s.HomeStep (s.noteThrough ln) := rfl

theorem State.beginLine_home (h : Option Holder) (p : Option Nat) (u w : Bool) (ln : Nat) : s.HomeStep (s.beginLine h p u w ln) := by
  have first : ∀ b : Bool, s.HomeStep (if b then s.sysAlloc p ln else s) := fun b => by
    cases b
    · rfl
    · exact State.sysAlloc_home _ _ _
  unfold State.beginLine
  dsimp only
  split
  · exact first _
  · exact (first _).trans (State.collectRead_home _ _ _)

theorem State.evictAll_home (h : Holder) : s.HomeStep (s.evictAll h) :=
  State.HomeStep.trans (State.HomeStep.fold _ (fun t _ => State.evictLine_home t _ _) _ s) rfl

theorem State.evictWay_home (n b : Nat) : s.HomeStep (s.evictWay n b) :=
  State.HomeStep.fold _ (fun t _ => State.evictLine_home t _ _) _ s

theorem State.transient_home (h : Holder) (ln : Nat) (w : Bool) : s.HomeStep (s.transient h ln w) := by
  unfold State.transient
  dsimp only
  exact iteInduction (motive := fun t => s.HomeStep t) (fun _ => rfl) fun _ =>
    State.HomeStep.trans (t := { s with tokMsgs := _ }) rfl (State.sendTokens_home _ _ _ _ _ _)

theorem State.requestTokens_home (h : Holder) (ln : Nat) (w : Bool) : s.HomeStep (s.requestTokens h ln w) := by
  unfold State.requestTokens
  split
  · rfl
  · exact State.HomeStep.trans (t := { s with tokReqs := _ }) rfl (State.transient_home _ _ _ _)

/-- An access that is admitted takes its lines and its walk's at the home (R335, R336, R392, R412). -/
theorem State.takeLines_home (p : Nat) (w : Bool) (us : List LineUse) (ws : List Nat) : s.HomeStep (s.takeLines p w us ws) := by
  unfold State.takeLines
  refine State.HomeStep.trans (State.HomeStep.fold _ (fun t x => ?_) ws s) (State.HomeStep.fold _ (fun t x => ?_) us _)
  · split
    · exact State.sysAlloc_home _ _ _
    · rfl
  · exact (State.seeCk_home _ _ _).trans (State.beginLine_home _ _ _ _ _ _)

theorem State.askTokens_home (w : Bool) (us : List LineUse) : s.HomeStep (s.askTokens w us) :=
  State.HomeStep.fold _ (fun t x => by
    split
    · split
      · exact State.requestTokens_home _ _ _ _
      · rfl
    · rfl) us s

/-! ## Memory -/

@[simp] theorem State.evictLine_mem (h : Holder) (ln : Nat) : (s.evictLine h ln).mem = s.mem := (s.evictLine_home h ln).mem
@[simp] theorem State.evictAll_mem (h : Holder) : (s.evictAll h).mem = s.mem := (s.evictAll_home h).mem
@[simp] theorem State.evictWay_mem (n b : Nat) : (s.evictWay n b).mem = s.mem := (s.evictWay_home n b).mem
@[simp] theorem State.clusterLeave_mem (n : Nat) : (s.clusterLeave n).mem = s.mem := s.evictAll_mem _
@[simp] theorem State.clusterJoin_mem (n : Nat) : (s.clusterJoin n).mem = s.mem := rfl
@[simp] theorem State.noteThrough_mem (ln : Nat) : (s.noteThrough ln).mem = s.mem := rfl
@[simp] theorem State.tallyWrite_mem (ln : Nat) (c : Option Charge) : (s.tallyWrite ln c).mem = s.mem := (s.tallyWrite_home ln c).mem
@[simp] theorem State.writeBack_mem (ln : Nat) (c : Option Charge) : (s.writeBack ln c).mem = s.mem := (s.writeBack_home ln c).mem
@[simp] theorem State.noteWrite_mem (h : Option Holder) (p : Option Nat) (u : Bool) (c : Option Charge) (ln : Nat) :
    (s.noteWrite h p u c ln).mem = s.mem := (s.noteWrite_home h p u c ln).mem

/-- Writing as a holder writes the bytes. -/
@[simp] theorem State.writePA_mem (h : Option Holder) (p : Option Nat) (u : Bool) (c : Option Charge) (pa : Nat) (bs : List Byte) :
    (s.writePA h p u c pa bs).mem = Memory.write s.mem pa bs := by
  have e := State.HomeStep.fold (fun st ln => (State.breakResv st ln).noteWrite h p u c ln)
    (fun t x => (t.breakResv_home x).trans (State.noteWrite_home _ _ _ _ _ _)) (linesOf pa bs.length) s
  simp only [State.writePA, e.mem]

end Sys2Proof.Machine
end

