-- ==== Sys2Proof/Laws/State.lean ====
section
/-!
SUPPORT. What each named update of State leaves in each field: one lemma per field per update, so that no proof unfolds
a record update.
-/

namespace Sys2Proof.Machine

/-! ## setWave -/

@[simp] theorem State.setWave_mem (s : State) (w : Nat) (f : Wave → Wave) : (s.setWave w f).mem = s.mem := rfl
@[simp] theorem State.setWave_poison (s : State) (w : Nat) (f : Wave → Wave) : (s.setWave w f).poison = s.poison := rfl
@[simp] theorem State.setWave_dirty (s : State) (w : Nat) (f : Wave → Wave) : (s.setWave w f).dirty = s.dirty := rfl
@[simp] theorem State.setWave_copies (s : State) (w : Nat) (f : Wave → Wave) : (s.setWave w f).copies = s.copies := rfl
@[simp] theorem State.setWave_tokens (s : State) (w : Nat) (f : Wave → Wave) : (s.setWave w f).tokens = s.tokens := rfl
@[simp] theorem State.setWave_gens (s : State) (w : Nat) (f : Wave → Wave) : (s.setWave w f).gens = s.gens := rfl
@[simp] theorem State.setWave_tokMsgs (s : State) (w : Nat) (f : Wave → Wave) : (s.setWave w f).tokMsgs = s.tokMsgs := rfl
@[simp] theorem State.setWave_tokReqs (s : State) (w : Nat) (f : Wave → Wave) : (s.setWave w f).tokReqs = s.tokReqs := rfl
@[simp] theorem State.setWave_l1 (s : State) (w : Nat) (f : Wave → Wave) : (s.setWave w f).l1 = s.l1 := rfl
@[simp] theorem State.setWave_tlb (s : State) (w : Nat) (f : Wave → Wave) : (s.setWave w f).tlb = s.tlb := rfl
@[simp] theorem State.setWave_walks (s : State) (w : Nat) (f : Wave → Wave) : (s.setWave w f).walks = s.walks := rfl
@[simp] theorem State.setWave_sys (s : State) (w : Nat) (f : Wave → Wave) : (s.setWave w f).sys = s.sys := rfl
@[simp] theorem State.setWave_left (s : State) (w : Nat) (f : Wave → Wave) : (s.setWave w f).left = s.left := rfl
@[simp] theorem State.setWave_ckSeen (s : State) (w : Nat) (f : Wave → Wave) : (s.setWave w f).ckSeen = s.ckSeen := rfl
@[simp] theorem State.setWave_waves (s : State) (w : Nat) (f : Wave → Wave) : (s.setWave w f).waves = s.waves.modify w f := rfl
@[simp] theorem State.setWave_clusters (s : State) (w : Nat) (f : Wave → Wave) : (s.setWave w f).clusters = s.clusters := rfl
@[simp] theorem State.setWave_cmds (s : State) (w : Nat) (f : Wave → Wave) : (s.setWave w f).cmds = s.cmds := rfl
@[simp] theorem State.setWave_grants (s : State) (w : Nat) (f : Wave → Wave) : (s.setWave w f).grants = s.grants := rfl
@[simp] theorem State.setWave_launches (s : State) (w : Nat) (f : Wave → Wave) : (s.setWave w f).launches = s.launches := rfl
@[simp] theorem State.setWave_qtab (s : State) (w : Nat) (f : Wave → Wave) : (s.setWave w f).qtab = s.qtab := rfl
@[simp] theorem State.setWave_jobs (s : State) (w : Nat) (f : Wave → Wave) : (s.setWave w f).jobs = s.jobs := rfl
@[simp] theorem State.setWave_insts (s : State) (w : Nat) (f : Wave → Wave) : (s.setWave w f).insts = s.insts := rfl
@[simp] theorem State.setWave_pool (s : State) (w : Nat) (f : Wave → Wave) : (s.setWave w f).pool = s.pool := rfl
@[simp] theorem State.setWave_poolNext (s : State) (w : Nat) (f : Wave → Wave) : (s.setWave w f).poolNext = s.poolNext := rfl
@[simp] theorem State.setWave_irqs (s : State) (w : Nat) (f : Wave → Wave) : (s.setWave w f).irqs = s.irqs := rfl
@[simp] theorem State.setWave_undecided (s : State) (w : Nat) (f : Wave → Wave) : (s.setWave w f).undecided = s.undecided := rfl
@[simp] theorem State.setWave_ttDown (s : State) (w : Nat) (f : Wave → Wave) : (s.setWave w f).ttDown = s.ttDown := rfl
@[simp] theorem State.setWave_ttSince (s : State) (w : Nat) (f : Wave → Wave) : (s.setWave w f).ttSince = s.ttSince := rfl
@[simp] theorem State.setWave_parts (s : State) (w : Nat) (f : Wave → Wave) : (s.setWave w f).parts = s.parts := rfl
@[simp] theorem State.setWave_classes (s : State) (w : Nat) (f : Wave → Wave) : (s.setWave w f).classes = s.classes := rfl
@[simp] theorem State.setWave_clock (s : State) (w : Nat) (f : Wave → Wave) : (s.setWave w f).clock = s.clock := rfl
@[simp] theorem State.setWave_streams (s : State) (w : Nat) (f : Wave → Wave) : (s.setWave w f).streams = s.streams := rfl
@[simp] theorem State.setWave_regs (s : State) (w : Nat) (f : Wave → Wave) : (s.setWave w f).regs = s.regs := rfl
@[simp] theorem State.setWave_granted (s : State) (w : Nat) (f : Wave → Wave) : (s.setWave w f).granted = s.granted := rfl
@[simp] theorem State.setWave_regStats (s : State) (w : Nat) (f : Wave → Wave) : (s.setWave w f).regStats = s.regStats := rfl
@[simp] theorem State.setWave_pcie (s : State) (w : Nat) (f : Wave → Wave) : (s.setWave w f).pcie = s.pcie := rfl
@[simp] theorem State.setWave_frames (s : State) (w : Nat) (f : Wave → Wave) : (s.setWave w f).frames = s.frames := rfl
@[simp] theorem State.setWave_cores (s : State) (w : Nat) (f : Wave → Wave) : (s.setWave w f).cores = s.cores := rfl
@[simp] theorem State.setWave_appLast (s : State) (w : Nat) (f : Wave → Wave) : (s.setWave w f).appLast = s.appLast := rfl
@[simp] theorem State.setWave_appOk (s : State) (w : Nat) (f : Wave → Wave) : (s.setWave w f).appOk = s.appOk := rfl
@[simp] theorem State.setWave_domains (s : State) (w : Nat) (f : Wave → Wave) : (s.setWave w f).domains = s.domains := rfl
@[simp] theorem State.setWave_ckPend (s : State) (w : Nat) (f : Wave → Wave) : (s.setWave w f).ckPend = s.ckPend := rfl
@[simp] theorem State.setWave_ckBuf (s : State) (w : Nat) (f : Wave → Wave) : (s.setWave w f).ckBuf = s.ckBuf := rfl
@[simp] theorem State.setWave_outTx (s : State) (w : Nat) (f : Wave → Wave) : (s.setWave w f).outTx = s.outTx := rfl
@[simp] theorem State.setWave_lanes (s : State) (w : Nat) (f : Wave → Wave) : (s.setWave w f).lanes = s.lanes := rfl
@[simp] theorem State.setWave_links (s : State) (w : Nat) (f : Wave → Wave) : (s.setWave w f).links = s.links := rfl
@[simp] theorem State.setWave_proctor (s : State) (w : Nat) (f : Wave → Wave) : (s.setWave w f).proctor = s.proctor := rfl
@[simp] theorem State.setWave_capacity (s : State) (w : Nat) (f : Wave → Wave) : (s.setWave w f).capacity = s.capacity := rfl
@[simp] theorem State.setWave_agenda (s : State) (w : Nat) (f : Wave → Wave) : (s.setWave w f).agenda = s.agenda := rfl
@[simp] theorem State.setWave_cur (s : State) (w : Nat) (f : Wave → Wave) : (s.setWave w f).cur = s.cur := rfl
@[simp] theorem State.setWave_faulty (s : State) (w : Nat) (f : Wave → Wave) : (s.setWave w f).faulty = s.faulty := rfl
@[simp] theorem State.setWave_upset (s : State) (w : Nat) (f : Wave → Wave) : (s.setWave w f).upset = s.upset := rfl
@[simp] theorem State.setWave_issues (s : State) (w : Nat) (f : Wave → Wave) : (s.setWave w f).issues = s.issues := rfl
@[simp] theorem State.setWave_freeCtr (s : State) (w : Nat) (f : Wave → Wave) : (s.setWave w f).freeCtr = s.freeCtr := rfl

/-! ## setCluster -/

@[simp] theorem State.setCluster_mem (s : State) (c : Nat) (f : Cluster → Cluster) : (s.setCluster c f).mem = s.mem := rfl
@[simp] theorem State.setCluster_poison (s : State) (c : Nat) (f : Cluster → Cluster) : (s.setCluster c f).poison = s.poison := rfl
@[simp] theorem State.setCluster_dirty (s : State) (c : Nat) (f : Cluster → Cluster) : (s.setCluster c f).dirty = s.dirty := rfl
@[simp] theorem State.setCluster_copies (s : State) (c : Nat) (f : Cluster → Cluster) : (s.setCluster c f).copies = s.copies := rfl
@[simp] theorem State.setCluster_tokens (s : State) (c : Nat) (f : Cluster → Cluster) : (s.setCluster c f).tokens = s.tokens := rfl
@[simp] theorem State.setCluster_gens (s : State) (c : Nat) (f : Cluster → Cluster) : (s.setCluster c f).gens = s.gens := rfl
@[simp] theorem State.setCluster_tokMsgs (s : State) (c : Nat) (f : Cluster → Cluster) : (s.setCluster c f).tokMsgs = s.tokMsgs := rfl
@[simp] theorem State.setCluster_tokReqs (s : State) (c : Nat) (f : Cluster → Cluster) : (s.setCluster c f).tokReqs = s.tokReqs := rfl
@[simp] theorem State.setCluster_l1 (s : State) (c : Nat) (f : Cluster → Cluster) : (s.setCluster c f).l1 = s.l1 := rfl
@[simp] theorem State.setCluster_tlb (s : State) (c : Nat) (f : Cluster → Cluster) : (s.setCluster c f).tlb = s.tlb := rfl
@[simp] theorem State.setCluster_walks (s : State) (c : Nat) (f : Cluster → Cluster) : (s.setCluster c f).walks = s.walks := rfl
@[simp] theorem State.setCluster_sys (s : State) (c : Nat) (f : Cluster → Cluster) : (s.setCluster c f).sys = s.sys := rfl
@[simp] theorem State.setCluster_left (s : State) (c : Nat) (f : Cluster → Cluster) : (s.setCluster c f).left = s.left := rfl
@[simp] theorem State.setCluster_ckSeen (s : State) (c : Nat) (f : Cluster → Cluster) : (s.setCluster c f).ckSeen = s.ckSeen := rfl
@[simp] theorem State.setCluster_waves (s : State) (c : Nat) (f : Cluster → Cluster) : (s.setCluster c f).waves = s.waves := rfl
@[simp] theorem State.setCluster_clusters (s : State) (c : Nat) (f : Cluster → Cluster) : (s.setCluster c f).clusters = s.clusters.modify c f := rfl
@[simp] theorem State.setCluster_cmds (s : State) (c : Nat) (f : Cluster → Cluster) : (s.setCluster c f).cmds = s.cmds := rfl
@[simp] theorem State.setCluster_grants (s : State) (c : Nat) (f : Cluster → Cluster) : (s.setCluster c f).grants = s.grants := rfl
@[simp] theorem State.setCluster_launches (s : State) (c : Nat) (f : Cluster → Cluster) : (s.setCluster c f).launches = s.launches := rfl
@[simp] theorem State.setCluster_qtab (s : State) (c : Nat) (f : Cluster → Cluster) : (s.setCluster c f).qtab = s.qtab := rfl
@[simp] theorem State.setCluster_jobs (s : State) (c : Nat) (f : Cluster → Cluster) : (s.setCluster c f).jobs = s.jobs := rfl
@[simp] theorem State.setCluster_insts (s : State) (c : Nat) (f : Cluster → Cluster) : (s.setCluster c f).insts = s.insts := rfl
@[simp] theorem State.setCluster_pool (s : State) (c : Nat) (f : Cluster → Cluster) : (s.setCluster c f).pool = s.pool := rfl
@[simp] theorem State.setCluster_poolNext (s : State) (c : Nat) (f : Cluster → Cluster) : (s.setCluster c f).poolNext = s.poolNext := rfl
@[simp] theorem State.setCluster_irqs (s : State) (c : Nat) (f : Cluster → Cluster) : (s.setCluster c f).irqs = s.irqs := rfl
@[simp] theorem State.setCluster_undecided (s : State) (c : Nat) (f : Cluster → Cluster) : (s.setCluster c f).undecided = s.undecided := rfl
@[simp] theorem State.setCluster_ttDown (s : State) (c : Nat) (f : Cluster → Cluster) : (s.setCluster c f).ttDown = s.ttDown := rfl
@[simp] theorem State.setCluster_ttSince (s : State) (c : Nat) (f : Cluster → Cluster) : (s.setCluster c f).ttSince = s.ttSince := rfl
@[simp] theorem State.setCluster_parts (s : State) (c : Nat) (f : Cluster → Cluster) : (s.setCluster c f).parts = s.parts := rfl
@[simp] theorem State.setCluster_classes (s : State) (c : Nat) (f : Cluster → Cluster) : (s.setCluster c f).classes = s.classes := rfl
@[simp] theorem State.setCluster_clock (s : State) (c : Nat) (f : Cluster → Cluster) : (s.setCluster c f).clock = s.clock := rfl
@[simp] theorem State.setCluster_streams (s : State) (c : Nat) (f : Cluster → Cluster) : (s.setCluster c f).streams = s.streams := rfl
@[simp] theorem State.setCluster_regs (s : State) (c : Nat) (f : Cluster → Cluster) : (s.setCluster c f).regs = s.regs := rfl
@[simp] theorem State.setCluster_granted (s : State) (c : Nat) (f : Cluster → Cluster) : (s.setCluster c f).granted = s.granted := rfl
@[simp] theorem State.setCluster_regStats (s : State) (c : Nat) (f : Cluster → Cluster) : (s.setCluster c f).regStats = s.regStats := rfl
@[simp] theorem State.setCluster_pcie (s : State) (c : Nat) (f : Cluster → Cluster) : (s.setCluster c f).pcie = s.pcie := rfl
@[simp] theorem State.setCluster_frames (s : State) (c : Nat) (f : Cluster → Cluster) : (s.setCluster c f).frames = s.frames := rfl
@[simp] theorem State.setCluster_cores (s : State) (c : Nat) (f : Cluster → Cluster) : (s.setCluster c f).cores = s.cores := rfl
@[simp] theorem State.setCluster_appLast (s : State) (c : Nat) (f : Cluster → Cluster) : (s.setCluster c f).appLast = s.appLast := rfl
@[simp] theorem State.setCluster_appOk (s : State) (c : Nat) (f : Cluster → Cluster) : (s.setCluster c f).appOk = s.appOk := rfl
@[simp] theorem State.setCluster_domains (s : State) (c : Nat) (f : Cluster → Cluster) : (s.setCluster c f).domains = s.domains := rfl
@[simp] theorem State.setCluster_ckPend (s : State) (c : Nat) (f : Cluster → Cluster) : (s.setCluster c f).ckPend = s.ckPend := rfl
@[simp] theorem State.setCluster_ckBuf (s : State) (c : Nat) (f : Cluster → Cluster) : (s.setCluster c f).ckBuf = s.ckBuf := rfl
@[simp] theorem State.setCluster_outTx (s : State) (c : Nat) (f : Cluster → Cluster) : (s.setCluster c f).outTx = s.outTx := rfl
@[simp] theorem State.setCluster_lanes (s : State) (c : Nat) (f : Cluster → Cluster) : (s.setCluster c f).lanes = s.lanes := rfl
@[simp] theorem State.setCluster_links (s : State) (c : Nat) (f : Cluster → Cluster) : (s.setCluster c f).links = s.links := rfl
@[simp] theorem State.setCluster_proctor (s : State) (c : Nat) (f : Cluster → Cluster) : (s.setCluster c f).proctor = s.proctor := rfl
@[simp] theorem State.setCluster_capacity (s : State) (c : Nat) (f : Cluster → Cluster) : (s.setCluster c f).capacity = s.capacity := rfl
@[simp] theorem State.setCluster_agenda (s : State) (c : Nat) (f : Cluster → Cluster) : (s.setCluster c f).agenda = s.agenda := rfl
@[simp] theorem State.setCluster_cur (s : State) (c : Nat) (f : Cluster → Cluster) : (s.setCluster c f).cur = s.cur := rfl
@[simp] theorem State.setCluster_faulty (s : State) (c : Nat) (f : Cluster → Cluster) : (s.setCluster c f).faulty = s.faulty := rfl
@[simp] theorem State.setCluster_upset (s : State) (c : Nat) (f : Cluster → Cluster) : (s.setCluster c f).upset = s.upset := rfl
@[simp] theorem State.setCluster_issues (s : State) (c : Nat) (f : Cluster → Cluster) : (s.setCluster c f).issues = s.issues := rfl
@[simp] theorem State.setCluster_freeCtr (s : State) (c : Nat) (f : Cluster → Cluster) : (s.setCluster c f).freeCtr = s.freeCtr := rfl

/-! ## setLaunch -/

@[simp] theorem State.setLaunch_mem (s : State) (l : Nat) (f : Launch → Launch) : (s.setLaunch l f).mem = s.mem := rfl
@[simp] theorem State.setLaunch_poison (s : State) (l : Nat) (f : Launch → Launch) : (s.setLaunch l f).poison = s.poison := rfl
@[simp] theorem State.setLaunch_dirty (s : State) (l : Nat) (f : Launch → Launch) : (s.setLaunch l f).dirty = s.dirty := rfl
@[simp] theorem State.setLaunch_copies (s : State) (l : Nat) (f : Launch → Launch) : (s.setLaunch l f).copies = s.copies := rfl
@[simp] theorem State.setLaunch_tokens (s : State) (l : Nat) (f : Launch → Launch) : (s.setLaunch l f).tokens = s.tokens := rfl
@[simp] theorem State.setLaunch_gens (s : State) (l : Nat) (f : Launch → Launch) : (s.setLaunch l f).gens = s.gens := rfl
@[simp] theorem State.setLaunch_tokMsgs (s : State) (l : Nat) (f : Launch → Launch) : (s.setLaunch l f).tokMsgs = s.tokMsgs := rfl
@[simp] theorem State.setLaunch_tokReqs (s : State) (l : Nat) (f : Launch → Launch) : (s.setLaunch l f).tokReqs = s.tokReqs := rfl
@[simp] theorem State.setLaunch_l1 (s : State) (l : Nat) (f : Launch → Launch) : (s.setLaunch l f).l1 = s.l1 := rfl
@[simp] theorem State.setLaunch_tlb (s : State) (l : Nat) (f : Launch → Launch) : (s.setLaunch l f).tlb = s.tlb := rfl
@[simp] theorem State.setLaunch_walks (s : State) (l : Nat) (f : Launch → Launch) : (s.setLaunch l f).walks = s.walks := rfl
@[simp] theorem State.setLaunch_sys (s : State) (l : Nat) (f : Launch → Launch) : (s.setLaunch l f).sys = s.sys := rfl
@[simp] theorem State.setLaunch_left (s : State) (l : Nat) (f : Launch → Launch) : (s.setLaunch l f).left = s.left := rfl
@[simp] theorem State.setLaunch_ckSeen (s : State) (l : Nat) (f : Launch → Launch) : (s.setLaunch l f).ckSeen = s.ckSeen := rfl
@[simp] theorem State.setLaunch_waves (s : State) (l : Nat) (f : Launch → Launch) : (s.setLaunch l f).waves = s.waves := rfl
@[simp] theorem State.setLaunch_clusters (s : State) (l : Nat) (f : Launch → Launch) : (s.setLaunch l f).clusters = s.clusters := rfl
@[simp] theorem State.setLaunch_cmds (s : State) (l : Nat) (f : Launch → Launch) : (s.setLaunch l f).cmds = s.cmds := rfl
@[simp] theorem State.setLaunch_grants (s : State) (l : Nat) (f : Launch → Launch) : (s.setLaunch l f).grants = s.grants := rfl
@[simp] theorem State.setLaunch_launches (s : State) (l : Nat) (f : Launch → Launch) : (s.setLaunch l f).launches = s.launches.modify l f := rfl
@[simp] theorem State.setLaunch_qtab (s : State) (l : Nat) (f : Launch → Launch) : (s.setLaunch l f).qtab = s.qtab := rfl
@[simp] theorem State.setLaunch_jobs (s : State) (l : Nat) (f : Launch → Launch) : (s.setLaunch l f).jobs = s.jobs := rfl
@[simp] theorem State.setLaunch_insts (s : State) (l : Nat) (f : Launch → Launch) : (s.setLaunch l f).insts = s.insts := rfl
@[simp] theorem State.setLaunch_pool (s : State) (l : Nat) (f : Launch → Launch) : (s.setLaunch l f).pool = s.pool := rfl
@[simp] theorem State.setLaunch_poolNext (s : State) (l : Nat) (f : Launch → Launch) : (s.setLaunch l f).poolNext = s.poolNext := rfl
@[simp] theorem State.setLaunch_irqs (s : State) (l : Nat) (f : Launch → Launch) : (s.setLaunch l f).irqs = s.irqs := rfl
@[simp] theorem State.setLaunch_undecided (s : State) (l : Nat) (f : Launch → Launch) : (s.setLaunch l f).undecided = s.undecided := rfl
@[simp] theorem State.setLaunch_ttDown (s : State) (l : Nat) (f : Launch → Launch) : (s.setLaunch l f).ttDown = s.ttDown := rfl
@[simp] theorem State.setLaunch_ttSince (s : State) (l : Nat) (f : Launch → Launch) : (s.setLaunch l f).ttSince = s.ttSince := rfl
@[simp] theorem State.setLaunch_parts (s : State) (l : Nat) (f : Launch → Launch) : (s.setLaunch l f).parts = s.parts := rfl
@[simp] theorem State.setLaunch_classes (s : State) (l : Nat) (f : Launch → Launch) : (s.setLaunch l f).classes = s.classes := rfl
@[simp] theorem State.setLaunch_clock (s : State) (l : Nat) (f : Launch → Launch) : (s.setLaunch l f).clock = s.clock := rfl
@[simp] theorem State.setLaunch_streams (s : State) (l : Nat) (f : Launch → Launch) : (s.setLaunch l f).streams = s.streams := rfl
@[simp] theorem State.setLaunch_regs (s : State) (l : Nat) (f : Launch → Launch) : (s.setLaunch l f).regs = s.regs := rfl
@[simp] theorem State.setLaunch_granted (s : State) (l : Nat) (f : Launch → Launch) : (s.setLaunch l f).granted = s.granted := rfl
@[simp] theorem State.setLaunch_regStats (s : State) (l : Nat) (f : Launch → Launch) : (s.setLaunch l f).regStats = s.regStats := rfl
@[simp] theorem State.setLaunch_pcie (s : State) (l : Nat) (f : Launch → Launch) : (s.setLaunch l f).pcie = s.pcie := rfl
@[simp] theorem State.setLaunch_frames (s : State) (l : Nat) (f : Launch → Launch) : (s.setLaunch l f).frames = s.frames := rfl
@[simp] theorem State.setLaunch_cores (s : State) (l : Nat) (f : Launch → Launch) : (s.setLaunch l f).cores = s.cores := rfl
@[simp] theorem State.setLaunch_appLast (s : State) (l : Nat) (f : Launch → Launch) : (s.setLaunch l f).appLast = s.appLast := rfl
@[simp] theorem State.setLaunch_appOk (s : State) (l : Nat) (f : Launch → Launch) : (s.setLaunch l f).appOk = s.appOk := rfl
@[simp] theorem State.setLaunch_domains (s : State) (l : Nat) (f : Launch → Launch) : (s.setLaunch l f).domains = s.domains := rfl
@[simp] theorem State.setLaunch_ckPend (s : State) (l : Nat) (f : Launch → Launch) : (s.setLaunch l f).ckPend = s.ckPend := rfl
@[simp] theorem State.setLaunch_ckBuf (s : State) (l : Nat) (f : Launch → Launch) : (s.setLaunch l f).ckBuf = s.ckBuf := rfl
@[simp] theorem State.setLaunch_outTx (s : State) (l : Nat) (f : Launch → Launch) : (s.setLaunch l f).outTx = s.outTx := rfl
@[simp] theorem State.setLaunch_lanes (s : State) (l : Nat) (f : Launch → Launch) : (s.setLaunch l f).lanes = s.lanes := rfl
@[simp] theorem State.setLaunch_links (s : State) (l : Nat) (f : Launch → Launch) : (s.setLaunch l f).links = s.links := rfl
@[simp] theorem State.setLaunch_proctor (s : State) (l : Nat) (f : Launch → Launch) : (s.setLaunch l f).proctor = s.proctor := rfl
@[simp] theorem State.setLaunch_capacity (s : State) (l : Nat) (f : Launch → Launch) : (s.setLaunch l f).capacity = s.capacity := rfl
@[simp] theorem State.setLaunch_agenda (s : State) (l : Nat) (f : Launch → Launch) : (s.setLaunch l f).agenda = s.agenda := rfl
@[simp] theorem State.setLaunch_cur (s : State) (l : Nat) (f : Launch → Launch) : (s.setLaunch l f).cur = s.cur := rfl
@[simp] theorem State.setLaunch_faulty (s : State) (l : Nat) (f : Launch → Launch) : (s.setLaunch l f).faulty = s.faulty := rfl
@[simp] theorem State.setLaunch_upset (s : State) (l : Nat) (f : Launch → Launch) : (s.setLaunch l f).upset = s.upset := rfl
@[simp] theorem State.setLaunch_issues (s : State) (l : Nat) (f : Launch → Launch) : (s.setLaunch l f).issues = s.issues := rfl
@[simp] theorem State.setLaunch_freeCtr (s : State) (l : Nat) (f : Launch → Launch) : (s.setLaunch l f).freeCtr = s.freeCtr := rfl

/-! ## setPart -/

@[simp] theorem State.setPart_mem (s : State) (p : Nat) (f : Part → Part) : (s.setPart p f).mem = s.mem := rfl
@[simp] theorem State.setPart_poison (s : State) (p : Nat) (f : Part → Part) : (s.setPart p f).poison = s.poison := rfl
@[simp] theorem State.setPart_dirty (s : State) (p : Nat) (f : Part → Part) : (s.setPart p f).dirty = s.dirty := rfl
@[simp] theorem State.setPart_copies (s : State) (p : Nat) (f : Part → Part) : (s.setPart p f).copies = s.copies := rfl
@[simp] theorem State.setPart_tokens (s : State) (p : Nat) (f : Part → Part) : (s.setPart p f).tokens = s.tokens := rfl
@[simp] theorem State.setPart_gens (s : State) (p : Nat) (f : Part → Part) : (s.setPart p f).gens = s.gens := rfl
@[simp] theorem State.setPart_tokMsgs (s : State) (p : Nat) (f : Part → Part) : (s.setPart p f).tokMsgs = s.tokMsgs := rfl
@[simp] theorem State.setPart_tokReqs (s : State) (p : Nat) (f : Part → Part) : (s.setPart p f).tokReqs = s.tokReqs := rfl
@[simp] theorem State.setPart_l1 (s : State) (p : Nat) (f : Part → Part) : (s.setPart p f).l1 = s.l1 := rfl
@[simp] theorem State.setPart_tlb (s : State) (p : Nat) (f : Part → Part) : (s.setPart p f).tlb = s.tlb := rfl
@[simp] theorem State.setPart_walks (s : State) (p : Nat) (f : Part → Part) : (s.setPart p f).walks = s.walks := rfl
@[simp] theorem State.setPart_sys (s : State) (p : Nat) (f : Part → Part) : (s.setPart p f).sys = s.sys := rfl
@[simp] theorem State.setPart_left (s : State) (p : Nat) (f : Part → Part) : (s.setPart p f).left = s.left := rfl
@[simp] theorem State.setPart_ckSeen (s : State) (p : Nat) (f : Part → Part) : (s.setPart p f).ckSeen = s.ckSeen := rfl
@[simp] theorem State.setPart_waves (s : State) (p : Nat) (f : Part → Part) : (s.setPart p f).waves = s.waves := rfl
@[simp] theorem State.setPart_clusters (s : State) (p : Nat) (f : Part → Part) : (s.setPart p f).clusters = s.clusters := rfl
@[simp] theorem State.setPart_cmds (s : State) (p : Nat) (f : Part → Part) : (s.setPart p f).cmds = s.cmds := rfl
@[simp] theorem State.setPart_grants (s : State) (p : Nat) (f : Part → Part) : (s.setPart p f).grants = s.grants := rfl
@[simp] theorem State.setPart_launches (s : State) (p : Nat) (f : Part → Part) : (s.setPart p f).launches = s.launches := rfl
@[simp] theorem State.setPart_qtab (s : State) (p : Nat) (f : Part → Part) : (s.setPart p f).qtab = s.qtab := rfl
@[simp] theorem State.setPart_jobs (s : State) (p : Nat) (f : Part → Part) : (s.setPart p f).jobs = s.jobs := rfl
@[simp] theorem State.setPart_insts (s : State) (p : Nat) (f : Part → Part) : (s.setPart p f).insts = s.insts := rfl
@[simp] theorem State.setPart_pool (s : State) (p : Nat) (f : Part → Part) : (s.setPart p f).pool = s.pool := rfl
@[simp] theorem State.setPart_poolNext (s : State) (p : Nat) (f : Part → Part) : (s.setPart p f).poolNext = s.poolNext := rfl
@[simp] theorem State.setPart_irqs (s : State) (p : Nat) (f : Part → Part) : (s.setPart p f).irqs = s.irqs := rfl
@[simp] theorem State.setPart_undecided (s : State) (p : Nat) (f : Part → Part) : (s.setPart p f).undecided = s.undecided := rfl
@[simp] theorem State.setPart_ttDown (s : State) (p : Nat) (f : Part → Part) : (s.setPart p f).ttDown = s.ttDown := rfl
@[simp] theorem State.setPart_ttSince (s : State) (p : Nat) (f : Part → Part) : (s.setPart p f).ttSince = s.ttSince := rfl
@[simp] theorem State.setPart_parts (s : State) (p : Nat) (f : Part → Part) : (s.setPart p f).parts = s.parts.modify p f := rfl
@[simp] theorem State.setPart_classes (s : State) (p : Nat) (f : Part → Part) : (s.setPart p f).classes = s.classes := rfl
@[simp] theorem State.setPart_clock (s : State) (p : Nat) (f : Part → Part) : (s.setPart p f).clock = s.clock := rfl
@[simp] theorem State.setPart_streams (s : State) (p : Nat) (f : Part → Part) : (s.setPart p f).streams = s.streams := rfl
@[simp] theorem State.setPart_regs (s : State) (p : Nat) (f : Part → Part) : (s.setPart p f).regs = s.regs := rfl
@[simp] theorem State.setPart_granted (s : State) (p : Nat) (f : Part → Part) : (s.setPart p f).granted = s.granted := rfl
@[simp] theorem State.setPart_regStats (s : State) (p : Nat) (f : Part → Part) : (s.setPart p f).regStats = s.regStats := rfl
@[simp] theorem State.setPart_pcie (s : State) (p : Nat) (f : Part → Part) : (s.setPart p f).pcie = s.pcie := rfl
@[simp] theorem State.setPart_frames (s : State) (p : Nat) (f : Part → Part) : (s.setPart p f).frames = s.frames := rfl
@[simp] theorem State.setPart_cores (s : State) (p : Nat) (f : Part → Part) : (s.setPart p f).cores = s.cores := rfl
@[simp] theorem State.setPart_appLast (s : State) (p : Nat) (f : Part → Part) : (s.setPart p f).appLast = s.appLast := rfl
@[simp] theorem State.setPart_appOk (s : State) (p : Nat) (f : Part → Part) : (s.setPart p f).appOk = s.appOk := rfl
@[simp] theorem State.setPart_domains (s : State) (p : Nat) (f : Part → Part) : (s.setPart p f).domains = s.domains := rfl
@[simp] theorem State.setPart_ckPend (s : State) (p : Nat) (f : Part → Part) : (s.setPart p f).ckPend = s.ckPend := rfl
@[simp] theorem State.setPart_ckBuf (s : State) (p : Nat) (f : Part → Part) : (s.setPart p f).ckBuf = s.ckBuf := rfl
@[simp] theorem State.setPart_outTx (s : State) (p : Nat) (f : Part → Part) : (s.setPart p f).outTx = s.outTx := rfl
@[simp] theorem State.setPart_lanes (s : State) (p : Nat) (f : Part → Part) : (s.setPart p f).lanes = s.lanes := rfl
@[simp] theorem State.setPart_links (s : State) (p : Nat) (f : Part → Part) : (s.setPart p f).links = s.links := rfl
@[simp] theorem State.setPart_proctor (s : State) (p : Nat) (f : Part → Part) : (s.setPart p f).proctor = s.proctor := rfl
@[simp] theorem State.setPart_capacity (s : State) (p : Nat) (f : Part → Part) : (s.setPart p f).capacity = s.capacity := rfl
@[simp] theorem State.setPart_agenda (s : State) (p : Nat) (f : Part → Part) : (s.setPart p f).agenda = s.agenda := rfl
@[simp] theorem State.setPart_cur (s : State) (p : Nat) (f : Part → Part) : (s.setPart p f).cur = s.cur := rfl
@[simp] theorem State.setPart_faulty (s : State) (p : Nat) (f : Part → Part) : (s.setPart p f).faulty = s.faulty := rfl
@[simp] theorem State.setPart_upset (s : State) (p : Nat) (f : Part → Part) : (s.setPart p f).upset = s.upset := rfl
@[simp] theorem State.setPart_issues (s : State) (p : Nat) (f : Part → Part) : (s.setPart p f).issues = s.issues := rfl
@[simp] theorem State.setPart_freeCtr (s : State) (p : Nat) (f : Part → Part) : (s.setPart p f).freeCtr = s.freeCtr := rfl

/-! ## setCmd -/

@[simp] theorem State.setCmd_mem (s : State) (k : Nat) (f : Cmd → Cmd) : (s.setCmd k f).mem = s.mem := rfl
@[simp] theorem State.setCmd_poison (s : State) (k : Nat) (f : Cmd → Cmd) : (s.setCmd k f).poison = s.poison := rfl
@[simp] theorem State.setCmd_dirty (s : State) (k : Nat) (f : Cmd → Cmd) : (s.setCmd k f).dirty = s.dirty := rfl
@[simp] theorem State.setCmd_copies (s : State) (k : Nat) (f : Cmd → Cmd) : (s.setCmd k f).copies = s.copies := rfl
@[simp] theorem State.setCmd_tokens (s : State) (k : Nat) (f : Cmd → Cmd) : (s.setCmd k f).tokens = s.tokens := rfl
@[simp] theorem State.setCmd_gens (s : State) (k : Nat) (f : Cmd → Cmd) : (s.setCmd k f).gens = s.gens := rfl
@[simp] theorem State.setCmd_tokMsgs (s : State) (k : Nat) (f : Cmd → Cmd) : (s.setCmd k f).tokMsgs = s.tokMsgs := rfl
@[simp] theorem State.setCmd_tokReqs (s : State) (k : Nat) (f : Cmd → Cmd) : (s.setCmd k f).tokReqs = s.tokReqs := rfl
@[simp] theorem State.setCmd_l1 (s : State) (k : Nat) (f : Cmd → Cmd) : (s.setCmd k f).l1 = s.l1 := rfl
@[simp] theorem State.setCmd_tlb (s : State) (k : Nat) (f : Cmd → Cmd) : (s.setCmd k f).tlb = s.tlb := rfl
@[simp] theorem State.setCmd_walks (s : State) (k : Nat) (f : Cmd → Cmd) : (s.setCmd k f).walks = s.walks := rfl
@[simp] theorem State.setCmd_sys (s : State) (k : Nat) (f : Cmd → Cmd) : (s.setCmd k f).sys = s.sys := rfl
@[simp] theorem State.setCmd_left (s : State) (k : Nat) (f : Cmd → Cmd) : (s.setCmd k f).left = s.left := rfl
@[simp] theorem State.setCmd_ckSeen (s : State) (k : Nat) (f : Cmd → Cmd) : (s.setCmd k f).ckSeen = s.ckSeen := rfl
@[simp] theorem State.setCmd_waves (s : State) (k : Nat) (f : Cmd → Cmd) : (s.setCmd k f).waves = s.waves := rfl
@[simp] theorem State.setCmd_clusters (s : State) (k : Nat) (f : Cmd → Cmd) : (s.setCmd k f).clusters = s.clusters := rfl
@[simp] theorem State.setCmd_cmds (s : State) (k : Nat) (f : Cmd → Cmd) : (s.setCmd k f).cmds = s.cmds.modify k f := rfl
@[simp] theorem State.setCmd_grants (s : State) (k : Nat) (f : Cmd → Cmd) : (s.setCmd k f).grants = s.grants := rfl
@[simp] theorem State.setCmd_launches (s : State) (k : Nat) (f : Cmd → Cmd) : (s.setCmd k f).launches = s.launches := rfl
@[simp] theorem State.setCmd_qtab (s : State) (k : Nat) (f : Cmd → Cmd) : (s.setCmd k f).qtab = s.qtab := rfl
@[simp] theorem State.setCmd_jobs (s : State) (k : Nat) (f : Cmd → Cmd) : (s.setCmd k f).jobs = s.jobs := rfl
@[simp] theorem State.setCmd_insts (s : State) (k : Nat) (f : Cmd → Cmd) : (s.setCmd k f).insts = s.insts := rfl
@[simp] theorem State.setCmd_pool (s : State) (k : Nat) (f : Cmd → Cmd) : (s.setCmd k f).pool = s.pool := rfl
@[simp] theorem State.setCmd_poolNext (s : State) (k : Nat) (f : Cmd → Cmd) : (s.setCmd k f).poolNext = s.poolNext := rfl
@[simp] theorem State.setCmd_irqs (s : State) (k : Nat) (f : Cmd → Cmd) : (s.setCmd k f).irqs = s.irqs := rfl
@[simp] theorem State.setCmd_undecided (s : State) (k : Nat) (f : Cmd → Cmd) : (s.setCmd k f).undecided = s.undecided := rfl
@[simp] theorem State.setCmd_ttDown (s : State) (k : Nat) (f : Cmd → Cmd) : (s.setCmd k f).ttDown = s.ttDown := rfl
@[simp] theorem State.setCmd_ttSince (s : State) (k : Nat) (f : Cmd → Cmd) : (s.setCmd k f).ttSince = s.ttSince := rfl
@[simp] theorem State.setCmd_parts (s : State) (k : Nat) (f : Cmd → Cmd) : (s.setCmd k f).parts = s.parts := rfl
@[simp] theorem State.setCmd_classes (s : State) (k : Nat) (f : Cmd → Cmd) : (s.setCmd k f).classes = s.classes := rfl
@[simp] theorem State.setCmd_clock (s : State) (k : Nat) (f : Cmd → Cmd) : (s.setCmd k f).clock = s.clock := rfl
@[simp] theorem State.setCmd_streams (s : State) (k : Nat) (f : Cmd → Cmd) : (s.setCmd k f).streams = s.streams := rfl
@[simp] theorem State.setCmd_regs (s : State) (k : Nat) (f : Cmd → Cmd) : (s.setCmd k f).regs = s.regs := rfl
@[simp] theorem State.setCmd_granted (s : State) (k : Nat) (f : Cmd → Cmd) : (s.setCmd k f).granted = s.granted := rfl
@[simp] theorem State.setCmd_regStats (s : State) (k : Nat) (f : Cmd → Cmd) : (s.setCmd k f).regStats = s.regStats := rfl
@[simp] theorem State.setCmd_pcie (s : State) (k : Nat) (f : Cmd → Cmd) : (s.setCmd k f).pcie = s.pcie := rfl
@[simp] theorem State.setCmd_frames (s : State) (k : Nat) (f : Cmd → Cmd) : (s.setCmd k f).frames = s.frames := rfl
@[simp] theorem State.setCmd_cores (s : State) (k : Nat) (f : Cmd → Cmd) : (s.setCmd k f).cores = s.cores := rfl
@[simp] theorem State.setCmd_appLast (s : State) (k : Nat) (f : Cmd → Cmd) : (s.setCmd k f).appLast = s.appLast := rfl
@[simp] theorem State.setCmd_appOk (s : State) (k : Nat) (f : Cmd → Cmd) : (s.setCmd k f).appOk = s.appOk := rfl
@[simp] theorem State.setCmd_domains (s : State) (k : Nat) (f : Cmd → Cmd) : (s.setCmd k f).domains = s.domains := rfl
@[simp] theorem State.setCmd_ckPend (s : State) (k : Nat) (f : Cmd → Cmd) : (s.setCmd k f).ckPend = s.ckPend := rfl
@[simp] theorem State.setCmd_ckBuf (s : State) (k : Nat) (f : Cmd → Cmd) : (s.setCmd k f).ckBuf = s.ckBuf := rfl
@[simp] theorem State.setCmd_outTx (s : State) (k : Nat) (f : Cmd → Cmd) : (s.setCmd k f).outTx = s.outTx := rfl
@[simp] theorem State.setCmd_lanes (s : State) (k : Nat) (f : Cmd → Cmd) : (s.setCmd k f).lanes = s.lanes := rfl
@[simp] theorem State.setCmd_links (s : State) (k : Nat) (f : Cmd → Cmd) : (s.setCmd k f).links = s.links := rfl
@[simp] theorem State.setCmd_proctor (s : State) (k : Nat) (f : Cmd → Cmd) : (s.setCmd k f).proctor = s.proctor := rfl
@[simp] theorem State.setCmd_capacity (s : State) (k : Nat) (f : Cmd → Cmd) : (s.setCmd k f).capacity = s.capacity := rfl
@[simp] theorem State.setCmd_agenda (s : State) (k : Nat) (f : Cmd → Cmd) : (s.setCmd k f).agenda = s.agenda := rfl
@[simp] theorem State.setCmd_cur (s : State) (k : Nat) (f : Cmd → Cmd) : (s.setCmd k f).cur = s.cur := rfl
@[simp] theorem State.setCmd_faulty (s : State) (k : Nat) (f : Cmd → Cmd) : (s.setCmd k f).faulty = s.faulty := rfl
@[simp] theorem State.setCmd_upset (s : State) (k : Nat) (f : Cmd → Cmd) : (s.setCmd k f).upset = s.upset := rfl
@[simp] theorem State.setCmd_issues (s : State) (k : Nat) (f : Cmd → Cmd) : (s.setCmd k f).issues = s.issues := rfl
@[simp] theorem State.setCmd_freeCtr (s : State) (k : Nat) (f : Cmd → Cmd) : (s.setCmd k f).freeCtr = s.freeCtr := rfl

/-! ## setQ -/

@[simp] theorem State.setQ_mem (s : State) (q : Nat) (f : QEntry → QEntry) : (s.setQ q f).mem = s.mem := rfl
@[simp] theorem State.setQ_poison (s : State) (q : Nat) (f : QEntry → QEntry) : (s.setQ q f).poison = s.poison := rfl
@[simp] theorem State.setQ_dirty (s : State) (q : Nat) (f : QEntry → QEntry) : (s.setQ q f).dirty = s.dirty := rfl
@[simp] theorem State.setQ_copies (s : State) (q : Nat) (f : QEntry → QEntry) : (s.setQ q f).copies = s.copies := rfl
@[simp] theorem State.setQ_tokens (s : State) (q : Nat) (f : QEntry → QEntry) : (s.setQ q f).tokens = s.tokens := rfl
@[simp] theorem State.setQ_gens (s : State) (q : Nat) (f : QEntry → QEntry) : (s.setQ q f).gens = s.gens := rfl
@[simp] theorem State.setQ_tokMsgs (s : State) (q : Nat) (f : QEntry → QEntry) : (s.setQ q f).tokMsgs = s.tokMsgs := rfl
@[simp] theorem State.setQ_tokReqs (s : State) (q : Nat) (f : QEntry → QEntry) : (s.setQ q f).tokReqs = s.tokReqs := rfl
@[simp] theorem State.setQ_l1 (s : State) (q : Nat) (f : QEntry → QEntry) : (s.setQ q f).l1 = s.l1 := rfl
@[simp] theorem State.setQ_tlb (s : State) (q : Nat) (f : QEntry → QEntry) : (s.setQ q f).tlb = s.tlb := rfl
@[simp] theorem State.setQ_walks (s : State) (q : Nat) (f : QEntry → QEntry) : (s.setQ q f).walks = s.walks := rfl
@[simp] theorem State.setQ_sys (s : State) (q : Nat) (f : QEntry → QEntry) : (s.setQ q f).sys = s.sys := rfl
@[simp] theorem State.setQ_left (s : State) (q : Nat) (f : QEntry → QEntry) : (s.setQ q f).left = s.left := rfl
@[simp] theorem State.setQ_ckSeen (s : State) (q : Nat) (f : QEntry → QEntry) : (s.setQ q f).ckSeen = s.ckSeen := rfl
@[simp] theorem State.setQ_waves (s : State) (q : Nat) (f : QEntry → QEntry) : (s.setQ q f).waves = s.waves := rfl
@[simp] theorem State.setQ_clusters (s : State) (q : Nat) (f : QEntry → QEntry) : (s.setQ q f).clusters = s.clusters := rfl
@[simp] theorem State.setQ_cmds (s : State) (q : Nat) (f : QEntry → QEntry) : (s.setQ q f).cmds = s.cmds := rfl
@[simp] theorem State.setQ_grants (s : State) (q : Nat) (f : QEntry → QEntry) : (s.setQ q f).grants = s.grants := rfl
@[simp] theorem State.setQ_launches (s : State) (q : Nat) (f : QEntry → QEntry) : (s.setQ q f).launches = s.launches := rfl
@[simp] theorem State.setQ_qtab (s : State) (q : Nat) (f : QEntry → QEntry) : (s.setQ q f).qtab = s.qtab.modify q f := rfl
@[simp] theorem State.setQ_jobs (s : State) (q : Nat) (f : QEntry → QEntry) : (s.setQ q f).jobs = s.jobs := rfl
@[simp] theorem State.setQ_insts (s : State) (q : Nat) (f : QEntry → QEntry) : (s.setQ q f).insts = s.insts := rfl
@[simp] theorem State.setQ_pool (s : State) (q : Nat) (f : QEntry → QEntry) : (s.setQ q f).pool = s.pool := rfl
@[simp] theorem State.setQ_poolNext (s : State) (q : Nat) (f : QEntry → QEntry) : (s.setQ q f).poolNext = s.poolNext := rfl
@[simp] theorem State.setQ_irqs (s : State) (q : Nat) (f : QEntry → QEntry) : (s.setQ q f).irqs = s.irqs := rfl
@[simp] theorem State.setQ_undecided (s : State) (q : Nat) (f : QEntry → QEntry) : (s.setQ q f).undecided = s.undecided := rfl
@[simp] theorem State.setQ_ttDown (s : State) (q : Nat) (f : QEntry → QEntry) : (s.setQ q f).ttDown = s.ttDown := rfl
@[simp] theorem State.setQ_ttSince (s : State) (q : Nat) (f : QEntry → QEntry) : (s.setQ q f).ttSince = s.ttSince := rfl
@[simp] theorem State.setQ_parts (s : State) (q : Nat) (f : QEntry → QEntry) : (s.setQ q f).parts = s.parts := rfl
@[simp] theorem State.setQ_classes (s : State) (q : Nat) (f : QEntry → QEntry) : (s.setQ q f).classes = s.classes := rfl
@[simp] theorem State.setQ_clock (s : State) (q : Nat) (f : QEntry → QEntry) : (s.setQ q f).clock = s.clock := rfl
@[simp] theorem State.setQ_streams (s : State) (q : Nat) (f : QEntry → QEntry) : (s.setQ q f).streams = s.streams := rfl
@[simp] theorem State.setQ_regs (s : State) (q : Nat) (f : QEntry → QEntry) : (s.setQ q f).regs = s.regs := rfl
@[simp] theorem State.setQ_granted (s : State) (q : Nat) (f : QEntry → QEntry) : (s.setQ q f).granted = s.granted := rfl
@[simp] theorem State.setQ_regStats (s : State) (q : Nat) (f : QEntry → QEntry) : (s.setQ q f).regStats = s.regStats := rfl
@[simp] theorem State.setQ_pcie (s : State) (q : Nat) (f : QEntry → QEntry) : (s.setQ q f).pcie = s.pcie := rfl
@[simp] theorem State.setQ_frames (s : State) (q : Nat) (f : QEntry → QEntry) : (s.setQ q f).frames = s.frames := rfl
@[simp] theorem State.setQ_cores (s : State) (q : Nat) (f : QEntry → QEntry) : (s.setQ q f).cores = s.cores := rfl
@[simp] theorem State.setQ_appLast (s : State) (q : Nat) (f : QEntry → QEntry) : (s.setQ q f).appLast = s.appLast := rfl
@[simp] theorem State.setQ_appOk (s : State) (q : Nat) (f : QEntry → QEntry) : (s.setQ q f).appOk = s.appOk := rfl
@[simp] theorem State.setQ_domains (s : State) (q : Nat) (f : QEntry → QEntry) : (s.setQ q f).domains = s.domains := rfl
@[simp] theorem State.setQ_ckPend (s : State) (q : Nat) (f : QEntry → QEntry) : (s.setQ q f).ckPend = s.ckPend := rfl
@[simp] theorem State.setQ_ckBuf (s : State) (q : Nat) (f : QEntry → QEntry) : (s.setQ q f).ckBuf = s.ckBuf := rfl
@[simp] theorem State.setQ_outTx (s : State) (q : Nat) (f : QEntry → QEntry) : (s.setQ q f).outTx = s.outTx := rfl
@[simp] theorem State.setQ_lanes (s : State) (q : Nat) (f : QEntry → QEntry) : (s.setQ q f).lanes = s.lanes := rfl
@[simp] theorem State.setQ_links (s : State) (q : Nat) (f : QEntry → QEntry) : (s.setQ q f).links = s.links := rfl
@[simp] theorem State.setQ_proctor (s : State) (q : Nat) (f : QEntry → QEntry) : (s.setQ q f).proctor = s.proctor := rfl
@[simp] theorem State.setQ_capacity (s : State) (q : Nat) (f : QEntry → QEntry) : (s.setQ q f).capacity = s.capacity := rfl
@[simp] theorem State.setQ_agenda (s : State) (q : Nat) (f : QEntry → QEntry) : (s.setQ q f).agenda = s.agenda := rfl
@[simp] theorem State.setQ_cur (s : State) (q : Nat) (f : QEntry → QEntry) : (s.setQ q f).cur = s.cur := rfl
@[simp] theorem State.setQ_faulty (s : State) (q : Nat) (f : QEntry → QEntry) : (s.setQ q f).faulty = s.faulty := rfl
@[simp] theorem State.setQ_upset (s : State) (q : Nat) (f : QEntry → QEntry) : (s.setQ q f).upset = s.upset := rfl
@[simp] theorem State.setQ_issues (s : State) (q : Nat) (f : QEntry → QEntry) : (s.setQ q f).issues = s.issues := rfl
@[simp] theorem State.setQ_freeCtr (s : State) (q : Nat) (f : QEntry → QEntry) : (s.setQ q f).freeCtr = s.freeCtr := rfl

/-! ## setJob -/

@[simp] theorem State.setJob_mem (s : State) (j : Nat) (f : Job → Job) : (s.setJob j f).mem = s.mem := rfl
@[simp] theorem State.setJob_poison (s : State) (j : Nat) (f : Job → Job) : (s.setJob j f).poison = s.poison := rfl
@[simp] theorem State.setJob_dirty (s : State) (j : Nat) (f : Job → Job) : (s.setJob j f).dirty = s.dirty := rfl
@[simp] theorem State.setJob_copies (s : State) (j : Nat) (f : Job → Job) : (s.setJob j f).copies = s.copies := rfl
@[simp] theorem State.setJob_tokens (s : State) (j : Nat) (f : Job → Job) : (s.setJob j f).tokens = s.tokens := rfl
@[simp] theorem State.setJob_gens (s : State) (j : Nat) (f : Job → Job) : (s.setJob j f).gens = s.gens := rfl
@[simp] theorem State.setJob_tokMsgs (s : State) (j : Nat) (f : Job → Job) : (s.setJob j f).tokMsgs = s.tokMsgs := rfl
@[simp] theorem State.setJob_tokReqs (s : State) (j : Nat) (f : Job → Job) : (s.setJob j f).tokReqs = s.tokReqs := rfl
@[simp] theorem State.setJob_l1 (s : State) (j : Nat) (f : Job → Job) : (s.setJob j f).l1 = s.l1 := rfl
@[simp] theorem State.setJob_tlb (s : State) (j : Nat) (f : Job → Job) : (s.setJob j f).tlb = s.tlb := rfl
@[simp] theorem State.setJob_walks (s : State) (j : Nat) (f : Job → Job) : (s.setJob j f).walks = s.walks := rfl
@[simp] theorem State.setJob_sys (s : State) (j : Nat) (f : Job → Job) : (s.setJob j f).sys = s.sys := rfl
@[simp] theorem State.setJob_left (s : State) (j : Nat) (f : Job → Job) : (s.setJob j f).left = s.left := rfl
@[simp] theorem State.setJob_ckSeen (s : State) (j : Nat) (f : Job → Job) : (s.setJob j f).ckSeen = s.ckSeen := rfl
@[simp] theorem State.setJob_waves (s : State) (j : Nat) (f : Job → Job) : (s.setJob j f).waves = s.waves := rfl
@[simp] theorem State.setJob_clusters (s : State) (j : Nat) (f : Job → Job) : (s.setJob j f).clusters = s.clusters := rfl
@[simp] theorem State.setJob_cmds (s : State) (j : Nat) (f : Job → Job) : (s.setJob j f).cmds = s.cmds := rfl
@[simp] theorem State.setJob_grants (s : State) (j : Nat) (f : Job → Job) : (s.setJob j f).grants = s.grants := rfl
@[simp] theorem State.setJob_launches (s : State) (j : Nat) (f : Job → Job) : (s.setJob j f).launches = s.launches := rfl
@[simp] theorem State.setJob_qtab (s : State) (j : Nat) (f : Job → Job) : (s.setJob j f).qtab = s.qtab := rfl
@[simp] theorem State.setJob_jobs (s : State) (j : Nat) (f : Job → Job) : (s.setJob j f).jobs = s.jobs.map fun e => if e.1 == j then (e.1, f e.2) else e := rfl
@[simp] theorem State.setJob_insts (s : State) (j : Nat) (f : Job → Job) : (s.setJob j f).insts = s.insts := rfl
@[simp] theorem State.setJob_pool (s : State) (j : Nat) (f : Job → Job) : (s.setJob j f).pool = s.pool := rfl
@[simp] theorem State.setJob_poolNext (s : State) (j : Nat) (f : Job → Job) : (s.setJob j f).poolNext = s.poolNext := rfl
@[simp] theorem State.setJob_irqs (s : State) (j : Nat) (f : Job → Job) : (s.setJob j f).irqs = s.irqs := rfl
@[simp] theorem State.setJob_undecided (s : State) (j : Nat) (f : Job → Job) : (s.setJob j f).undecided = s.undecided := rfl
@[simp] theorem State.setJob_ttDown (s : State) (j : Nat) (f : Job → Job) : (s.setJob j f).ttDown = s.ttDown := rfl
@[simp] theorem State.setJob_ttSince (s : State) (j : Nat) (f : Job → Job) : (s.setJob j f).ttSince = s.ttSince := rfl
@[simp] theorem State.setJob_parts (s : State) (j : Nat) (f : Job → Job) : (s.setJob j f).parts = s.parts := rfl
@[simp] theorem State.setJob_classes (s : State) (j : Nat) (f : Job → Job) : (s.setJob j f).classes = s.classes := rfl
@[simp] theorem State.setJob_clock (s : State) (j : Nat) (f : Job → Job) : (s.setJob j f).clock = s.clock := rfl
@[simp] theorem State.setJob_streams (s : State) (j : Nat) (f : Job → Job) : (s.setJob j f).streams = s.streams := rfl
@[simp] theorem State.setJob_regs (s : State) (j : Nat) (f : Job → Job) : (s.setJob j f).regs = s.regs := rfl
@[simp] theorem State.setJob_granted (s : State) (j : Nat) (f : Job → Job) : (s.setJob j f).granted = s.granted := rfl
@[simp] theorem State.setJob_regStats (s : State) (j : Nat) (f : Job → Job) : (s.setJob j f).regStats = s.regStats := rfl
@[simp] theorem State.setJob_pcie (s : State) (j : Nat) (f : Job → Job) : (s.setJob j f).pcie = s.pcie := rfl
@[simp] theorem State.setJob_frames (s : State) (j : Nat) (f : Job → Job) : (s.setJob j f).frames = s.frames := rfl
@[simp] theorem State.setJob_cores (s : State) (j : Nat) (f : Job → Job) : (s.setJob j f).cores = s.cores := rfl
@[simp] theorem State.setJob_appLast (s : State) (j : Nat) (f : Job → Job) : (s.setJob j f).appLast = s.appLast := rfl
@[simp] theorem State.setJob_appOk (s : State) (j : Nat) (f : Job → Job) : (s.setJob j f).appOk = s.appOk := rfl
@[simp] theorem State.setJob_domains (s : State) (j : Nat) (f : Job → Job) : (s.setJob j f).domains = s.domains := rfl
@[simp] theorem State.setJob_ckPend (s : State) (j : Nat) (f : Job → Job) : (s.setJob j f).ckPend = s.ckPend := rfl
@[simp] theorem State.setJob_ckBuf (s : State) (j : Nat) (f : Job → Job) : (s.setJob j f).ckBuf = s.ckBuf := rfl
@[simp] theorem State.setJob_outTx (s : State) (j : Nat) (f : Job → Job) : (s.setJob j f).outTx = s.outTx := rfl
@[simp] theorem State.setJob_lanes (s : State) (j : Nat) (f : Job → Job) : (s.setJob j f).lanes = s.lanes := rfl
@[simp] theorem State.setJob_links (s : State) (j : Nat) (f : Job → Job) : (s.setJob j f).links = s.links := rfl
@[simp] theorem State.setJob_proctor (s : State) (j : Nat) (f : Job → Job) : (s.setJob j f).proctor = s.proctor := rfl
@[simp] theorem State.setJob_capacity (s : State) (j : Nat) (f : Job → Job) : (s.setJob j f).capacity = s.capacity := rfl
@[simp] theorem State.setJob_agenda (s : State) (j : Nat) (f : Job → Job) : (s.setJob j f).agenda = s.agenda := rfl
@[simp] theorem State.setJob_cur (s : State) (j : Nat) (f : Job → Job) : (s.setJob j f).cur = s.cur := rfl
@[simp] theorem State.setJob_faulty (s : State) (j : Nat) (f : Job → Job) : (s.setJob j f).faulty = s.faulty := rfl
@[simp] theorem State.setJob_upset (s : State) (j : Nat) (f : Job → Job) : (s.setJob j f).upset = s.upset := rfl
@[simp] theorem State.setJob_issues (s : State) (j : Nat) (f : Job → Job) : (s.setJob j f).issues = s.issues := rfl
@[simp] theorem State.setJob_freeCtr (s : State) (j : Nat) (f : Job → Job) : (s.setJob j f).freeCtr = s.freeCtr := rfl

/-! ## setInst -/

@[simp] theorem State.setInst_mem (s : State) (j : Nat) (f : Instance → Instance) : (s.setInst j f).mem = s.mem := rfl
@[simp] theorem State.setInst_poison (s : State) (j : Nat) (f : Instance → Instance) : (s.setInst j f).poison = s.poison := rfl
@[simp] theorem State.setInst_dirty (s : State) (j : Nat) (f : Instance → Instance) : (s.setInst j f).dirty = s.dirty := rfl
@[simp] theorem State.setInst_copies (s : State) (j : Nat) (f : Instance → Instance) : (s.setInst j f).copies = s.copies := rfl
@[simp] theorem State.setInst_tokens (s : State) (j : Nat) (f : Instance → Instance) : (s.setInst j f).tokens = s.tokens := rfl
@[simp] theorem State.setInst_gens (s : State) (j : Nat) (f : Instance → Instance) : (s.setInst j f).gens = s.gens := rfl
@[simp] theorem State.setInst_tokMsgs (s : State) (j : Nat) (f : Instance → Instance) : (s.setInst j f).tokMsgs = s.tokMsgs := rfl
@[simp] theorem State.setInst_tokReqs (s : State) (j : Nat) (f : Instance → Instance) : (s.setInst j f).tokReqs = s.tokReqs := rfl
@[simp] theorem State.setInst_l1 (s : State) (j : Nat) (f : Instance → Instance) : (s.setInst j f).l1 = s.l1 := rfl
@[simp] theorem State.setInst_tlb (s : State) (j : Nat) (f : Instance → Instance) : (s.setInst j f).tlb = s.tlb := rfl
@[simp] theorem State.setInst_walks (s : State) (j : Nat) (f : Instance → Instance) : (s.setInst j f).walks = s.walks := rfl
@[simp] theorem State.setInst_sys (s : State) (j : Nat) (f : Instance → Instance) : (s.setInst j f).sys = s.sys := rfl
@[simp] theorem State.setInst_left (s : State) (j : Nat) (f : Instance → Instance) : (s.setInst j f).left = s.left := rfl
@[simp] theorem State.setInst_ckSeen (s : State) (j : Nat) (f : Instance → Instance) : (s.setInst j f).ckSeen = s.ckSeen := rfl
@[simp] theorem State.setInst_waves (s : State) (j : Nat) (f : Instance → Instance) : (s.setInst j f).waves = s.waves := rfl
@[simp] theorem State.setInst_clusters (s : State) (j : Nat) (f : Instance → Instance) : (s.setInst j f).clusters = s.clusters := rfl
@[simp] theorem State.setInst_cmds (s : State) (j : Nat) (f : Instance → Instance) : (s.setInst j f).cmds = s.cmds := rfl
@[simp] theorem State.setInst_grants (s : State) (j : Nat) (f : Instance → Instance) : (s.setInst j f).grants = s.grants := rfl
@[simp] theorem State.setInst_launches (s : State) (j : Nat) (f : Instance → Instance) : (s.setInst j f).launches = s.launches := rfl
@[simp] theorem State.setInst_qtab (s : State) (j : Nat) (f : Instance → Instance) : (s.setInst j f).qtab = s.qtab := rfl
@[simp] theorem State.setInst_jobs (s : State) (j : Nat) (f : Instance → Instance) : (s.setInst j f).jobs = s.jobs := rfl
@[simp] theorem State.setInst_insts (s : State) (j : Nat) (f : Instance → Instance) : (s.setInst j f).insts = s.insts.map fun e => if e.job == j then f e else e := rfl
@[simp] theorem State.setInst_pool (s : State) (j : Nat) (f : Instance → Instance) : (s.setInst j f).pool = s.pool := rfl
@[simp] theorem State.setInst_poolNext (s : State) (j : Nat) (f : Instance → Instance) : (s.setInst j f).poolNext = s.poolNext := rfl
@[simp] theorem State.setInst_irqs (s : State) (j : Nat) (f : Instance → Instance) : (s.setInst j f).irqs = s.irqs := rfl
@[simp] theorem State.setInst_undecided (s : State) (j : Nat) (f : Instance → Instance) : (s.setInst j f).undecided = s.undecided := rfl
@[simp] theorem State.setInst_ttDown (s : State) (j : Nat) (f : Instance → Instance) : (s.setInst j f).ttDown = s.ttDown := rfl
@[simp] theorem State.setInst_ttSince (s : State) (j : Nat) (f : Instance → Instance) : (s.setInst j f).ttSince = s.ttSince := rfl
@[simp] theorem State.setInst_parts (s : State) (j : Nat) (f : Instance → Instance) : (s.setInst j f).parts = s.parts := rfl
@[simp] theorem State.setInst_classes (s : State) (j : Nat) (f : Instance → Instance) : (s.setInst j f).classes = s.classes := rfl
@[simp] theorem State.setInst_clock (s : State) (j : Nat) (f : Instance → Instance) : (s.setInst j f).clock = s.clock := rfl
@[simp] theorem State.setInst_streams (s : State) (j : Nat) (f : Instance → Instance) : (s.setInst j f).streams = s.streams := rfl
@[simp] theorem State.setInst_regs (s : State) (j : Nat) (f : Instance → Instance) : (s.setInst j f).regs = s.regs := rfl
@[simp] theorem State.setInst_granted (s : State) (j : Nat) (f : Instance → Instance) : (s.setInst j f).granted = s.granted := rfl
@[simp] theorem State.setInst_regStats (s : State) (j : Nat) (f : Instance → Instance) : (s.setInst j f).regStats = s.regStats := rfl
@[simp] theorem State.setInst_pcie (s : State) (j : Nat) (f : Instance → Instance) : (s.setInst j f).pcie = s.pcie := rfl
@[simp] theorem State.setInst_frames (s : State) (j : Nat) (f : Instance → Instance) : (s.setInst j f).frames = s.frames := rfl
@[simp] theorem State.setInst_cores (s : State) (j : Nat) (f : Instance → Instance) : (s.setInst j f).cores = s.cores := rfl
@[simp] theorem State.setInst_appLast (s : State) (j : Nat) (f : Instance → Instance) : (s.setInst j f).appLast = s.appLast := rfl
@[simp] theorem State.setInst_appOk (s : State) (j : Nat) (f : Instance → Instance) : (s.setInst j f).appOk = s.appOk := rfl
@[simp] theorem State.setInst_domains (s : State) (j : Nat) (f : Instance → Instance) : (s.setInst j f).domains = s.domains := rfl
@[simp] theorem State.setInst_ckPend (s : State) (j : Nat) (f : Instance → Instance) : (s.setInst j f).ckPend = s.ckPend := rfl
@[simp] theorem State.setInst_ckBuf (s : State) (j : Nat) (f : Instance → Instance) : (s.setInst j f).ckBuf = s.ckBuf := rfl
@[simp] theorem State.setInst_outTx (s : State) (j : Nat) (f : Instance → Instance) : (s.setInst j f).outTx = s.outTx := rfl
@[simp] theorem State.setInst_lanes (s : State) (j : Nat) (f : Instance → Instance) : (s.setInst j f).lanes = s.lanes := rfl
@[simp] theorem State.setInst_links (s : State) (j : Nat) (f : Instance → Instance) : (s.setInst j f).links = s.links := rfl
@[simp] theorem State.setInst_proctor (s : State) (j : Nat) (f : Instance → Instance) : (s.setInst j f).proctor = s.proctor := rfl
@[simp] theorem State.setInst_capacity (s : State) (j : Nat) (f : Instance → Instance) : (s.setInst j f).capacity = s.capacity := rfl
@[simp] theorem State.setInst_agenda (s : State) (j : Nat) (f : Instance → Instance) : (s.setInst j f).agenda = s.agenda := rfl
@[simp] theorem State.setInst_cur (s : State) (j : Nat) (f : Instance → Instance) : (s.setInst j f).cur = s.cur := rfl
@[simp] theorem State.setInst_faulty (s : State) (j : Nat) (f : Instance → Instance) : (s.setInst j f).faulty = s.faulty := rfl
@[simp] theorem State.setInst_upset (s : State) (j : Nat) (f : Instance → Instance) : (s.setInst j f).upset = s.upset := rfl
@[simp] theorem State.setInst_issues (s : State) (j : Nat) (f : Instance → Instance) : (s.setInst j f).issues = s.issues := rfl
@[simp] theorem State.setInst_freeCtr (s : State) (j : Nat) (f : Instance → Instance) : (s.setInst j f).freeCtr = s.freeCtr := rfl

/-! ## setGang -/

@[simp] theorem State.setGang_mem (s : State) (l g : Nat) (f : Gang → Gang) : (s.setGang l g f).mem = s.mem := rfl
@[simp] theorem State.setGang_poison (s : State) (l g : Nat) (f : Gang → Gang) : (s.setGang l g f).poison = s.poison := rfl
@[simp] theorem State.setGang_dirty (s : State) (l g : Nat) (f : Gang → Gang) : (s.setGang l g f).dirty = s.dirty := rfl
@[simp] theorem State.setGang_copies (s : State) (l g : Nat) (f : Gang → Gang) : (s.setGang l g f).copies = s.copies := rfl
@[simp] theorem State.setGang_tokens (s : State) (l g : Nat) (f : Gang → Gang) : (s.setGang l g f).tokens = s.tokens := rfl
@[simp] theorem State.setGang_gens (s : State) (l g : Nat) (f : Gang → Gang) : (s.setGang l g f).gens = s.gens := rfl
@[simp] theorem State.setGang_tokMsgs (s : State) (l g : Nat) (f : Gang → Gang) : (s.setGang l g f).tokMsgs = s.tokMsgs := rfl
@[simp] theorem State.setGang_tokReqs (s : State) (l g : Nat) (f : Gang → Gang) : (s.setGang l g f).tokReqs = s.tokReqs := rfl
@[simp] theorem State.setGang_l1 (s : State) (l g : Nat) (f : Gang → Gang) : (s.setGang l g f).l1 = s.l1 := rfl
@[simp] theorem State.setGang_tlb (s : State) (l g : Nat) (f : Gang → Gang) : (s.setGang l g f).tlb = s.tlb := rfl
@[simp] theorem State.setGang_walks (s : State) (l g : Nat) (f : Gang → Gang) : (s.setGang l g f).walks = s.walks := rfl
@[simp] theorem State.setGang_sys (s : State) (l g : Nat) (f : Gang → Gang) : (s.setGang l g f).sys = s.sys := rfl
@[simp] theorem State.setGang_left (s : State) (l g : Nat) (f : Gang → Gang) : (s.setGang l g f).left = s.left := rfl
@[simp] theorem State.setGang_ckSeen (s : State) (l g : Nat) (f : Gang → Gang) : (s.setGang l g f).ckSeen = s.ckSeen := rfl
@[simp] theorem State.setGang_waves (s : State) (l g : Nat) (f : Gang → Gang) : (s.setGang l g f).waves = s.waves := rfl
@[simp] theorem State.setGang_clusters (s : State) (l g : Nat) (f : Gang → Gang) : (s.setGang l g f).clusters = s.clusters := rfl
@[simp] theorem State.setGang_cmds (s : State) (l g : Nat) (f : Gang → Gang) : (s.setGang l g f).cmds = s.cmds := rfl
@[simp] theorem State.setGang_grants (s : State) (l g : Nat) (f : Gang → Gang) : (s.setGang l g f).grants = s.grants := rfl
@[simp] theorem State.setGang_launches (s : State) (l g : Nat) (f : Gang → Gang) : (s.setGang l g f).launches = s.launches.modify l fun x => { x with gangs := x.gangs.modify g f } := rfl
@[simp] theorem State.setGang_qtab (s : State) (l g : Nat) (f : Gang → Gang) : (s.setGang l g f).qtab = s.qtab := rfl
@[simp] theorem State.setGang_jobs (s : State) (l g : Nat) (f : Gang → Gang) : (s.setGang l g f).jobs = s.jobs := rfl
@[simp] theorem State.setGang_insts (s : State) (l g : Nat) (f : Gang → Gang) : (s.setGang l g f).insts = s.insts := rfl
@[simp] theorem State.setGang_pool (s : State) (l g : Nat) (f : Gang → Gang) : (s.setGang l g f).pool = s.pool := rfl
@[simp] theorem State.setGang_poolNext (s : State) (l g : Nat) (f : Gang → Gang) : (s.setGang l g f).poolNext = s.poolNext := rfl
@[simp] theorem State.setGang_irqs (s : State) (l g : Nat) (f : Gang → Gang) : (s.setGang l g f).irqs = s.irqs := rfl
@[simp] theorem State.setGang_undecided (s : State) (l g : Nat) (f : Gang → Gang) : (s.setGang l g f).undecided = s.undecided := rfl
@[simp] theorem State.setGang_ttDown (s : State) (l g : Nat) (f : Gang → Gang) : (s.setGang l g f).ttDown = s.ttDown := rfl
@[simp] theorem State.setGang_ttSince (s : State) (l g : Nat) (f : Gang → Gang) : (s.setGang l g f).ttSince = s.ttSince := rfl
@[simp] theorem State.setGang_parts (s : State) (l g : Nat) (f : Gang → Gang) : (s.setGang l g f).parts = s.parts := rfl
@[simp] theorem State.setGang_classes (s : State) (l g : Nat) (f : Gang → Gang) : (s.setGang l g f).classes = s.classes := rfl
@[simp] theorem State.setGang_clock (s : State) (l g : Nat) (f : Gang → Gang) : (s.setGang l g f).clock = s.clock := rfl
@[simp] theorem State.setGang_streams (s : State) (l g : Nat) (f : Gang → Gang) : (s.setGang l g f).streams = s.streams := rfl
@[simp] theorem State.setGang_regs (s : State) (l g : Nat) (f : Gang → Gang) : (s.setGang l g f).regs = s.regs := rfl
@[simp] theorem State.setGang_granted (s : State) (l g : Nat) (f : Gang → Gang) : (s.setGang l g f).granted = s.granted := rfl
@[simp] theorem State.setGang_regStats (s : State) (l g : Nat) (f : Gang → Gang) : (s.setGang l g f).regStats = s.regStats := rfl
@[simp] theorem State.setGang_pcie (s : State) (l g : Nat) (f : Gang → Gang) : (s.setGang l g f).pcie = s.pcie := rfl
@[simp] theorem State.setGang_frames (s : State) (l g : Nat) (f : Gang → Gang) : (s.setGang l g f).frames = s.frames := rfl
@[simp] theorem State.setGang_cores (s : State) (l g : Nat) (f : Gang → Gang) : (s.setGang l g f).cores = s.cores := rfl
@[simp] theorem State.setGang_appLast (s : State) (l g : Nat) (f : Gang → Gang) : (s.setGang l g f).appLast = s.appLast := rfl
@[simp] theorem State.setGang_appOk (s : State) (l g : Nat) (f : Gang → Gang) : (s.setGang l g f).appOk = s.appOk := rfl
@[simp] theorem State.setGang_domains (s : State) (l g : Nat) (f : Gang → Gang) : (s.setGang l g f).domains = s.domains := rfl
@[simp] theorem State.setGang_ckPend (s : State) (l g : Nat) (f : Gang → Gang) : (s.setGang l g f).ckPend = s.ckPend := rfl
@[simp] theorem State.setGang_ckBuf (s : State) (l g : Nat) (f : Gang → Gang) : (s.setGang l g f).ckBuf = s.ckBuf := rfl
@[simp] theorem State.setGang_outTx (s : State) (l g : Nat) (f : Gang → Gang) : (s.setGang l g f).outTx = s.outTx := rfl
@[simp] theorem State.setGang_lanes (s : State) (l g : Nat) (f : Gang → Gang) : (s.setGang l g f).lanes = s.lanes := rfl
@[simp] theorem State.setGang_links (s : State) (l g : Nat) (f : Gang → Gang) : (s.setGang l g f).links = s.links := rfl
@[simp] theorem State.setGang_proctor (s : State) (l g : Nat) (f : Gang → Gang) : (s.setGang l g f).proctor = s.proctor := rfl
@[simp] theorem State.setGang_capacity (s : State) (l g : Nat) (f : Gang → Gang) : (s.setGang l g f).capacity = s.capacity := rfl
@[simp] theorem State.setGang_agenda (s : State) (l g : Nat) (f : Gang → Gang) : (s.setGang l g f).agenda = s.agenda := rfl
@[simp] theorem State.setGang_cur (s : State) (l g : Nat) (f : Gang → Gang) : (s.setGang l g f).cur = s.cur := rfl
@[simp] theorem State.setGang_faulty (s : State) (l g : Nat) (f : Gang → Gang) : (s.setGang l g f).faulty = s.faulty := rfl
@[simp] theorem State.setGang_upset (s : State) (l g : Nat) (f : Gang → Gang) : (s.setGang l g f).upset = s.upset := rfl
@[simp] theorem State.setGang_issues (s : State) (l g : Nat) (f : Gang → Gang) : (s.setGang l g f).issues = s.issues := rfl
@[simp] theorem State.setGang_freeCtr (s : State) (l g : Nat) (f : Gang → Gang) : (s.setGang l g f).freeCtr = s.freeCtr := rfl

/-! ## modFrag -/

@[simp] theorem State.modFrag_mem (s : State) (w slot : Nat) (f : Frag → Frag) : (s.modFrag w slot f).mem = s.mem := rfl
@[simp] theorem State.modFrag_poison (s : State) (w slot : Nat) (f : Frag → Frag) : (s.modFrag w slot f).poison = s.poison := rfl
@[simp] theorem State.modFrag_dirty (s : State) (w slot : Nat) (f : Frag → Frag) : (s.modFrag w slot f).dirty = s.dirty := rfl
@[simp] theorem State.modFrag_copies (s : State) (w slot : Nat) (f : Frag → Frag) : (s.modFrag w slot f).copies = s.copies := rfl
@[simp] theorem State.modFrag_tokens (s : State) (w slot : Nat) (f : Frag → Frag) : (s.modFrag w slot f).tokens = s.tokens := rfl
@[simp] theorem State.modFrag_gens (s : State) (w slot : Nat) (f : Frag → Frag) : (s.modFrag w slot f).gens = s.gens := rfl
@[simp] theorem State.modFrag_tokMsgs (s : State) (w slot : Nat) (f : Frag → Frag) : (s.modFrag w slot f).tokMsgs = s.tokMsgs := rfl
@[simp] theorem State.modFrag_tokReqs (s : State) (w slot : Nat) (f : Frag → Frag) : (s.modFrag w slot f).tokReqs = s.tokReqs := rfl
@[simp] theorem State.modFrag_l1 (s : State) (w slot : Nat) (f : Frag → Frag) : (s.modFrag w slot f).l1 = s.l1 := rfl
@[simp] theorem State.modFrag_tlb (s : State) (w slot : Nat) (f : Frag → Frag) : (s.modFrag w slot f).tlb = s.tlb := rfl
@[simp] theorem State.modFrag_walks (s : State) (w slot : Nat) (f : Frag → Frag) : (s.modFrag w slot f).walks = s.walks := rfl
@[simp] theorem State.modFrag_sys (s : State) (w slot : Nat) (f : Frag → Frag) : (s.modFrag w slot f).sys = s.sys := rfl
@[simp] theorem State.modFrag_left (s : State) (w slot : Nat) (f : Frag → Frag) : (s.modFrag w slot f).left = s.left := rfl
@[simp] theorem State.modFrag_ckSeen (s : State) (w slot : Nat) (f : Frag → Frag) : (s.modFrag w slot f).ckSeen = s.ckSeen := rfl
@[simp] theorem State.modFrag_waves (s : State) (w slot : Nat) (f : Frag → Frag) : (s.modFrag w slot f).waves = s.waves.modify w fun v => v.setFrag slot ((v.frag slot).map f) := rfl
@[simp] theorem State.modFrag_clusters (s : State) (w slot : Nat) (f : Frag → Frag) : (s.modFrag w slot f).clusters = s.clusters := rfl
@[simp] theorem State.modFrag_cmds (s : State) (w slot : Nat) (f : Frag → Frag) : (s.modFrag w slot f).cmds = s.cmds := rfl
@[simp] theorem State.modFrag_grants (s : State) (w slot : Nat) (f : Frag → Frag) : (s.modFrag w slot f).grants = s.grants := rfl
@[simp] theorem State.modFrag_launches (s : State) (w slot : Nat) (f : Frag → Frag) : (s.modFrag w slot f).launches = s.launches := rfl
@[simp] theorem State.modFrag_qtab (s : State) (w slot : Nat) (f : Frag → Frag) : (s.modFrag w slot f).qtab = s.qtab := rfl
@[simp] theorem State.modFrag_jobs (s : State) (w slot : Nat) (f : Frag → Frag) : (s.modFrag w slot f).jobs = s.jobs := rfl
@[simp] theorem State.modFrag_insts (s : State) (w slot : Nat) (f : Frag → Frag) : (s.modFrag w slot f).insts = s.insts := rfl
@[simp] theorem State.modFrag_pool (s : State) (w slot : Nat) (f : Frag → Frag) : (s.modFrag w slot f).pool = s.pool := rfl
@[simp] theorem State.modFrag_poolNext (s : State) (w slot : Nat) (f : Frag → Frag) : (s.modFrag w slot f).poolNext = s.poolNext := rfl
@[simp] theorem State.modFrag_irqs (s : State) (w slot : Nat) (f : Frag → Frag) : (s.modFrag w slot f).irqs = s.irqs := rfl
@[simp] theorem State.modFrag_undecided (s : State) (w slot : Nat) (f : Frag → Frag) : (s.modFrag w slot f).undecided = s.undecided := rfl
@[simp] theorem State.modFrag_ttDown (s : State) (w slot : Nat) (f : Frag → Frag) : (s.modFrag w slot f).ttDown = s.ttDown := rfl
@[simp] theorem State.modFrag_ttSince (s : State) (w slot : Nat) (f : Frag → Frag) : (s.modFrag w slot f).ttSince = s.ttSince := rfl
@[simp] theorem State.modFrag_parts (s : State) (w slot : Nat) (f : Frag → Frag) : (s.modFrag w slot f).parts = s.parts := rfl
@[simp] theorem State.modFrag_classes (s : State) (w slot : Nat) (f : Frag → Frag) : (s.modFrag w slot f).classes = s.classes := rfl
@[simp] theorem State.modFrag_clock (s : State) (w slot : Nat) (f : Frag → Frag) : (s.modFrag w slot f).clock = s.clock := rfl
@[simp] theorem State.modFrag_streams (s : State) (w slot : Nat) (f : Frag → Frag) : (s.modFrag w slot f).streams = s.streams := rfl
@[simp] theorem State.modFrag_regs (s : State) (w slot : Nat) (f : Frag → Frag) : (s.modFrag w slot f).regs = s.regs := rfl
@[simp] theorem State.modFrag_granted (s : State) (w slot : Nat) (f : Frag → Frag) : (s.modFrag w slot f).granted = s.granted := rfl
@[simp] theorem State.modFrag_regStats (s : State) (w slot : Nat) (f : Frag → Frag) : (s.modFrag w slot f).regStats = s.regStats := rfl
@[simp] theorem State.modFrag_pcie (s : State) (w slot : Nat) (f : Frag → Frag) : (s.modFrag w slot f).pcie = s.pcie := rfl
@[simp] theorem State.modFrag_frames (s : State) (w slot : Nat) (f : Frag → Frag) : (s.modFrag w slot f).frames = s.frames := rfl
@[simp] theorem State.modFrag_cores (s : State) (w slot : Nat) (f : Frag → Frag) : (s.modFrag w slot f).cores = s.cores := rfl
@[simp] theorem State.modFrag_appLast (s : State) (w slot : Nat) (f : Frag → Frag) : (s.modFrag w slot f).appLast = s.appLast := rfl
@[simp] theorem State.modFrag_appOk (s : State) (w slot : Nat) (f : Frag → Frag) : (s.modFrag w slot f).appOk = s.appOk := rfl
@[simp] theorem State.modFrag_domains (s : State) (w slot : Nat) (f : Frag → Frag) : (s.modFrag w slot f).domains = s.domains := rfl
@[simp] theorem State.modFrag_ckPend (s : State) (w slot : Nat) (f : Frag → Frag) : (s.modFrag w slot f).ckPend = s.ckPend := rfl
@[simp] theorem State.modFrag_ckBuf (s : State) (w slot : Nat) (f : Frag → Frag) : (s.modFrag w slot f).ckBuf = s.ckBuf := rfl
@[simp] theorem State.modFrag_outTx (s : State) (w slot : Nat) (f : Frag → Frag) : (s.modFrag w slot f).outTx = s.outTx := rfl
@[simp] theorem State.modFrag_lanes (s : State) (w slot : Nat) (f : Frag → Frag) : (s.modFrag w slot f).lanes = s.lanes := rfl
@[simp] theorem State.modFrag_links (s : State) (w slot : Nat) (f : Frag → Frag) : (s.modFrag w slot f).links = s.links := rfl
@[simp] theorem State.modFrag_proctor (s : State) (w slot : Nat) (f : Frag → Frag) : (s.modFrag w slot f).proctor = s.proctor := rfl
@[simp] theorem State.modFrag_capacity (s : State) (w slot : Nat) (f : Frag → Frag) : (s.modFrag w slot f).capacity = s.capacity := rfl
@[simp] theorem State.modFrag_agenda (s : State) (w slot : Nat) (f : Frag → Frag) : (s.modFrag w slot f).agenda = s.agenda := rfl
@[simp] theorem State.modFrag_cur (s : State) (w slot : Nat) (f : Frag → Frag) : (s.modFrag w slot f).cur = s.cur := rfl
@[simp] theorem State.modFrag_faulty (s : State) (w slot : Nat) (f : Frag → Frag) : (s.modFrag w slot f).faulty = s.faulty := rfl
@[simp] theorem State.modFrag_upset (s : State) (w slot : Nat) (f : Frag → Frag) : (s.modFrag w slot f).upset = s.upset := rfl
@[simp] theorem State.modFrag_issues (s : State) (w slot : Nat) (f : Frag → Frag) : (s.modFrag w slot f).issues = s.issues := rfl
@[simp] theorem State.modFrag_freeCtr (s : State) (w slot : Nat) (f : Frag → Frag) : (s.modFrag w slot f).freeCtr = s.freeCtr := rfl

/-! ## commit -/

@[simp] theorem State.commit_mem (s : State) (k : Ctx) (v : Wave) (n : Nat) : (s.commit k v n).mem = s.mem := rfl
@[simp] theorem State.commit_poison (s : State) (k : Ctx) (v : Wave) (n : Nat) : (s.commit k v n).poison = s.poison := rfl
@[simp] theorem State.commit_dirty (s : State) (k : Ctx) (v : Wave) (n : Nat) : (s.commit k v n).dirty = s.dirty := rfl
@[simp] theorem State.commit_copies (s : State) (k : Ctx) (v : Wave) (n : Nat) : (s.commit k v n).copies = s.copies := rfl
@[simp] theorem State.commit_tokens (s : State) (k : Ctx) (v : Wave) (n : Nat) : (s.commit k v n).tokens = s.tokens := rfl
@[simp] theorem State.commit_gens (s : State) (k : Ctx) (v : Wave) (n : Nat) : (s.commit k v n).gens = s.gens := rfl
@[simp] theorem State.commit_tokMsgs (s : State) (k : Ctx) (v : Wave) (n : Nat) : (s.commit k v n).tokMsgs = s.tokMsgs := rfl
@[simp] theorem State.commit_tokReqs (s : State) (k : Ctx) (v : Wave) (n : Nat) : (s.commit k v n).tokReqs = s.tokReqs := rfl
@[simp] theorem State.commit_l1 (s : State) (k : Ctx) (v : Wave) (n : Nat) : (s.commit k v n).l1 = s.l1 := rfl
@[simp] theorem State.commit_tlb (s : State) (k : Ctx) (v : Wave) (n : Nat) : (s.commit k v n).tlb = s.tlb := rfl
@[simp] theorem State.commit_walks (s : State) (k : Ctx) (v : Wave) (n : Nat) : (s.commit k v n).walks = s.walks := rfl
@[simp] theorem State.commit_sys (s : State) (k : Ctx) (v : Wave) (n : Nat) : (s.commit k v n).sys = s.sys := rfl
@[simp] theorem State.commit_left (s : State) (k : Ctx) (v : Wave) (n : Nat) : (s.commit k v n).left = s.left := rfl
@[simp] theorem State.commit_ckSeen (s : State) (k : Ctx) (v : Wave) (n : Nat) : (s.commit k v n).ckSeen = s.ckSeen := rfl
@[simp] theorem State.commit_waves (s : State) (k : Ctx) (v : Wave) (n : Nat) : (s.commit k v n).waves = s.waves.modify k.w fun _ => v.setFrag k.slot ((v.frag k.slot).map (·.after n)) := rfl
@[simp] theorem State.commit_clusters (s : State) (k : Ctx) (v : Wave) (n : Nat) : (s.commit k v n).clusters = s.clusters := rfl
@[simp] theorem State.commit_cmds (s : State) (k : Ctx) (v : Wave) (n : Nat) : (s.commit k v n).cmds = s.cmds := rfl
@[simp] theorem State.commit_grants (s : State) (k : Ctx) (v : Wave) (n : Nat) : (s.commit k v n).grants = s.grants := rfl
@[simp] theorem State.commit_launches (s : State) (k : Ctx) (v : Wave) (n : Nat) : (s.commit k v n).launches = s.launches := rfl
@[simp] theorem State.commit_qtab (s : State) (k : Ctx) (v : Wave) (n : Nat) : (s.commit k v n).qtab = s.qtab := rfl
@[simp] theorem State.commit_jobs (s : State) (k : Ctx) (v : Wave) (n : Nat) : (s.commit k v n).jobs = s.jobs := rfl
@[simp] theorem State.commit_insts (s : State) (k : Ctx) (v : Wave) (n : Nat) : (s.commit k v n).insts = s.insts := rfl
@[simp] theorem State.commit_pool (s : State) (k : Ctx) (v : Wave) (n : Nat) : (s.commit k v n).pool = s.pool := rfl
@[simp] theorem State.commit_poolNext (s : State) (k : Ctx) (v : Wave) (n : Nat) : (s.commit k v n).poolNext = s.poolNext := rfl
@[simp] theorem State.commit_irqs (s : State) (k : Ctx) (v : Wave) (n : Nat) : (s.commit k v n).irqs = s.irqs := rfl
@[simp] theorem State.commit_undecided (s : State) (k : Ctx) (v : Wave) (n : Nat) : (s.commit k v n).undecided = s.undecided := rfl
@[simp] theorem State.commit_ttDown (s : State) (k : Ctx) (v : Wave) (n : Nat) : (s.commit k v n).ttDown = s.ttDown := rfl
@[simp] theorem State.commit_ttSince (s : State) (k : Ctx) (v : Wave) (n : Nat) : (s.commit k v n).ttSince = s.ttSince := rfl
@[simp] theorem State.commit_parts (s : State) (k : Ctx) (v : Wave) (n : Nat) : (s.commit k v n).parts = s.parts := rfl
@[simp] theorem State.commit_classes (s : State) (k : Ctx) (v : Wave) (n : Nat) : (s.commit k v n).classes = s.classes := rfl
@[simp] theorem State.commit_clock (s : State) (k : Ctx) (v : Wave) (n : Nat) : (s.commit k v n).clock = s.clock := rfl
@[simp] theorem State.commit_streams (s : State) (k : Ctx) (v : Wave) (n : Nat) : (s.commit k v n).streams = s.streams := rfl
@[simp] theorem State.commit_regs (s : State) (k : Ctx) (v : Wave) (n : Nat) : (s.commit k v n).regs = s.regs := rfl
@[simp] theorem State.commit_granted (s : State) (k : Ctx) (v : Wave) (n : Nat) : (s.commit k v n).granted = s.granted := rfl
@[simp] theorem State.commit_regStats (s : State) (k : Ctx) (v : Wave) (n : Nat) : (s.commit k v n).regStats = s.regStats := rfl
@[simp] theorem State.commit_pcie (s : State) (k : Ctx) (v : Wave) (n : Nat) : (s.commit k v n).pcie = s.pcie := rfl
@[simp] theorem State.commit_frames (s : State) (k : Ctx) (v : Wave) (n : Nat) : (s.commit k v n).frames = s.frames := rfl
@[simp] theorem State.commit_cores (s : State) (k : Ctx) (v : Wave) (n : Nat) : (s.commit k v n).cores = s.cores := rfl
@[simp] theorem State.commit_appLast (s : State) (k : Ctx) (v : Wave) (n : Nat) : (s.commit k v n).appLast = s.appLast := rfl
@[simp] theorem State.commit_appOk (s : State) (k : Ctx) (v : Wave) (n : Nat) : (s.commit k v n).appOk = s.appOk := rfl
@[simp] theorem State.commit_domains (s : State) (k : Ctx) (v : Wave) (n : Nat) : (s.commit k v n).domains = s.domains := rfl
@[simp] theorem State.commit_ckPend (s : State) (k : Ctx) (v : Wave) (n : Nat) : (s.commit k v n).ckPend = s.ckPend := rfl
@[simp] theorem State.commit_ckBuf (s : State) (k : Ctx) (v : Wave) (n : Nat) : (s.commit k v n).ckBuf = s.ckBuf := rfl
@[simp] theorem State.commit_outTx (s : State) (k : Ctx) (v : Wave) (n : Nat) : (s.commit k v n).outTx = s.outTx := rfl
@[simp] theorem State.commit_lanes (s : State) (k : Ctx) (v : Wave) (n : Nat) : (s.commit k v n).lanes = s.lanes := rfl
@[simp] theorem State.commit_links (s : State) (k : Ctx) (v : Wave) (n : Nat) : (s.commit k v n).links = s.links := rfl
@[simp] theorem State.commit_proctor (s : State) (k : Ctx) (v : Wave) (n : Nat) : (s.commit k v n).proctor = s.proctor := rfl
@[simp] theorem State.commit_capacity (s : State) (k : Ctx) (v : Wave) (n : Nat) : (s.commit k v n).capacity = s.capacity := rfl
@[simp] theorem State.commit_agenda (s : State) (k : Ctx) (v : Wave) (n : Nat) : (s.commit k v n).agenda = s.agenda := rfl
@[simp] theorem State.commit_cur (s : State) (k : Ctx) (v : Wave) (n : Nat) : (s.commit k v n).cur = s.cur := rfl
@[simp] theorem State.commit_faulty (s : State) (k : Ctx) (v : Wave) (n : Nat) : (s.commit k v n).faulty = s.faulty := rfl
@[simp] theorem State.commit_upset (s : State) (k : Ctx) (v : Wave) (n : Nat) : (s.commit k v n).upset = s.upset := rfl
@[simp] theorem State.commit_issues (s : State) (k : Ctx) (v : Wave) (n : Nat) : (s.commit k v n).issues = s.issues := rfl
@[simp] theorem State.commit_freeCtr (s : State) (k : Ctx) (v : Wave) (n : Nat) : (s.commit k v n).freeCtr = s.freeCtr := rfl

/-! ## due -/

@[simp] theorem State.due_mem (s : State) : (s.due).mem = s.mem := rfl
@[simp] theorem State.due_poison (s : State) : (s.due).poison = s.poison := rfl
@[simp] theorem State.due_dirty (s : State) : (s.due).dirty = s.dirty := rfl
@[simp] theorem State.due_copies (s : State) : (s.due).copies = s.copies := rfl
@[simp] theorem State.due_tokens (s : State) : (s.due).tokens = s.tokens := rfl
@[simp] theorem State.due_gens (s : State) : (s.due).gens = s.gens := rfl
@[simp] theorem State.due_tokMsgs (s : State) : (s.due).tokMsgs = s.tokMsgs := rfl
@[simp] theorem State.due_tokReqs (s : State) : (s.due).tokReqs = s.tokReqs := rfl
@[simp] theorem State.due_l1 (s : State) : (s.due).l1 = s.l1 := rfl
@[simp] theorem State.due_tlb (s : State) : (s.due).tlb = s.tlb := rfl
@[simp] theorem State.due_walks (s : State) : (s.due).walks = s.walks := rfl
@[simp] theorem State.due_sys (s : State) : (s.due).sys = s.sys := rfl
@[simp] theorem State.due_left (s : State) : (s.due).left = s.left := rfl
@[simp] theorem State.due_ckSeen (s : State) : (s.due).ckSeen = s.ckSeen := rfl
@[simp] theorem State.due_waves (s : State) : (s.due).waves = s.waves := rfl
@[simp] theorem State.due_clusters (s : State) : (s.due).clusters = s.clusters := rfl
@[simp] theorem State.due_cmds (s : State) : (s.due).cmds = s.cmds := rfl
@[simp] theorem State.due_grants (s : State) : (s.due).grants = s.grants := rfl
@[simp] theorem State.due_launches (s : State) : (s.due).launches = s.launches := rfl
@[simp] theorem State.due_qtab (s : State) : (s.due).qtab = s.qtab := rfl
@[simp] theorem State.due_jobs (s : State) : (s.due).jobs = s.jobs := rfl
@[simp] theorem State.due_insts (s : State) : (s.due).insts = s.insts := rfl
@[simp] theorem State.due_pool (s : State) : (s.due).pool = s.pool := rfl
@[simp] theorem State.due_poolNext (s : State) : (s.due).poolNext = s.poolNext := rfl
@[simp] theorem State.due_irqs (s : State) : (s.due).irqs = s.irqs := rfl
@[simp] theorem State.due_undecided (s : State) : (s.due).undecided = true := rfl
@[simp] theorem State.due_ttDown (s : State) : (s.due).ttDown = s.ttDown := rfl
@[simp] theorem State.due_ttSince (s : State) : (s.due).ttSince = s.ttSince := rfl
@[simp] theorem State.due_parts (s : State) : (s.due).parts = s.parts := rfl
@[simp] theorem State.due_classes (s : State) : (s.due).classes = s.classes := rfl
@[simp] theorem State.due_clock (s : State) : (s.due).clock = s.clock := rfl
@[simp] theorem State.due_streams (s : State) : (s.due).streams = s.streams := rfl
@[simp] theorem State.due_regs (s : State) : (s.due).regs = s.regs := rfl
@[simp] theorem State.due_granted (s : State) : (s.due).granted = s.granted := rfl
@[simp] theorem State.due_regStats (s : State) : (s.due).regStats = s.regStats := rfl
@[simp] theorem State.due_pcie (s : State) : (s.due).pcie = s.pcie := rfl
@[simp] theorem State.due_frames (s : State) : (s.due).frames = s.frames := rfl
@[simp] theorem State.due_cores (s : State) : (s.due).cores = s.cores := rfl
@[simp] theorem State.due_appLast (s : State) : (s.due).appLast = s.appLast := rfl
@[simp] theorem State.due_appOk (s : State) : (s.due).appOk = s.appOk := rfl
@[simp] theorem State.due_domains (s : State) : (s.due).domains = s.domains := rfl
@[simp] theorem State.due_ckPend (s : State) : (s.due).ckPend = s.ckPend := rfl
@[simp] theorem State.due_ckBuf (s : State) : (s.due).ckBuf = s.ckBuf := rfl
@[simp] theorem State.due_outTx (s : State) : (s.due).outTx = s.outTx := rfl
@[simp] theorem State.due_lanes (s : State) : (s.due).lanes = s.lanes := rfl
@[simp] theorem State.due_links (s : State) : (s.due).links = s.links := rfl
@[simp] theorem State.due_proctor (s : State) : (s.due).proctor = s.proctor := rfl
@[simp] theorem State.due_capacity (s : State) : (s.due).capacity = s.capacity := rfl
@[simp] theorem State.due_agenda (s : State) : (s.due).agenda = s.agenda := rfl
@[simp] theorem State.due_cur (s : State) : (s.due).cur = s.cur := rfl
@[simp] theorem State.due_faulty (s : State) : (s.due).faulty = s.faulty := rfl
@[simp] theorem State.due_upset (s : State) : (s.due).upset = s.upset := rfl
@[simp] theorem State.due_issues (s : State) : (s.due).issues = s.issues := rfl
@[simp] theorem State.due_freeCtr (s : State) : (s.due).freeCtr = s.freeCtr := rfl

/-! ## writeRaw -/

@[simp] theorem State.writeRaw_mem (s : State) (pa : Nat) (bs : List Byte) : (s.writeRaw pa bs).mem = Memory.write s.mem pa bs := rfl
@[simp] theorem State.writeRaw_poison (s : State) (pa : Nat) (bs : List Byte) : (s.writeRaw pa bs).poison = s.poison := rfl
@[simp] theorem State.writeRaw_dirty (s : State) (pa : Nat) (bs : List Byte) : (s.writeRaw pa bs).dirty = s.dirty := rfl
@[simp] theorem State.writeRaw_copies (s : State) (pa : Nat) (bs : List Byte) : (s.writeRaw pa bs).copies = s.copies := rfl
@[simp] theorem State.writeRaw_tokens (s : State) (pa : Nat) (bs : List Byte) : (s.writeRaw pa bs).tokens = s.tokens := rfl
@[simp] theorem State.writeRaw_gens (s : State) (pa : Nat) (bs : List Byte) : (s.writeRaw pa bs).gens = s.gens := rfl
@[simp] theorem State.writeRaw_tokMsgs (s : State) (pa : Nat) (bs : List Byte) : (s.writeRaw pa bs).tokMsgs = s.tokMsgs := rfl
@[simp] theorem State.writeRaw_tokReqs (s : State) (pa : Nat) (bs : List Byte) : (s.writeRaw pa bs).tokReqs = s.tokReqs := rfl
@[simp] theorem State.writeRaw_l1 (s : State) (pa : Nat) (bs : List Byte) : (s.writeRaw pa bs).l1 = s.l1 := rfl
@[simp] theorem State.writeRaw_tlb (s : State) (pa : Nat) (bs : List Byte) : (s.writeRaw pa bs).tlb = s.tlb := rfl
@[simp] theorem State.writeRaw_walks (s : State) (pa : Nat) (bs : List Byte) : (s.writeRaw pa bs).walks = s.walks := rfl
@[simp] theorem State.writeRaw_sys (s : State) (pa : Nat) (bs : List Byte) : (s.writeRaw pa bs).sys = s.sys := rfl
@[simp] theorem State.writeRaw_left (s : State) (pa : Nat) (bs : List Byte) : (s.writeRaw pa bs).left = s.left := rfl
@[simp] theorem State.writeRaw_ckSeen (s : State) (pa : Nat) (bs : List Byte) : (s.writeRaw pa bs).ckSeen = s.ckSeen := rfl
@[simp] theorem State.writeRaw_waves (s : State) (pa : Nat) (bs : List Byte) : (s.writeRaw pa bs).waves = s.waves := rfl
@[simp] theorem State.writeRaw_clusters (s : State) (pa : Nat) (bs : List Byte) : (s.writeRaw pa bs).clusters = s.clusters := rfl
@[simp] theorem State.writeRaw_cmds (s : State) (pa : Nat) (bs : List Byte) : (s.writeRaw pa bs).cmds = s.cmds := rfl
@[simp] theorem State.writeRaw_grants (s : State) (pa : Nat) (bs : List Byte) : (s.writeRaw pa bs).grants = s.grants := rfl
@[simp] theorem State.writeRaw_launches (s : State) (pa : Nat) (bs : List Byte) : (s.writeRaw pa bs).launches = s.launches := rfl
@[simp] theorem State.writeRaw_qtab (s : State) (pa : Nat) (bs : List Byte) : (s.writeRaw pa bs).qtab = s.qtab := rfl
@[simp] theorem State.writeRaw_jobs (s : State) (pa : Nat) (bs : List Byte) : (s.writeRaw pa bs).jobs = s.jobs := rfl
@[simp] theorem State.writeRaw_insts (s : State) (pa : Nat) (bs : List Byte) : (s.writeRaw pa bs).insts = s.insts := rfl
@[simp] theorem State.writeRaw_pool (s : State) (pa : Nat) (bs : List Byte) : (s.writeRaw pa bs).pool = s.pool := rfl
@[simp] theorem State.writeRaw_poolNext (s : State) (pa : Nat) (bs : List Byte) : (s.writeRaw pa bs).poolNext = s.poolNext := rfl
@[simp] theorem State.writeRaw_irqs (s : State) (pa : Nat) (bs : List Byte) : (s.writeRaw pa bs).irqs = s.irqs := rfl
@[simp] theorem State.writeRaw_undecided (s : State) (pa : Nat) (bs : List Byte) : (s.writeRaw pa bs).undecided = s.undecided := rfl
@[simp] theorem State.writeRaw_ttDown (s : State) (pa : Nat) (bs : List Byte) : (s.writeRaw pa bs).ttDown = s.ttDown := rfl
@[simp] theorem State.writeRaw_ttSince (s : State) (pa : Nat) (bs : List Byte) : (s.writeRaw pa bs).ttSince = s.ttSince := rfl
@[simp] theorem State.writeRaw_parts (s : State) (pa : Nat) (bs : List Byte) : (s.writeRaw pa bs).parts = s.parts := rfl
@[simp] theorem State.writeRaw_classes (s : State) (pa : Nat) (bs : List Byte) : (s.writeRaw pa bs).classes = s.classes := rfl
@[simp] theorem State.writeRaw_clock (s : State) (pa : Nat) (bs : List Byte) : (s.writeRaw pa bs).clock = s.clock := rfl
@[simp] theorem State.writeRaw_streams (s : State) (pa : Nat) (bs : List Byte) : (s.writeRaw pa bs).streams = s.streams := rfl
@[simp] theorem State.writeRaw_regs (s : State) (pa : Nat) (bs : List Byte) : (s.writeRaw pa bs).regs = s.regs := rfl
@[simp] theorem State.writeRaw_granted (s : State) (pa : Nat) (bs : List Byte) : (s.writeRaw pa bs).granted = s.granted := rfl
@[simp] theorem State.writeRaw_regStats (s : State) (pa : Nat) (bs : List Byte) : (s.writeRaw pa bs).regStats = s.regStats := rfl
@[simp] theorem State.writeRaw_pcie (s : State) (pa : Nat) (bs : List Byte) : (s.writeRaw pa bs).pcie = s.pcie := rfl
@[simp] theorem State.writeRaw_frames (s : State) (pa : Nat) (bs : List Byte) : (s.writeRaw pa bs).frames = s.frames := rfl
@[simp] theorem State.writeRaw_cores (s : State) (pa : Nat) (bs : List Byte) : (s.writeRaw pa bs).cores = s.cores := rfl
@[simp] theorem State.writeRaw_appLast (s : State) (pa : Nat) (bs : List Byte) : (s.writeRaw pa bs).appLast = s.appLast := rfl
@[simp] theorem State.writeRaw_appOk (s : State) (pa : Nat) (bs : List Byte) : (s.writeRaw pa bs).appOk = s.appOk := rfl
@[simp] theorem State.writeRaw_domains (s : State) (pa : Nat) (bs : List Byte) : (s.writeRaw pa bs).domains = s.domains := rfl
@[simp] theorem State.writeRaw_ckPend (s : State) (pa : Nat) (bs : List Byte) : (s.writeRaw pa bs).ckPend = s.ckPend := rfl
@[simp] theorem State.writeRaw_ckBuf (s : State) (pa : Nat) (bs : List Byte) : (s.writeRaw pa bs).ckBuf = s.ckBuf := rfl
@[simp] theorem State.writeRaw_outTx (s : State) (pa : Nat) (bs : List Byte) : (s.writeRaw pa bs).outTx = s.outTx := rfl
@[simp] theorem State.writeRaw_lanes (s : State) (pa : Nat) (bs : List Byte) : (s.writeRaw pa bs).lanes = s.lanes := rfl
@[simp] theorem State.writeRaw_links (s : State) (pa : Nat) (bs : List Byte) : (s.writeRaw pa bs).links = s.links := rfl
@[simp] theorem State.writeRaw_proctor (s : State) (pa : Nat) (bs : List Byte) : (s.writeRaw pa bs).proctor = s.proctor := rfl
@[simp] theorem State.writeRaw_capacity (s : State) (pa : Nat) (bs : List Byte) : (s.writeRaw pa bs).capacity = s.capacity := rfl
@[simp] theorem State.writeRaw_agenda (s : State) (pa : Nat) (bs : List Byte) : (s.writeRaw pa bs).agenda = s.agenda := rfl
@[simp] theorem State.writeRaw_cur (s : State) (pa : Nat) (bs : List Byte) : (s.writeRaw pa bs).cur = s.cur := rfl
@[simp] theorem State.writeRaw_faulty (s : State) (pa : Nat) (bs : List Byte) : (s.writeRaw pa bs).faulty = s.faulty := rfl
@[simp] theorem State.writeRaw_upset (s : State) (pa : Nat) (bs : List Byte) : (s.writeRaw pa bs).upset = s.upset := rfl
@[simp] theorem State.writeRaw_issues (s : State) (pa : Nat) (bs : List Byte) : (s.writeRaw pa bs).issues = s.issues := rfl
@[simp] theorem State.writeRaw_freeCtr (s : State) (pa : Nat) (bs : List Byte) : (s.writeRaw pa bs).freeCtr = s.freeCtr := rfl

/-! ## setProctor -/

@[simp] theorem State.setProctor_mem (s : State) (f : Proctor → Proctor) : (s.setProctor f).mem = s.mem := rfl
@[simp] theorem State.setProctor_poison (s : State) (f : Proctor → Proctor) : (s.setProctor f).poison = s.poison := rfl
@[simp] theorem State.setProctor_dirty (s : State) (f : Proctor → Proctor) : (s.setProctor f).dirty = s.dirty := rfl
@[simp] theorem State.setProctor_copies (s : State) (f : Proctor → Proctor) : (s.setProctor f).copies = s.copies := rfl
@[simp] theorem State.setProctor_tokens (s : State) (f : Proctor → Proctor) : (s.setProctor f).tokens = s.tokens := rfl
@[simp] theorem State.setProctor_gens (s : State) (f : Proctor → Proctor) : (s.setProctor f).gens = s.gens := rfl
@[simp] theorem State.setProctor_tokMsgs (s : State) (f : Proctor → Proctor) : (s.setProctor f).tokMsgs = s.tokMsgs := rfl
@[simp] theorem State.setProctor_tokReqs (s : State) (f : Proctor → Proctor) : (s.setProctor f).tokReqs = s.tokReqs := rfl
@[simp] theorem State.setProctor_l1 (s : State) (f : Proctor → Proctor) : (s.setProctor f).l1 = s.l1 := rfl
@[simp] theorem State.setProctor_tlb (s : State) (f : Proctor → Proctor) : (s.setProctor f).tlb = s.tlb := rfl
@[simp] theorem State.setProctor_walks (s : State) (f : Proctor → Proctor) : (s.setProctor f).walks = s.walks := rfl
@[simp] theorem State.setProctor_sys (s : State) (f : Proctor → Proctor) : (s.setProctor f).sys = s.sys := rfl
@[simp] theorem State.setProctor_left (s : State) (f : Proctor → Proctor) : (s.setProctor f).left = s.left := rfl
@[simp] theorem State.setProctor_ckSeen (s : State) (f : Proctor → Proctor) : (s.setProctor f).ckSeen = s.ckSeen := rfl
@[simp] theorem State.setProctor_waves (s : State) (f : Proctor → Proctor) : (s.setProctor f).waves = s.waves := rfl
@[simp] theorem State.setProctor_clusters (s : State) (f : Proctor → Proctor) : (s.setProctor f).clusters = s.clusters := rfl
@[simp] theorem State.setProctor_cmds (s : State) (f : Proctor → Proctor) : (s.setProctor f).cmds = s.cmds := rfl
@[simp] theorem State.setProctor_grants (s : State) (f : Proctor → Proctor) : (s.setProctor f).grants = s.grants := rfl
@[simp] theorem State.setProctor_launches (s : State) (f : Proctor → Proctor) : (s.setProctor f).launches = s.launches := rfl
@[simp] theorem State.setProctor_qtab (s : State) (f : Proctor → Proctor) : (s.setProctor f).qtab = s.qtab := rfl
@[simp] theorem State.setProctor_jobs (s : State) (f : Proctor → Proctor) : (s.setProctor f).jobs = s.jobs := rfl
@[simp] theorem State.setProctor_insts (s : State) (f : Proctor → Proctor) : (s.setProctor f).insts = s.insts := rfl
@[simp] theorem State.setProctor_pool (s : State) (f : Proctor → Proctor) : (s.setProctor f).pool = s.pool := rfl
@[simp] theorem State.setProctor_poolNext (s : State) (f : Proctor → Proctor) : (s.setProctor f).poolNext = s.poolNext := rfl
@[simp] theorem State.setProctor_irqs (s : State) (f : Proctor → Proctor) : (s.setProctor f).irqs = s.irqs := rfl
@[simp] theorem State.setProctor_undecided (s : State) (f : Proctor → Proctor) : (s.setProctor f).undecided = s.undecided := rfl
@[simp] theorem State.setProctor_ttDown (s : State) (f : Proctor → Proctor) : (s.setProctor f).ttDown = s.ttDown := rfl
@[simp] theorem State.setProctor_ttSince (s : State) (f : Proctor → Proctor) : (s.setProctor f).ttSince = s.ttSince := rfl
@[simp] theorem State.setProctor_parts (s : State) (f : Proctor → Proctor) : (s.setProctor f).parts = s.parts := rfl
@[simp] theorem State.setProctor_classes (s : State) (f : Proctor → Proctor) : (s.setProctor f).classes = s.classes := rfl
@[simp] theorem State.setProctor_clock (s : State) (f : Proctor → Proctor) : (s.setProctor f).clock = s.clock := rfl
@[simp] theorem State.setProctor_streams (s : State) (f : Proctor → Proctor) : (s.setProctor f).streams = s.streams := rfl
@[simp] theorem State.setProctor_regs (s : State) (f : Proctor → Proctor) : (s.setProctor f).regs = s.regs := rfl
@[simp] theorem State.setProctor_granted (s : State) (f : Proctor → Proctor) : (s.setProctor f).granted = s.granted := rfl
@[simp] theorem State.setProctor_regStats (s : State) (f : Proctor → Proctor) : (s.setProctor f).regStats = s.regStats := rfl
@[simp] theorem State.setProctor_pcie (s : State) (f : Proctor → Proctor) : (s.setProctor f).pcie = s.pcie := rfl
@[simp] theorem State.setProctor_frames (s : State) (f : Proctor → Proctor) : (s.setProctor f).frames = s.frames := rfl
@[simp] theorem State.setProctor_cores (s : State) (f : Proctor → Proctor) : (s.setProctor f).cores = s.cores := rfl
@[simp] theorem State.setProctor_appLast (s : State) (f : Proctor → Proctor) : (s.setProctor f).appLast = s.appLast := rfl
@[simp] theorem State.setProctor_appOk (s : State) (f : Proctor → Proctor) : (s.setProctor f).appOk = s.appOk := rfl
@[simp] theorem State.setProctor_domains (s : State) (f : Proctor → Proctor) : (s.setProctor f).domains = s.domains := rfl
@[simp] theorem State.setProctor_ckPend (s : State) (f : Proctor → Proctor) : (s.setProctor f).ckPend = s.ckPend := rfl
@[simp] theorem State.setProctor_ckBuf (s : State) (f : Proctor → Proctor) : (s.setProctor f).ckBuf = s.ckBuf := rfl
@[simp] theorem State.setProctor_outTx (s : State) (f : Proctor → Proctor) : (s.setProctor f).outTx = s.outTx := rfl
@[simp] theorem State.setProctor_lanes (s : State) (f : Proctor → Proctor) : (s.setProctor f).lanes = s.lanes := rfl
@[simp] theorem State.setProctor_links (s : State) (f : Proctor → Proctor) : (s.setProctor f).links = s.links := rfl
@[simp] theorem State.setProctor_proctor (s : State) (f : Proctor → Proctor) : (s.setProctor f).proctor = f s.proctor := rfl
@[simp] theorem State.setProctor_capacity (s : State) (f : Proctor → Proctor) : (s.setProctor f).capacity = s.capacity := rfl
@[simp] theorem State.setProctor_agenda (s : State) (f : Proctor → Proctor) : (s.setProctor f).agenda = s.agenda := rfl
@[simp] theorem State.setProctor_cur (s : State) (f : Proctor → Proctor) : (s.setProctor f).cur = s.cur := rfl
@[simp] theorem State.setProctor_faulty (s : State) (f : Proctor → Proctor) : (s.setProctor f).faulty = s.faulty := rfl
@[simp] theorem State.setProctor_upset (s : State) (f : Proctor → Proctor) : (s.setProctor f).upset = s.upset := rfl
@[simp] theorem State.setProctor_issues (s : State) (f : Proctor → Proctor) : (s.setProctor f).issues = s.issues := rfl
@[simp] theorem State.setProctor_freeCtr (s : State) (f : Proctor → Proctor) : (s.setProctor f).freeCtr = s.freeCtr := rfl

/-! ## setStream -/

@[simp] theorem State.setStream_mem (s : State) (p : Nat) (f : Stream → Stream) : (s.setStream p f).mem = s.mem := rfl
@[simp] theorem State.setStream_poison (s : State) (p : Nat) (f : Stream → Stream) : (s.setStream p f).poison = s.poison := rfl
@[simp] theorem State.setStream_dirty (s : State) (p : Nat) (f : Stream → Stream) : (s.setStream p f).dirty = s.dirty := rfl
@[simp] theorem State.setStream_copies (s : State) (p : Nat) (f : Stream → Stream) : (s.setStream p f).copies = s.copies := rfl
@[simp] theorem State.setStream_tokens (s : State) (p : Nat) (f : Stream → Stream) : (s.setStream p f).tokens = s.tokens := rfl
@[simp] theorem State.setStream_gens (s : State) (p : Nat) (f : Stream → Stream) : (s.setStream p f).gens = s.gens := rfl
@[simp] theorem State.setStream_tokMsgs (s : State) (p : Nat) (f : Stream → Stream) : (s.setStream p f).tokMsgs = s.tokMsgs := rfl
@[simp] theorem State.setStream_tokReqs (s : State) (p : Nat) (f : Stream → Stream) : (s.setStream p f).tokReqs = s.tokReqs := rfl
@[simp] theorem State.setStream_l1 (s : State) (p : Nat) (f : Stream → Stream) : (s.setStream p f).l1 = s.l1 := rfl
@[simp] theorem State.setStream_tlb (s : State) (p : Nat) (f : Stream → Stream) : (s.setStream p f).tlb = s.tlb := rfl
@[simp] theorem State.setStream_walks (s : State) (p : Nat) (f : Stream → Stream) : (s.setStream p f).walks = s.walks := rfl
@[simp] theorem State.setStream_sys (s : State) (p : Nat) (f : Stream → Stream) : (s.setStream p f).sys = s.sys := rfl
@[simp] theorem State.setStream_left (s : State) (p : Nat) (f : Stream → Stream) : (s.setStream p f).left = s.left := rfl
@[simp] theorem State.setStream_ckSeen (s : State) (p : Nat) (f : Stream → Stream) : (s.setStream p f).ckSeen = s.ckSeen := rfl
@[simp] theorem State.setStream_waves (s : State) (p : Nat) (f : Stream → Stream) : (s.setStream p f).waves = s.waves := rfl
@[simp] theorem State.setStream_clusters (s : State) (p : Nat) (f : Stream → Stream) : (s.setStream p f).clusters = s.clusters := rfl
@[simp] theorem State.setStream_cmds (s : State) (p : Nat) (f : Stream → Stream) : (s.setStream p f).cmds = s.cmds := rfl
@[simp] theorem State.setStream_grants (s : State) (p : Nat) (f : Stream → Stream) : (s.setStream p f).grants = s.grants := rfl
@[simp] theorem State.setStream_launches (s : State) (p : Nat) (f : Stream → Stream) : (s.setStream p f).launches = s.launches := rfl
@[simp] theorem State.setStream_qtab (s : State) (p : Nat) (f : Stream → Stream) : (s.setStream p f).qtab = s.qtab := rfl
@[simp] theorem State.setStream_jobs (s : State) (p : Nat) (f : Stream → Stream) : (s.setStream p f).jobs = s.jobs := rfl
@[simp] theorem State.setStream_insts (s : State) (p : Nat) (f : Stream → Stream) : (s.setStream p f).insts = s.insts := rfl
@[simp] theorem State.setStream_pool (s : State) (p : Nat) (f : Stream → Stream) : (s.setStream p f).pool = s.pool := rfl
@[simp] theorem State.setStream_poolNext (s : State) (p : Nat) (f : Stream → Stream) : (s.setStream p f).poolNext = s.poolNext := rfl
@[simp] theorem State.setStream_irqs (s : State) (p : Nat) (f : Stream → Stream) : (s.setStream p f).irqs = s.irqs := rfl
@[simp] theorem State.setStream_undecided (s : State) (p : Nat) (f : Stream → Stream) : (s.setStream p f).undecided = s.undecided := rfl
@[simp] theorem State.setStream_ttDown (s : State) (p : Nat) (f : Stream → Stream) : (s.setStream p f).ttDown = s.ttDown := rfl
@[simp] theorem State.setStream_ttSince (s : State) (p : Nat) (f : Stream → Stream) : (s.setStream p f).ttSince = s.ttSince := rfl
@[simp] theorem State.setStream_parts (s : State) (p : Nat) (f : Stream → Stream) : (s.setStream p f).parts = s.parts := rfl
@[simp] theorem State.setStream_classes (s : State) (p : Nat) (f : Stream → Stream) : (s.setStream p f).classes = s.classes := rfl
@[simp] theorem State.setStream_clock (s : State) (p : Nat) (f : Stream → Stream) : (s.setStream p f).clock = s.clock := rfl
@[simp] theorem State.setStream_streams (s : State) (p : Nat) (f : Stream → Stream) : (s.setStream p f).streams = s.streams.modify p f := rfl
@[simp] theorem State.setStream_regs (s : State) (p : Nat) (f : Stream → Stream) : (s.setStream p f).regs = s.regs := rfl
@[simp] theorem State.setStream_granted (s : State) (p : Nat) (f : Stream → Stream) : (s.setStream p f).granted = s.granted := rfl
@[simp] theorem State.setStream_regStats (s : State) (p : Nat) (f : Stream → Stream) : (s.setStream p f).regStats = s.regStats := rfl
@[simp] theorem State.setStream_pcie (s : State) (p : Nat) (f : Stream → Stream) : (s.setStream p f).pcie = s.pcie := rfl
@[simp] theorem State.setStream_frames (s : State) (p : Nat) (f : Stream → Stream) : (s.setStream p f).frames = s.frames := rfl
@[simp] theorem State.setStream_cores (s : State) (p : Nat) (f : Stream → Stream) : (s.setStream p f).cores = s.cores := rfl
@[simp] theorem State.setStream_appLast (s : State) (p : Nat) (f : Stream → Stream) : (s.setStream p f).appLast = s.appLast := rfl
@[simp] theorem State.setStream_appOk (s : State) (p : Nat) (f : Stream → Stream) : (s.setStream p f).appOk = s.appOk := rfl
@[simp] theorem State.setStream_domains (s : State) (p : Nat) (f : Stream → Stream) : (s.setStream p f).domains = s.domains := rfl
@[simp] theorem State.setStream_ckPend (s : State) (p : Nat) (f : Stream → Stream) : (s.setStream p f).ckPend = s.ckPend := rfl
@[simp] theorem State.setStream_ckBuf (s : State) (p : Nat) (f : Stream → Stream) : (s.setStream p f).ckBuf = s.ckBuf := rfl
@[simp] theorem State.setStream_outTx (s : State) (p : Nat) (f : Stream → Stream) : (s.setStream p f).outTx = s.outTx := rfl
@[simp] theorem State.setStream_lanes (s : State) (p : Nat) (f : Stream → Stream) : (s.setStream p f).lanes = s.lanes := rfl
@[simp] theorem State.setStream_links (s : State) (p : Nat) (f : Stream → Stream) : (s.setStream p f).links = s.links := rfl
@[simp] theorem State.setStream_proctor (s : State) (p : Nat) (f : Stream → Stream) : (s.setStream p f).proctor = s.proctor := rfl
@[simp] theorem State.setStream_capacity (s : State) (p : Nat) (f : Stream → Stream) : (s.setStream p f).capacity = s.capacity := rfl
@[simp] theorem State.setStream_agenda (s : State) (p : Nat) (f : Stream → Stream) : (s.setStream p f).agenda = s.agenda := rfl
@[simp] theorem State.setStream_cur (s : State) (p : Nat) (f : Stream → Stream) : (s.setStream p f).cur = s.cur := rfl
@[simp] theorem State.setStream_faulty (s : State) (p : Nat) (f : Stream → Stream) : (s.setStream p f).faulty = s.faulty := rfl
@[simp] theorem State.setStream_upset (s : State) (p : Nat) (f : Stream → Stream) : (s.setStream p f).upset = s.upset := rfl
@[simp] theorem State.setStream_issues (s : State) (p : Nat) (f : Stream → Stream) : (s.setStream p f).issues = s.issues := rfl
@[simp] theorem State.setStream_freeCtr (s : State) (p : Nat) (f : Stream → Stream) : (s.setStream p f).freeCtr = s.freeCtr := rfl

/-! ## journal -/

@[simp] theorem State.journal_mem (s : State) (p a k pl t : Nat) : (s.journal p a k pl t).mem = s.mem := rfl
@[simp] theorem State.journal_poison (s : State) (p a k pl t : Nat) : (s.journal p a k pl t).poison = s.poison := rfl
@[simp] theorem State.journal_dirty (s : State) (p a k pl t : Nat) : (s.journal p a k pl t).dirty = s.dirty := rfl
@[simp] theorem State.journal_copies (s : State) (p a k pl t : Nat) : (s.journal p a k pl t).copies = s.copies := rfl
@[simp] theorem State.journal_tokens (s : State) (p a k pl t : Nat) : (s.journal p a k pl t).tokens = s.tokens := rfl
@[simp] theorem State.journal_gens (s : State) (p a k pl t : Nat) : (s.journal p a k pl t).gens = s.gens := rfl
@[simp] theorem State.journal_tokMsgs (s : State) (p a k pl t : Nat) : (s.journal p a k pl t).tokMsgs = s.tokMsgs := rfl
@[simp] theorem State.journal_tokReqs (s : State) (p a k pl t : Nat) : (s.journal p a k pl t).tokReqs = s.tokReqs := rfl
@[simp] theorem State.journal_l1 (s : State) (p a k pl t : Nat) : (s.journal p a k pl t).l1 = s.l1 := rfl
@[simp] theorem State.journal_tlb (s : State) (p a k pl t : Nat) : (s.journal p a k pl t).tlb = s.tlb := rfl
@[simp] theorem State.journal_walks (s : State) (p a k pl t : Nat) : (s.journal p a k pl t).walks = s.walks := rfl
@[simp] theorem State.journal_sys (s : State) (p a k pl t : Nat) : (s.journal p a k pl t).sys = s.sys := rfl
@[simp] theorem State.journal_left (s : State) (p a k pl t : Nat) : (s.journal p a k pl t).left = s.left := rfl
@[simp] theorem State.journal_ckSeen (s : State) (p a k pl t : Nat) : (s.journal p a k pl t).ckSeen = s.ckSeen := rfl
@[simp] theorem State.journal_waves (s : State) (p a k pl t : Nat) : (s.journal p a k pl t).waves = s.waves := rfl
@[simp] theorem State.journal_clusters (s : State) (p a k pl t : Nat) : (s.journal p a k pl t).clusters = s.clusters := rfl
@[simp] theorem State.journal_cmds (s : State) (p a k pl t : Nat) : (s.journal p a k pl t).cmds = s.cmds := rfl
@[simp] theorem State.journal_grants (s : State) (p a k pl t : Nat) : (s.journal p a k pl t).grants = s.grants := rfl
@[simp] theorem State.journal_launches (s : State) (p a k pl t : Nat) : (s.journal p a k pl t).launches = s.launches := rfl
@[simp] theorem State.journal_qtab (s : State) (p a k pl t : Nat) : (s.journal p a k pl t).qtab = s.qtab := rfl
@[simp] theorem State.journal_jobs (s : State) (p a k pl t : Nat) : (s.journal p a k pl t).jobs = s.jobs := rfl
@[simp] theorem State.journal_insts (s : State) (p a k pl t : Nat) : (s.journal p a k pl t).insts = s.insts := rfl
@[simp] theorem State.journal_pool (s : State) (p a k pl t : Nat) : (s.journal p a k pl t).pool = s.pool := rfl
@[simp] theorem State.journal_poolNext (s : State) (p a k pl t : Nat) : (s.journal p a k pl t).poolNext = s.poolNext := rfl
@[simp] theorem State.journal_irqs (s : State) (p a k pl t : Nat) : (s.journal p a k pl t).irqs = s.irqs := rfl
@[simp] theorem State.journal_undecided (s : State) (p a k pl t : Nat) : (s.journal p a k pl t).undecided = s.undecided := rfl
@[simp] theorem State.journal_ttDown (s : State) (p a k pl t : Nat) : (s.journal p a k pl t).ttDown = s.ttDown := rfl
@[simp] theorem State.journal_ttSince (s : State) (p a k pl t : Nat) : (s.journal p a k pl t).ttSince = s.ttSince := rfl
@[simp] theorem State.journal_parts (s : State) (p a k pl t : Nat) : (s.journal p a k pl t).parts = s.parts.modify p fun x => { x with jq := x.jq ++ [{ time := t, agent := a, kind := k, payload := BitVec.ofNat 896 pl }] } := rfl
@[simp] theorem State.journal_classes (s : State) (p a k pl t : Nat) : (s.journal p a k pl t).classes = s.classes := rfl
@[simp] theorem State.journal_clock (s : State) (p a k pl t : Nat) : (s.journal p a k pl t).clock = s.clock := rfl
@[simp] theorem State.journal_streams (s : State) (p a k pl t : Nat) : (s.journal p a k pl t).streams = s.streams := rfl
@[simp] theorem State.journal_regs (s : State) (p a k pl t : Nat) : (s.journal p a k pl t).regs = s.regs := rfl
@[simp] theorem State.journal_granted (s : State) (p a k pl t : Nat) : (s.journal p a k pl t).granted = s.granted := rfl
@[simp] theorem State.journal_regStats (s : State) (p a k pl t : Nat) : (s.journal p a k pl t).regStats = s.regStats := rfl
@[simp] theorem State.journal_pcie (s : State) (p a k pl t : Nat) : (s.journal p a k pl t).pcie = s.pcie := rfl
@[simp] theorem State.journal_frames (s : State) (p a k pl t : Nat) : (s.journal p a k pl t).frames = s.frames := rfl
@[simp] theorem State.journal_cores (s : State) (p a k pl t : Nat) : (s.journal p a k pl t).cores = s.cores := rfl
@[simp] theorem State.journal_appLast (s : State) (p a k pl t : Nat) : (s.journal p a k pl t).appLast = s.appLast := rfl
@[simp] theorem State.journal_appOk (s : State) (p a k pl t : Nat) : (s.journal p a k pl t).appOk = s.appOk := rfl
@[simp] theorem State.journal_domains (s : State) (p a k pl t : Nat) : (s.journal p a k pl t).domains = s.domains := rfl
@[simp] theorem State.journal_ckPend (s : State) (p a k pl t : Nat) : (s.journal p a k pl t).ckPend = s.ckPend := rfl
@[simp] theorem State.journal_ckBuf (s : State) (p a k pl t : Nat) : (s.journal p a k pl t).ckBuf = s.ckBuf := rfl
@[simp] theorem State.journal_outTx (s : State) (p a k pl t : Nat) : (s.journal p a k pl t).outTx = s.outTx := rfl
@[simp] theorem State.journal_lanes (s : State) (p a k pl t : Nat) : (s.journal p a k pl t).lanes = s.lanes := rfl
@[simp] theorem State.journal_links (s : State) (p a k pl t : Nat) : (s.journal p a k pl t).links = s.links := rfl
@[simp] theorem State.journal_proctor (s : State) (p a k pl t : Nat) : (s.journal p a k pl t).proctor = s.proctor := rfl
@[simp] theorem State.journal_capacity (s : State) (p a k pl t : Nat) : (s.journal p a k pl t).capacity = s.capacity := rfl
@[simp] theorem State.journal_agenda (s : State) (p a k pl t : Nat) : (s.journal p a k pl t).agenda = s.agenda := rfl
@[simp] theorem State.journal_cur (s : State) (p a k pl t : Nat) : (s.journal p a k pl t).cur = s.cur := rfl
@[simp] theorem State.journal_faulty (s : State) (p a k pl t : Nat) : (s.journal p a k pl t).faulty = s.faulty := rfl
@[simp] theorem State.journal_upset (s : State) (p a k pl t : Nat) : (s.journal p a k pl t).upset = s.upset := rfl
@[simp] theorem State.journal_issues (s : State) (p a k pl t : Nat) : (s.journal p a k pl t).issues = s.issues := rfl
@[simp] theorem State.journal_freeCtr (s : State) (p a k pl t : Nat) : (s.journal p a k pl t).freeCtr = s.freeCtr := rfl

end Sys2Proof.Machine
end

