-- ==== Sys2Proof/Laws/Canonical.lean ====
section
/-!
SUPPORT. The operations that write memory keep its canonical form: with these, and the lemmas of Laws/State.lean on the
updates that leave memory alone, no later proof unfolds a write.
-/

namespace Sys2Proof.Machine

/-- Every listed address lies above the first. -/
theorem Memory.wf_above {k : Nat} {b : Byte} {t : List Host.Cell} (h : Memory.wf ((k, b) :: t) = true) : ∀ e ∈ t, k < e.1 := by
  induction t generalizing k b with
  | nil => simp
  | cons c t ih =>
    obtain ⟨-, h1, h2⟩ := Memory.wf_cons.1 h
    have hc : k < c.1 := h1 c rfl
    intro e he
    rcases List.mem_cons.1 he with rfl | he
    · exact hc
    · exact Nat.lt_trans hc (ih h2 e he)

/-- Dropping cells keeps the form. -/
theorem Memory.wf_filter {m : List Host.Cell} (h : Memory.wf m = true) (p : Host.Cell → Bool) : Memory.wf (m.filter p) = true := by
  induction m with
  | nil => rfl
  | cons c m ih =>
    obtain ⟨k, b⟩ := c
    have hs := Memory.wf_cons.1 h
    rw [List.filter_cons]
    split
    · rw [Memory.wf_cons]
      refine ⟨hs.1, fun x hx => ?_, ih hs.2.2⟩
      exact Memory.wf_above h x (List.mem_filter.1 (List.mem_of_mem_head? hx)).1
    · exact ih hs.2.2

theorem State.noteCk_mem (s : State) (p : Nat) (leaf : Word64) (w : Option Nat) (pa n : Nat) :
    (s.noteCk p leaf w pa n).mem = s.mem := by
  unfold State.noteCk
  refine foldl_keeps (fun t : State => t.mem = s.mem) _ ?_ _ rfl
  intro t ln h
  exact (State.seeCk_home t true ln).mem.trans h

theorem State.writeRaw_wf {s : State} (h : Memory.wf s.mem = true) (pa : Nat) (bs : List Byte) :
    Memory.wf (s.writeRaw pa bs).mem = true := Memory.wf_write h pa bs

theorem State.writePA_wf {s : State} (h : Memory.wf s.mem = true) (o : Option Holder) (p : Option Nat) (u : Bool)
    (c : Option Charge) (pa : Nat) (bs : List Byte) : Memory.wf (s.writePA o p u c pa bs).mem = true := by
  rw [State.writePA_mem]
  exact Memory.wf_write h pa bs

theorem State.setDomain_wf {s : State} (h : Memory.wf s.mem = true) (p d : Nat) (f : Domain → Domain) :
    Memory.wf (s.setDomain p d f).mem = true := by
  unfold State.setDomain
  dsimp only
  split
  · exact h
  · rw [State.tallyWrite_mem]
    dsimp only
    exact Memory.wf_write h _ _

theorem State.logOut_wf {s : State} (h : Memory.wf s.mem = true) (p a n kind port : Nat) :
    Memory.wf (s.logOut p a n kind port).mem = true := by
  unfold State.logOut
  split
  · exact h
  · refine iteInduction (motive := fun t : State => Memory.wf t.mem = true) (fun _ => ?_) fun _ => ?_
    · dsimp only; exact h
    · rw [State.tallyWrite_mem, State.writeRaw_mem]
      dsimp only
      exact Memory.wf_write h _ _

theorem State.writeReq_wf {s : State} (h : Memory.wf s.mem = true) (pa : Nat) (b : Byte) :
    Memory.wf (s.writeReq pa b).mem = true := by
  unfold State.writeReq
  split
  · exact h
  · exact iteInduction (motive := fun t : State => Memory.wf t.mem = true) (fun _ => State.setDomain_wf h _ _ _) fun _ => h

/-- A store of any agent. -/
theorem State.storeAt_wf {s : State} (h : Memory.wf s.mem = true) (p : Nat) (o : Option Holder) (c : Option Charge)
    (w : Option Nat) (g : Bool) (leaf : Word64) (pa : Nat) (bs : List Byte) :
    Memory.wf (s.storeAt p o c w g leaf pa bs).mem = true := by
  have hu : Memory.wf (s.unpoison pa bs.length).mem = true := by rwa [State.unpoison_mem]
  unfold State.storeAt
  split
  · split
    · exact State.logOut_wf h _ _ _ _ _
    · exact h
  · split
    · exact State.writeReq_wf h _ _
    · dsimp only
      split
      · apply State.writeRaw_wf
        rw [(State.HomeStep.fold _ (fun t x => (t.breakResv_home x).trans (State.noteThrough_home _ _)) _ _).mem, State.noteCk_mem]
        exact hu
      · split
        · rw [State.writeGranted_mem, (State.HomeStep.fold _ State.breakResv_home _ _).mem]
          exact Memory.wf_write hu _ _
        · exact State.writePA_wf hu _ _ _ _ _ _

/-- A write of a DMA agent or engine that does not fault. -/
theorem State.writeVA_wf {s t : State} {p va : Nat} {ag : List Nat} {core : Bool} {o : Option Holder}
    {c : Option Charge} {bs : List Byte} (h : Memory.wf s.mem = true) (e : s.writeVA p ag core o c va bs = .ok t) : Memory.wf t.mem = true := by
  unfold State.writeVA at e
  dsimp only at e
  split at e
  · cases e
  · cases e
    refine foldl_keeps (fun t : State => Memory.wf t.mem = true) _ (fun b x hb => ?_) _ h
    split
    · exact hb
    · exact State.storeAt_wf hb _ _ _ _ _ _ _ _

/-- A line put back from an undo copy. -/
theorem State.putBack_wf {s : State} (h : Memory.wf s.mem = true) (ln : Nat) (d : Line) :
    Memory.wf (s.putBack ln d).mem = true := by
  have e : (s.putBack ln d).mem = Memory.putLine s.mem ln d := by unfold State.putBack; dsimp only
  rw [e]
  exact Memory.wf_putLine h ln d

theorem State.dropPending_wf {s : State} (h : Memory.wf s.mem = true) (p : CkWrite → Bool) :
    Memory.wf (s.dropPending p).mem = true := by
  unfold State.dropPending
  exact foldl_keeps (fun t : State => Memory.wf t.mem = true) _ (fun _ _ hb => State.putBack_wf hb _ _) _ h

theorem State.applyUndo_wf {s : State} (h : Memory.wf s.mem = true) (us : List (Nat × Line)) :
    Memory.wf (s.applyUndo us).mem = true := by
  unfold State.applyUndo
  refine foldl_keeps (fun t : State => Memory.wf t.mem = true) _ (fun b u hb => ?_) _ h
  rw [State.tallyWrite_mem]
  exact State.putBack_wf hb _ _

/-- The cluster gives up a line. -/
theorem State.discardLine_wf {s : State} (h : Memory.wf s.mem = true) (c n ln : Nat) :
    Memory.wf (s.discardLine c n ln).mem = true := by
  unfold State.discardLine
  dsimp only
  rw [State.evictLine_mem]
  split
  · exact h
  · dsimp only
    exact Memory.wf_putLine h _ _

/-- A line whose tokens are lost. -/
theorem State.lostLine_wf {s : State} (h : Memory.wf s.mem = true) (ln : Nat) (o : Holder) :
    Memory.wf (s.lostLine ln o).mem = true := by
  cases e : s.dirty.find? fun d => d.line == ln with
  | none =>
    have e2 : (s.lostLine ln o).mem = s.mem := by unfold State.lostLine; rw [e]
    rwa [e2]
  | some d =>
    have e2 : (s.lostLine ln o).mem = Memory.putLine s.mem ln d.home := by unfold State.lostLine; rw [e]
    rw [e2]
    exact Memory.wf_putLine h ln _

/-- Private memory read as zero. -/
theorem State.zeroPrivate_wf {s : State} (h : Memory.wf s.mem = true) (part base n : Nat) :
    Memory.wf (s.zeroPrivate part base n).mem = true := by
  unfold State.zeroPrivate
  refine foldl_keeps (fun t : State => Memory.wf t.mem = true) _ (fun b x hb => ?_) _ h
  split
  · exact Memory.wf_filter hb _
  · exact hb

/-- An entry appended to a ring. -/
theorem State.append_wf {s t : State} {p hdr : Nat} {e : List Byte} (h : Memory.wf s.mem = true)
    (ha : s.append p hdr e = .done t) : Memory.wf t.mem = true := by
  unfold State.append at ha
  split at ha
  · cases ha
  · split at ha
    · cases ha
    · split at ha
      · cases ha
      · split at ha
        · cases ha
        · rename_i s1 h1
          split at ha
          · cases ha
          · rename_i s2 h2
            cases ha
            exact State.writeVA_wf (State.writeVA_wf h h1) h2

end Sys2Proof.Machine
end

