-- ==== Sys2Proof/Laws/Registers.lean ====
section
/-!
SUPPORT. What the shared operations over registers and the issuing fragment can do: one lemma per operation.
-/

namespace Sys2Proof.Machine

/-! ## Lists and lanes -/

/-- Looking up a key that a filter on another key keeps. -/
theorem lookup_filter_ne {α : Type} (l : List (Nat × α)) {k n : Nat} (h : n ≠ k) :
    (l.filter fun e => e.1 != k).lookup n = l.lookup n := by
  induction l with
  | nil => rfl
  | cons e l ih =>
    by_cases hk : e.1 = k
    · rw [List.filter_cons_of_neg (by simpa using hk), ih, List.lookup_cons,
        show (n == e.1) = false by simpa [hk] using h]
    · rw [List.filter_cons_of_pos (by simpa using hk), List.lookup_cons, List.lookup_cons, ih]

/-- Looking up after a key has been set. -/
theorem lookup_assocSet {α : Type} (l : List (Nat × α)) (k n : Nat) (v : α) :
    (assocSet l k v).lookup n = if n = k then some v else l.lookup n := by
  unfold assocSet
  by_cases h : n = k
  · simp [h]
  · rw [if_neg h, List.lookup_cons, show (n == k) = false by simpa using h]
    exact lookup_filter_ne l h

/-- Looking up after a key has been removed. -/
theorem lookup_assocDel {α : Type} (l : List (Nat × α)) (k n : Nat) :
    (assocDel l k).lookup n = if n = k then none else l.lookup n := by
  unfold assocDel
  induction l with
  | nil => simp
  | cons e l ih =>
    by_cases hk : e.1 = k
    · rw [List.filter_cons_of_neg (by simpa using hk), ih]
      by_cases h : n = k
      · rw [if_pos h, if_pos h]
      · rw [if_neg h, if_neg h, List.lookup_cons, show (n == e.1) = false by simpa [hk] using h]
    · rw [List.filter_cons_of_pos (by simpa using hk), List.lookup_cons, List.lookup_cons, ih]
      by_cases h : n = k
      · subst h
        rw [show (n == e.1) = false by simpa using fun c => hk c.symm]
      · simp [h]

/-- Lane i of the vector made of f. -/
theorem laneAt_lanesFn (f : Nat → Word32) (i : Nat) (h : i < 32) : laneAt (lanesFn f) i = f i := by
  simp only [laneAt, lanesFn, List.getD_eq_getElem?_getD]
  rw [List.getElem?_eq_getElem (by simpa using h)]
  simp

/-- The lanes of a mask. -/
theorem mem_lanesOf (m : Word32) (i : Nat) : i ∈ lanesOf m ↔ i < 32 ∧ m.getLsbD i = true := by
  simp [lanesOf]

/-! ## Fragments of a wave -/

@[simp] theorem Wave.frag_setFrag (v : Wave) (slot : Nat) (f : Option Frag) : (v.setFrag slot f).frag slot = f := by
  by_cases h : slot = 0 <;> simp [Wave.setFrag, Wave.frag, h]

/-- Setting one fragment leaves the other. -/
theorem Wave.frag_setFrag_mate (v : Wave) (slot : Nat) (f : Option Frag) :
    (v.setFrag slot f).frag (1 - slot) = v.frag (1 - slot) := by
  match slot with
  | 0 => rfl
  | 1 => rfl
  | n + 2 => simp [Wave.setFrag, Wave.frag, show 1 - (n + 2) = 0 by omega]

@[simp] theorem Wave.vregs_setFrag (v : Wave) (slot : Nat) (f : Option Frag) : (v.setFrag slot f).vregs = v.vregs := by
  unfold Wave.setFrag; split <;> rfl
@[simp] theorem Wave.sregs_setFrag (v : Wave) (slot : Nat) (f : Option Frag) : (v.setFrag slot f).sregs = v.sregs := by
  unfold Wave.setFrag; split <;> rfl
@[simp] theorem Wave.masks_setFrag (v : Wave) (slot : Nat) (f : Option Frag) : (v.setFrag slot f).masks = v.masks := by
  unfold Wave.setFrag; split <;> rfl
@[simp] theorem Wave.pend_setFrag (v : Wave) (slot : Nat) (f : Option Frag) : (v.setFrag slot f).pend = v.pend := by
  unfold Wave.setFrag; split <;> rfl
@[simp] theorem Wave.fpflags_setFrag (v : Wave) (slot : Nat) (f : Option Frag) :
    (v.setFrag slot f).fpflags = v.fpflags := by unfold Wave.setFrag; split <;> rfl

/-- Setting a fragment changes the fragments alone. -/
theorem Wave.setFrag_rest (v : Wave) (slot : Nat) (f : Option Frag) :
    v.setFrag slot f = { v with frag0 := (v.setFrag slot f).frag0, frag1 := (v.setFrag slot f).frag1 } := by
  unfold Wave.setFrag; split <;> rfl

/-! ## Writing registers -/

/-- A write under an empty mask does nothing (R28). -/
theorem Wave.vput_zero (v : Wave) (n : Nat) (m : Word32) (f : Nat → Word32) (h : m = 0) : v.vput n m f = v := if_pos h
/-- A write under a mask that is not empty sets the name. -/
theorem Wave.vput_pos (v : Wave) (n : Nat) (m : Word32) (f : Nat → Word32) (h : m ≠ 0) :
    v.vput n m f =
      { v with vregs := assocSet v.vregs n
                 { (v.vget n) with val := lanesFn fun i => if m.getLsbD i then f i else laneAt (v.vget n).val i } } :=
  if_neg h
/-- Marking no lane does nothing. -/
theorem Wave.vmark_zero (v : Wave) (n : Nat) (m : Word32) (h : m = 0) : v.vmark n m = v := if_pos h
/-- Marking lanes sets the name. -/
theorem Wave.vmark_pos (v : Wave) (n : Nat) (m : Word32) (h : m ≠ 0) :
    v.vmark n m = { v with vregs := assocSet v.vregs n { (v.vget n) with empty := (v.vget n).empty ||| m } } := if_neg h

/-- The vector names after a write: the written lanes of n hold f, nothing empties or fills, the other names stay. -/
theorem Wave.vget_vput (v : Wave) (n : Nat) (m : Word32) (f : Nat → Word32) (x : Nat) :
    (v.vput n m f).vget x =
      if x = n ∧ m ≠ 0 then
        { (v.vget n) with val := lanesFn fun i => if m.getLsbD i then f i else laneAt (v.vget n).val i }
      else v.vget x := by
  by_cases hm : m = 0
  · rw [Wave.vput_zero _ _ _ _ hm, if_neg (fun h => h.2 hm)]
  · rw [Wave.vput_pos _ _ _ _ hm, Wave.vget, lookup_assocSet]
    by_cases hx : x = n
    · rw [if_pos hx, if_pos ⟨hx, hm⟩]; rfl
    · rw [if_neg hx, if_neg (fun h => hx h.1)]; rfl

/-- A write of a vector name leaves the mapping of every other. -/
theorem Wave.lookup_vput (v : Wave) (n : Nat) (m : Word32) (f : Nat → Word32) (x : Nat) (h : x ≠ n) :
    (v.vput n m f).vregs.lookup x = v.vregs.lookup x := by
  by_cases hm : m = 0
  · rw [Wave.vput_zero _ _ _ _ hm]
  · rw [Wave.vput_pos _ _ _ _ hm]; simp only [lookup_assocSet, if_neg h]

/-- A write of a vector name changes the vector names alone. -/
theorem Wave.vput_rest (v : Wave) (n : Nat) (m : Word32) (f : Nat → Word32) :
    v.vput n m f = { v with vregs := (v.vput n m f).vregs } := by
  by_cases hm : m = 0
  · rw [Wave.vput_zero _ _ _ _ hm]
  · rw [Wave.vput_pos _ _ _ _ hm]

/-- The vector names after marking lanes empty. -/
theorem Wave.vget_vmark (v : Wave) (n : Nat) (m : Word32) (x : Nat) :
    (v.vmark n m).vget x =
      if x = n ∧ m ≠ 0 then { (v.vget n) with empty := (v.vget n).empty ||| m } else v.vget x := by
  by_cases hm : m = 0
  · rw [Wave.vmark_zero _ _ _ hm, if_neg (fun h => h.2 hm)]
  · rw [Wave.vmark_pos _ _ _ hm, Wave.vget, lookup_assocSet]
    by_cases hx : x = n
    · rw [if_pos hx, if_pos ⟨hx, hm⟩]; rfl
    · rw [if_neg hx, if_neg (fun h => hx h.1)]; rfl

/-- Marking a vector name changes the vector names alone. -/
theorem Wave.vmark_rest (v : Wave) (n : Nat) (m : Word32) : v.vmark n m = { v with vregs := (v.vmark n m).vregs } := by
  by_cases hm : m = 0
  · rw [Wave.vmark_zero _ _ _ hm]
  · rw [Wave.vmark_pos _ _ _ hm]

/-- A scalar register after a write of n. -/
@[simp] theorem Wave.lookup_sput (v : Wave) (n : Nat) (x : Word64) (k : Nat) :
    (v.sput n x).sregs.lookup k = if k = n then some { val := x, empty := false } else v.sregs.lookup k := by
  simp [Wave.sput, lookup_assocSet]

/-- A scalar register after n is marked empty. -/
@[simp] theorem Wave.lookup_smark (v : Wave) (n : Nat) (k : Nat) :
    (v.smark n).sregs.lookup k = if k = n then some { (v.sget n) with empty := true } else v.sregs.lookup k := by
  simp [Wave.smark, lookup_assocSet]

/-- Mask j after a write of mask n: the bits of m, in a split wave the owned ones. -/
theorem Wave.masks_kwrite (v : Wave) (owned : Word32) (n : Nat) (m x : Word32) (j : Fin 16) :
    (v.kwrite owned n m x).masks[j] =
      if j.val = n ∧ n ≠ 0 then
        (v.masks[j] &&& ~~~(if v.isSplit then m &&& owned else m)) ||| (x &&& (if v.isSplit then m &&& owned else m))
      else v.masks[j] := by
  simp [Wave.kwrite]

/-! ## Register checks -/

/-- Ready operands pass the checks, and last-read sources are unmapped. -/
theorem Ctx.checkRegs_clear {k : Ctx} {s : State} {us : List RegUse} {ds : List RegDst} (h : k.Clear s us ds) :
    k.checkRegs us ds = .go (k.wv.freeUses us) := by
  have h1 : (us.any fun u => u.ctl.getLsbD 0 && k.wv.useEmpty u) = false := by
    simp only [List.any_eq_false, Bool.and_eq_true, not_and, Bool.not_eq_true]
    exact fun u hu _ => (h.sources u hu).1
  have h2 : us.any k.wv.useEmpty = false := by
    simp only [List.any_eq_false, Bool.not_eq_true]; exact fun u hu => (h.sources u hu).1
  have h2' : us.any k.wv.usePending = false := by
    simp only [List.any_eq_false, Bool.not_eq_true]; exact fun u hu => (h.sources u hu).2
  have h3 : ds.any k.wv.dstEmpty = false := by
    simp only [List.any_eq_false, Bool.not_eq_true]; exact fun u hu => h.targets u hu
  obtain ⟨f1, f2⟩ := h.fits
  simp only [Ctx.checkRegs, h1, h2, h2', h3, h.mate, Bool.and_false, Bool.or_false, Bool.false_eq_true, if_false]
  rw [if_neg]
  simp only [Bool.or_eq_true, Bool.and_eq_true, decide_eq_true_eq]
  omega

/-- With ready operands the effect runs on the wave with its last-read sources unmapped. -/
theorem State.issueRegs_clear {s : State} {k : Ctx} {i : Instr} {us : List RegUse} {ds : List RegDst} {f : Wave → State}
    (h : k.Clear s us ds) : s.issueRegs k i us ds f = f (k.wv.freeUses us) := by
  have e : (s.upset && !us.isEmpty) = false := by
    cases hu : s.upset
    · rfl
    · rw [h.sound hu]; rfl
  rw [State.issueRegs, Ctx.checkRegs_clear h]
  simp only [e, Bool.false_eq_true, if_false]

/-- What the register checks answer. -/
theorem Ctx.checkRegs_cases (k : Ctx) (us : List RegUse) (ds : List RegDst) :
    k.checkRegs us ds = .go (k.wv.freeUses us) ∨ k.checkRegs us ds = .wait ∨ k.checkRegs us ds = .trap 0x03 ∨
      k.checkRegs us ds = .trap 0x04 := by
  unfold Ctx.checkRegs
  dsimp only
  split
  · exact .inr (.inr (.inl rfl))
  · split
    · exact .inr (.inr (.inr rfl))
    · split
      · exact .inr (.inl rfl)
      · exact .inl rfl

/-- What an instruction's issue comes to: the effect on the wave with its last-read sources unmapped, a wait, or a trap
with EMPTY_READ, FOOTPRINT or, for a register with an uncorrectable error, DATA_UNCORRECTABLE. -/
theorem State.issueRegs_cases (s : State) (k : Ctx) (i : Instr) (us : List RegUse) (ds : List RegDst) (f : Wave → State) :
    s.issueRegs k i us ds f = f (k.wv.freeUses us) ∨ s.issueRegs k i us ds f = s.opwait k ∨
      s.issueRegs k i us ds f = s.trapWhole k 0x03 i ∨ s.issueRegs k i us ds f = s.trapWhole k 0x04 i ∨
      s.issueRegs k i us ds f = s.trapWhole k 0x0E i := by
  rcases k.checkRegs_cases us ds with h | h | h | h <;> rw [State.issueRegs, h]
  · dsimp only
    split
    · exact .inr (.inr (.inr (.inr rfl)))
    · exact .inl rfl
  · exact .inr (.inl rfl)
  · exact .inr (.inr (.inl rfl))
  · exact .inr (.inr (.inr (.inl rfl)))

/-! ## The issuing fragment -/

/-- The meaning of a SIMT instruction with an issuing fragment. -/
theorem simt_next {s : State} {k : Ctx} (h : s.ctx? = some k) (f : Ctx → State) : simt s f = .next (f k) := by
  rw [simt, h]

/-- A context is that of the wave, the fragment and the launch it names. -/
theorem State.ctxOf_spec {s : State} {w slot : Nat} {k : Ctx} (h : s.ctxOf w slot = some k) :
    k.w = w ∧ k.slot = slot ∧ s.waves[w]? = some k.wv ∧ k.wv.frag slot = some k.fr ∧
      s.launches[k.wv.launch]? = some k.l := by
  unfold State.ctxOf at h
  split at h
  · cases h
  · rename_i wv hw
    split at h
    · rename_i fr l hf hl
      cases h
      exact ⟨rfl, rfl, hw, hf, hl⟩
    · cases h

/-- The issuing fragment's context. -/
theorem State.ctx_spec {s : State} {k : Ctx} (h : s.ctx? = some k) :
    s.cur = some (k.w, k.slot) ∧ s.waves[k.w]? = some k.wv ∧ k.wv.frag k.slot = some k.fr ∧
      s.launches[k.wv.launch]? = some k.l := by
  unfold State.ctx? at h
  split at h
  · rename_i w slot hc
    obtain ⟨rfl, rfl, h1, h2, h3⟩ := State.ctxOf_spec h
    exact ⟨hc, h1, h2, h3⟩
  · cases h

/-- Replacing one wave changes that wave alone. -/
theorem State.setWave_waveStep {s : State} {w : Nat} {v : Wave} (h : s.waves[w]? = some v) (f : Wave → Wave) :
    s.WaveStep (s.setWave w f) w (f v) where
  rest := rfl
  wave := by simp [h]
  others := fun j hj => by simp [Ne.symm hj]
  bytes := fun _ => rfl

/-- Committing an instruction changes the issuing wave alone: the fragment is past the instruction. -/
theorem State.commit_waveStep {s : State} {k : Ctx} (h : s.waves[k.w]? = some k.wv) (v : Wave) (n : Nat) :
    s.WaveStep (s.commit k v n) k.w (v.setFrag k.slot ((v.frag k.slot).map (·.after n))) :=
  State.setWave_waveStep h _

/-- Waiting for an operand changes the state of the fragment alone. -/
theorem State.opwait_waveStep {s : State} {k : Ctx} (h : s.waves[k.w]? = some k.wv) :
    s.WaveStep (s.opwait k) k.w (k.wv.setFrag k.slot ((k.wv.frag k.slot).map fun f => { f with st := .opwait })) :=
  State.setWave_waveStep h _

/-- The committed wave keeps everything but what v has changed, and its fragment is past the instruction. -/
theorem Wave.past_of {a v : Wave} {slot n : Nat} {vs ss ks : List Nat} (hf : v.frag slot = a.frag slot)
    (hm : v.frag (1 - slot) = a.frag (1 - slot)) (hv : ∀ x, x ∉ vs → v.vregs.lookup x = a.vregs.lookup x)
    (hs : ∀ x, x ∉ ss → v.sregs.lookup x = a.sregs.lookup x)
    (hk : ∀ j : Fin 16, j.val ∉ ks → v.masks[j] = a.masks[j])
    (hr : v = { a with vregs := v.vregs, sregs := v.sregs, masks := v.masks, fpflags := v.fpflags, pend := v.pend,
                       frag0 := v.frag0, frag1 := v.frag1 }) :
    a.Past (v.setFrag slot ((v.frag slot).map (·.after n))) slot (fun f => f.after n) vs ss ks where
  frag := by rw [Wave.frag_setFrag, hf]
  mate := by rw [Wave.frag_setFrag_mate, hm]
  vregs := fun x hx => by rw [Wave.vregs_setFrag]; exact hv x hx
  sregs := fun x hx => by rw [Wave.sregs_setFrag]; exact hs x hx
  masks := fun j hj => by simp only [Wave.masks_setFrag]; exact hk j hj
  rest := by
    rw [Wave.setFrag_rest]
    rw [hr]

end Sys2Proof.Machine
end

