-- ==== Sys2Proof/Laws/Traps.lean ====
section
/-!
SUPPORT. Taking a trap: the report-card entry and the fault registers, withdrawing roll calls, and entering the handler.
-/

namespace Sys2Proof.Machine

/-- The lowest lane of a mask is a lane. -/
theorem lowestLane_lt (m : Word32) : lowestLane m < 32 := by
  unfold lowestLane
  cases h : lanesOf m with
  | nil => decide
  | cons a l =>
    have : a ∈ lanesOf m := by rw [h]; exact List.mem_cons_self
    exact ((mem_lanesOf m a).1 this).1

/-- A field with parts below and above it, in a record of 512 bits. -/
theorem cardField (v pre x post lo n : Nat) (h : v = pre + x * 2 ^ lo + post * 2 ^ (lo + n)) (hv : v < 2 ^ 512)
    (hp : pre < 2 ^ lo) (hx : x < 2 ^ n) : ((BitVec.ofNat 512 v).extractLsb' lo n).toNat = x := by
  rw [BitVec.extractLsb'_toNat, BitVec.toNat_ofNat, Nat.mod_eq_of_lt hv, Nat.shiftRight_eq_div_pow, h]
  have e : pre + x * 2 ^ lo + post * 2 ^ (lo + n) = pre + 2 ^ lo * (x + 2 ^ n * post) := by
    rw [Nat.pow_add, Nat.mul_add, Nat.add_assoc, Nat.mul_comm x, Nat.mul_comm post, Nat.mul_assoc]
  rw [e, Nat.add_mul_div_left _ _ (Nat.two_pow_pos lo), Nat.div_eq_of_lt hp, Nat.zero_add, Nat.add_mul_mod_self_left,
    Nat.mod_eq_of_lt hx]

/-- A report-card entry names what it was made of (R444). -/
theorem mkCard_names (cause lane acc : Nat) (more wbuf malf : Bool) (ioff wid addr info addr2 ioff2 time : Nat) :
    CardNames (mkCard cause lane acc more wbuf malf ioff wid addr info addr2 ioff2 time) (cause % 256) (lane % 32) (acc % 4)
      (ioff % 2 ^ 32) (wid % 2 ^ 64) (addr % 2 ^ 64) (info % 2 ^ 64) (time % 2 ^ 64) := by
  have h1 := Nat.mod_lt cause (show 256 > 0 by decide)
  have h2 := Nat.mod_lt lane (show 32 > 0 by decide)
  have h3 := Nat.mod_lt acc (show 4 > 0 by decide)
  have h4 := Nat.mod_lt ioff (show 2 ^ 32 > 0 by decide)
  have h5 := Nat.mod_lt wid (show 2 ^ 64 > 0 by decide)
  have h6 := Nat.mod_lt addr (show 2 ^ 64 > 0 by decide)
  have h7 := Nat.mod_lt info (show 2 ^ 64 > 0 by decide)
  have h8 := Nat.mod_lt addr2 (show 2 ^ 64 > 0 by decide)
  have h9 := Nat.mod_lt ioff2 (show 2 ^ 32 > 0 by decide)
  have h10 := Nat.mod_lt time (show 2 ^ 64 > 0 by decide)
  have b1 : b2n more < 2 := by cases more <;> decide
  have b2 : b2n wbuf < 2 := by cases wbuf <;> decide
  have b3 : b2n malf < 2 := by cases malf <;> decide
  unfold mkCard putAt
  simp only [Nat.shiftLeft_eq]
  generalize cause % 256 = c at *
  generalize lane % 32 = l at *
  generalize acc % 4 = ac at *
  generalize ioff % 2 ^ 32 = io at *
  generalize wid % 2 ^ 64 = wi at *
  generalize addr % 2 ^ 64 = ad at *
  generalize info % 2 ^ 64 = inf at *
  generalize addr2 % 2 ^ 64 = ad2 at *
  generalize ioff2 % 2 ^ 32 = io2 at *
  generalize time % 2 ^ 64 = ti at *
  generalize b2n more = q1 at *
  generalize b2n wbuf = q2 at *
  generalize b2n malf = q3 at *
  have hv : c + l * 2 ^ 8 + q1 * 2 ^ 13 + q2 * 2 ^ 14 + q3 * 2 ^ 15 + ac * 2 ^ 16 + io * 2 ^ 32 + wi * 2 ^ 64 +
      ad * 2 ^ 128 + inf * 2 ^ 192 + ad2 * 2 ^ 256 + io2 * 2 ^ 320 + ti * 2 ^ 384 < 2 ^ 512 := by omega
  constructor
  · exact cardField _ 0 c (l + q1 * 2 ^ 5 + q2 * 2 ^ 6 + q3 * 2 ^ 7 + ac * 2 ^ 8 + io * 2 ^ 24 + wi * 2 ^ 56 + ad * 2 ^ 120 +
      inf * 2 ^ 184 + ad2 * 2 ^ 248 + io2 * 2 ^ 312 + ti * 2 ^ 376) _ _ (by omega) hv (by omega) (by omega)
  · exact cardField _ c l (q1 + q2 * 2 + q3 * 2 ^ 2 + ac * 2 ^ 3 + io * 2 ^ 19 + wi * 2 ^ 51 + ad * 2 ^ 115 +
      inf * 2 ^ 179 + ad2 * 2 ^ 243 + io2 * 2 ^ 307 + ti * 2 ^ 371) _ _ (by omega) hv (by omega) (by omega)
  · exact cardField _ (c + l * 2 ^ 8 + q1 * 2 ^ 13 + q2 * 2 ^ 14 + q3 * 2 ^ 15) ac (io * 2 ^ 14 + wi * 2 ^ 46 + ad * 2 ^ 110 +
      inf * 2 ^ 174 + ad2 * 2 ^ 238 + io2 * 2 ^ 302 + ti * 2 ^ 366) _ _ (by omega) hv (by omega) (by omega)
  · exact cardField _ (c + l * 2 ^ 8 + q1 * 2 ^ 13 + q2 * 2 ^ 14 + q3 * 2 ^ 15 + ac * 2 ^ 16) io (wi + ad * 2 ^ 64 +
      inf * 2 ^ 128 + ad2 * 2 ^ 192 + io2 * 2 ^ 256 + ti * 2 ^ 320) _ _ (by omega) hv (by omega) (by omega)
  · exact cardField _ (c + l * 2 ^ 8 + q1 * 2 ^ 13 + q2 * 2 ^ 14 + q3 * 2 ^ 15 + ac * 2 ^ 16 + io * 2 ^ 32) wi (ad +
      inf * 2 ^ 64 + ad2 * 2 ^ 128 + io2 * 2 ^ 192 + ti * 2 ^ 256) _ _ (by omega) hv (by omega) (by omega)
  · exact cardField _ (c + l * 2 ^ 8 + q1 * 2 ^ 13 + q2 * 2 ^ 14 + q3 * 2 ^ 15 + ac * 2 ^ 16 + io * 2 ^ 32 + wi * 2 ^ 64) ad
      (inf + ad2 * 2 ^ 64 + io2 * 2 ^ 128 + ti * 2 ^ 192) _ _ (by omega) hv (by omega) (by omega)
  · exact cardField _ (c + l * 2 ^ 8 + q1 * 2 ^ 13 + q2 * 2 ^ 14 + q3 * 2 ^ 15 + ac * 2 ^ 16 + io * 2 ^ 32 + wi * 2 ^ 64 +
      ad * 2 ^ 128) inf (ad2 + io2 * 2 ^ 64 + ti * 2 ^ 128) _ _ (by omega) hv (by omega) (by omega)
  · exact cardField _ (c + l * 2 ^ 8 + q1 * 2 ^ 13 + q2 * 2 ^ 14 + q3 * 2 ^ 15 + ac * 2 ^ 16 + io * 2 ^ 32 + wi * 2 ^ 64 +
      ad * 2 ^ 128 + inf * 2 ^ 192 + ad2 * 2 ^ 256 + io2 * 2 ^ 320) ti 0 _ _ (by omega) hv (by omega) (by omega)

/-! ## Entering the handler -/

/-- What withdrawing a roll call does to its own fragment. -/
def Frag.unroll (f : Frag) : Frag := { f with st := match f.st with | .rollcall _ _ _ => .ready | x => x }

/-- A lane that a withdrawn roll call had marked empty becomes full. -/
def unrollReg (ds : List Nat) (x : Word32) (e : Nat × VReg) : Nat × VReg :=
  if ds.contains e.1 then (e.1, { e.2 with empty := e.2.empty &&& ~~~x }) else e

/-- Withdrawing a roll call. -/
theorem Wave.withdrawRoll_roll {v : Wave} {slot : Nat} {f : Frag} {i : Instr} {m : Word32} {ds : List Nat}
    (hf : v.frag slot = some f) (hst : f.st = .rollcall i m ds) :
    v.withdrawRoll slot =
      ({ v with vregs := v.vregs.map (unrollReg ds (m &&& f.owned)) } : Wave).setFrag slot
        (some { f with st := .ready }) := by
  simp only [Wave.withdrawRoll, hf, hst]; rfl

/-- Without a roll call there is nothing to withdraw. -/
theorem Wave.withdrawRoll_other {v : Wave} {slot : Nat}
    (h : ∀ f, v.frag slot = some f → ∀ i m ds, f.st ≠ .rollcall i m ds) : v.withdrawRoll slot = v := by
  unfold Wave.withdrawRoll
  split
  · rename_i f hf
    split
    · rename_i i m ds hst; exact absurd hst (h f hf i m ds)
    · rfl
  · rfl

/-- A register after a roll call's lanes have become full keeps its value, and no lane of it empties. -/
theorem lookup_unroll (ds : List Nat) (x : Word32) (rs : List (Nat × VReg)) (n : Nat) :
    (((rs.map (unrollReg ds x)).lookup n).getD VReg.zero).val = ((rs.lookup n).getD VReg.zero).val ∧
    (((rs.map (unrollReg ds x)).lookup n).getD VReg.zero).empty &&& ~~~((rs.lookup n).getD VReg.zero).empty = 0 := by
  induction rs with
  | nil => simp
  | cons e rs ih =>
    rw [List.map_cons, List.lookup_cons, List.lookup_cons]
    have h1 : (unrollReg ds x e).1 = e.1 := by unfold unrollReg; split <;> rfl
    have h2 : (unrollReg ds x e).2.val = e.2.val := by unfold unrollReg; split <;> rfl
    have h3 : (unrollReg ds x e).2.empty &&& ~~~e.2.empty = 0 := by
      unfold unrollReg
      split
      · rw [BitVec.and_assoc, BitVec.and_comm (~~~x), ← BitVec.and_assoc]; simp
      · simp
    rw [h1]
    cases n == e.1 with
    | true => exact ⟨h2, h3⟩
    | false => exact ih

/-- Withdrawing a roll call of one slot: its fragment is ready again, the other one stays, registers keep their values
and no lane empties. -/
theorem Wave.withdrawRoll_spec (v : Wave) (slot : Nat) :
    (v.withdrawRoll slot).frag slot = (v.frag slot).map Frag.unroll ∧
    (v.withdrawRoll slot).frag (1 - slot) = v.frag (1 - slot) ∧
    (∀ n, ((v.withdrawRoll slot).vget n).val = (v.vget n).val ∧
      ((v.withdrawRoll slot).vget n).empty &&& ~~~(v.vget n).empty = 0) ∧
    v.withdrawRoll slot = { v with vregs := (v.withdrawRoll slot).vregs, frag0 := (v.withdrawRoll slot).frag0,
                                   frag1 := (v.withdrawRoll slot).frag1 } := by
  by_cases h : ∀ f, v.frag slot = some f → ∀ i m ds, f.st ≠ .rollcall i m ds
  · rw [Wave.withdrawRoll_other h]
    refine ⟨?_, rfl, fun n => ⟨rfl, by simp⟩, rfl⟩
    cases hf : v.frag slot with
    | none => rfl
    | some f =>
      have hu : f.unroll = f := by
        obtain ⟨pc, exec, owned, st, held, stack, spilled, skip, restart, age⟩ := f
        cases st <;> first | rfl | exact absurd rfl (h _ hf _ _ _)
      rw [Option.map_some, hu]
  · simp only [Classical.not_forall] at h
    obtain ⟨f, hf, i, m, ds, hst⟩ := h
    have hst : f.st = .rollcall i m ds := Classical.not_not.1 hst
    rw [Wave.withdrawRoll_roll hf hst]
    refine ⟨?_, ?_, fun n => ?_, ?_⟩
    · simp [hf, Frag.unroll, hst]
    · rw [Wave.frag_setFrag_mate]; rfl
    · simp only [Wave.vget, Wave.vregs_setFrag]; exact lookup_unroll ds _ _ n
    · rw [Wave.setFrag_rest]

/-- A wave whose roll calls are withdrawn in both slots. -/
def Wave.unrolled (v : Wave) : Wave := (v.withdrawRoll 0).withdrawRoll 1

/-- Both fragments of a wave without its roll calls are ready where they were in one; registers keep their values. -/
theorem Wave.unrolled_spec (v : Wave) :
    v.unrolled.frag0 = v.frag0.map Frag.unroll ∧ v.unrolled.frag1 = v.frag1.map Frag.unroll ∧
    (∀ n, (v.unrolled.vget n).val = (v.vget n).val ∧ (v.unrolled.vget n).empty &&& ~~~(v.vget n).empty = 0) ∧
    ((∀ sl g, v.frag sl = some g → ∀ i m ds, g.st ≠ .rollcall i m ds) → v.unrolled.vregs = v.vregs) ∧
    v.unrolled = { v with vregs := v.unrolled.vregs, frag0 := v.unrolled.frag0, frag1 := v.unrolled.frag1 } := by
  obtain ⟨a1, a2, a3, a4⟩ := v.withdrawRoll_spec 0
  obtain ⟨b1, b2, b3, b4⟩ := (v.withdrawRoll 0).withdrawRoll_spec 1
  refine ⟨?_, ?_, fun n => ⟨(b3 n).1.trans (a3 n).1, ?_⟩, fun h => ?_, ?_⟩
  · exact b2.trans a1
  · exact b1.trans (congrArg (Option.map Frag.unroll) a2)
  · have h1 := (a3 n).2
    have h2 := (b3 n).2
    apply BitVec.eq_of_getLsbD_eq
    intro i hi
    have h1 := congrArg (fun z : Word32 => z.getLsbD i) h1
    have h2 := congrArg (fun z : Word32 => z.getLsbD i) h2
    simp [hi] at h1 h2
    simp [hi]
    intro h3
    exact h1 (h2 h3)
  · have h0 : v.withdrawRoll 0 = v := Wave.withdrawRoll_other (h 0)
    unfold Wave.unrolled
    rw [h0, Wave.withdrawRoll_other (h 1)]
  · unfold Wave.unrolled
    rw [b4, a4]

/-- The fragment that a trap takes into the handler. -/
def Frag.trapped (f : Frag) (hentry : Nat) : Frag :=
  { f with pc := BitVec.ofNat 64 hentry, st := .ready, held := false, skip := 0, restart := false }

/-- Entering the handler of a fragment (R46). -/
theorem Wave.enterHandler_spec (v : Wave) (slot hentry : Nat) (r : FaultRegs) :
    let b := v.enterHandler slot hentry r
    b.hmode = true ∧ b.hslot = slot ∧ b.fregs = r ∧
    b.frag slot = (v.frag slot).map (fun f => f.trapped hentry) ∧
    b.frag (1 - slot) = (v.frag (1 - slot)).map Frag.heldBack ∧
    b.vregs = v.unrolled.vregs ∧
    b = { v with hmode := b.hmode, hslot := b.hslot, fregs := b.fregs, frag0 := b.frag0, frag1 := b.frag1,
                 vregs := b.vregs } := by
  obtain ⟨h0, h1, -, -, h4⟩ := v.unrolled_spec
  have hb : v.enterHandler slot hentry r =
      { v.unrolled with
          hmode := true, hslot := slot, fregs := r
          frag0 := v.unrolled.frag0.map (if slot = 0 then fun f => f.trapped hentry else fun f =>
            { f with held := true, st := if f.st == .opwait then .ready else f.st })
          frag1 := v.unrolled.frag1.map (if slot = 0 then fun f =>
            { f with held := true, st := if f.st == .opwait then .ready else f.st } else fun f => f.trapped hentry) } := rfl
  have ht : ∀ f : Frag, f.unroll.trapped hentry = f.trapped hentry := fun f => rfl
  have ho : ∀ f : Frag, ({ f.unroll with held := true, st := if f.unroll.st == .opwait then .ready else f.unroll.st } : Frag) =
      f.heldBack := by
    intro f
    obtain ⟨pc, exec, owned, st, held, stack, spilled, skip, restart, age⟩ := f
    cases st <;> rfl
  refine ⟨by rw [hb], by rw [hb], by rw [hb], ?_, ?_, by rw [hb], ?_⟩
  · rw [hb]
    unfold Wave.frag
    by_cases hs : slot = 0
    · simp only [hs, if_true, h0, Option.map_map]
      congr 1
    · simp only [hs, if_false, h1, Option.map_map]
      congr 1
  · rw [hb]
    unfold Wave.frag
    by_cases hs : slot = 0
    · simp only [hs, if_true, Nat.sub_zero, Nat.one_ne_zero, if_false, h1, Option.map_map]
      congr 1
      funext f; exact ho f
    · simp only [hs, if_false, show 1 - slot = 0 by omega, if_true, h0, Option.map_map]
      congr 1
      funext f; exact ho f
  · rw [hb]
    rw [h4]

/-- A trap other than DATA_UNCORRECTABLE and PIPE_MISMATCH of a fragment that may trap enters the handler. -/
theorem State.takeTrap_enters {s : State} {k : Ctx} (hk : s.ctxOf k.w k.slot = some k) (hr : k.TrapReady) (t : Trap)
    (h1 : t.cause ≠ 0x0E) (h2 : t.cause ≠ 0x0F) :
    ∃ b, s.EntersHandler (s.takeTrap k.w k.slot t) k b (t.regs s.now) := by
  obtain ⟨-, -, hw, hf, -⟩ := State.ctxOf_spec hk
  obtain ⟨m0, m1⟩ := hr
  have he : s.takeTrap k.w k.slot t = s.setWave k.w fun v => v.enterHandler k.slot k.l.hentry (t.regs s.now) := by
    unfold State.takeTrap
    rw [hk]
    simp only [Ctx.inHandler, m0, Bool.false_and, Bool.or_false, Bool.false_eq_true, if_false]
    rw [if_neg]
    simp [h1, h2, m1]
  obtain ⟨e1, e2, e3, e4, e5, e6, e7⟩ := k.wv.enterHandler_spec k.slot k.l.hentry (t.regs s.now)
  obtain ⟨-, -, u3, u4, -⟩ := k.wv.unrolled_spec
  refine ⟨k.wv.enterHandler k.slot k.l.hentry (t.regs s.now), ?_, ⟨e1, e2, e3⟩, ?_, e5, fun n => ?_, fun h => ?_, e7⟩
  · rw [he]; exact State.setWave_waveStep hw _
  · rw [e4, hf]; rfl
  · simp only [Wave.vget, e6]; exact u3 n
  · rw [e6]; exact u4 h

/-- The fault registers of a trap as a whole. -/
theorem Ctx.whole_regs (k : Ctx) (s : State) (cause : Nat) (inst : Word64) (addr acc info : Nat) (hc : cause < 256) :
    ∃ card, (k.whole s cause inst addr acc info).regs s.now = k.wholeRegs s cause inst card ∧
      (acc < 4 → k.WholeCard s cause addr acc info card) := by
  refine ⟨mkCard cause (lowestLane k.wholeLanes) acc false false false k.ioff (k.wv.wid (lowestLane k.wholeLanes)) addr info 0 0
    s.now, ?_, fun ha => ?_⟩
  · have hl := lowestLane_lt k.wholeLanes
    have hf : fcauseWord cause (lowestLane k.wholeLanes) false 0 = BitVec.ofNat 32 (cause + 256 * lowestLane k.wholeLanes) := by
      unfold fcauseWord putAt b2n
      congr 1
      simp only [Nat.shiftLeft_eq, Bool.false_eq_true, if_false]
      omega
    unfold Trap.regs Ctx.wholeRegs Ctx.whole
    simp only [hf, List.take_succ_cons, List.take_nil]
    rfl
  have h := mkCard_names cause (lowestLane k.wholeLanes) acc false false false k.ioff (k.wv.wid (lowestLane k.wholeLanes)) addr
    info 0 0 s.now
  rw [Nat.mod_eq_of_lt hc, Nat.mod_eq_of_lt (lowestLane_lt _), Nat.mod_eq_of_lt ha] at h
  have hi : k.ioff % 2 ^ 32 = k.ioff := Nat.mod_eq_of_lt (by unfold Ctx.ioff; exact Nat.mod_lt _ (by decide))
  rw [hi] at h
  exact h

end Sys2Proof.Machine
end

