-- ==== Sys2Proof/Safety.lean ====
section
/-!
DEFINITION. What counts as a safe run: from a state, every step up to a count answers a next state.
-/

namespace Sys2Proof

open Sys2Proof.Machine

/-- The machine takes n steps from s without a fault or a refusal. -/
def SafeFor : Nat → State → Prop
  | 0, _ => True
  | n + 1, s => ∃ t, step s = .next t ∧ SafeFor n t

end Sys2Proof
end

