-- ==== Sys2Proof/Tests/Slice0.lean ====
section
/-!
SUPPORT. Tests: ill-formed instructions are refused, words written out from the encodings decode, single steps on small
states give the manual's values, and every statement's hypotheses are met by a concrete state.
-/

namespace Sys2Proof.Tests

open Sys2Proof Sys2Proof.Machine

set_option maxRecDepth 100000
set_option exponentiation.threshold 4096
set_option Elab.async false

/-! ## Small states -/

/-- One wave of 32 lanes on core 0 of cluster 0, at PC 0x10000, about to issue; its handler stands at 0x10800. -/
def bed : State := { State.reset.placeWords [] with agenda := [], cur := some (0, 0) }
/-- The bed with its wave changed. -/
def wave (f : Wave → Wave) : State := bed.setWave 0 f
/-- The bed with its launch record changed at a field: bit position, width, value (R363). -/
def launch (s : State) (pos w v : Nat) : State :=
  { s with launches := s.launches.map fun l =>
      { l with record := BitVec.ofNat 2048 (l.record.toNat - field l.record.toNat pos w * 2 ^ pos + v % 2 ^ w * 2 ^ pos) } }
/-- V1 holds the lane number, V2 holds 5, V3 holds −2, V4 four times the lane number; S2 holds 0x10040, S3 holds 9,
S4 holds 0x10080. -/
def regs (v : Wave) : Wave :=
  let all := BitVec.allOnes 32
  ((((((v.vput 1 all fun i => BitVec.ofNat 32 i).vput 2 all fun _ => 5).vput 3 all fun _ => -2).vput 4 all fun i =>
    BitVec.ofNat 32 (4 * i)).sput 2 0x10040).sput 3 9).sput 4 0x10080
/-- The bed with those registers. -/
def rbed : State := wave regs
/-- A split wave: lanes 0 to 15 in slot 0, which issues, 16 to 31 in slot 1; the split token is 7. -/
def splitWave (st : FragState) (v : Wave) : Wave :=
  { regs v with
      split := some { tok := 7, rmask := BitVec.allOnes 32, parent := 0 }
      frag0 := v.frag0.map fun f => { f with exec := 0xFFFF, owned := 0xFFFF }
      frag1 := v.frag0.map fun f => { f with exec := 0xFFFF0000, owned := 0xFFFF0000, st := st } }
/-- The wave in its handler, at 0x10800, after a trap of `cause` at 0x10000. -/
def handlerWave (cause : Nat) (v : Wave) : Wave :=
  { regs v with hmode := true, hslot := 0, fregs := { v.fregs with fcause := BitVec.ofNat 32 cause, fpc := 0x10000 },
                frag0 := v.frag0.map fun f => { f with pc := 0x10800 } }

/-- The issuing fragment of s has the property. -/
def has (s : State) (p : Ctx → Bool) : Bool := match s.ctx? with | some k => p k | none => false
/-- `Ctx.Clear`, computed. -/
def clr (k : Ctx) (us : List RegUse) (ds : List RegDst) : Bool :=
  let a := k.wv.freeUses us
  (us.all fun u => !k.wv.useEmpty u && !k.wv.usePending u) && (ds.all fun d => !k.wv.dstEmpty d) && !k.interlocked us ds &&
  decide (a.vregs.length + newNames (a.vregs.map (·.1)) ds true ≤ max k.l.vceil k.wv.vregs.length) &&
  decide (a.sregs.length + newNames (a.sregs.map (·.1)) ds false ≤ max k.l.sceil k.wv.sregs.length)
/-- `Ctx.Resumes`, computed. -/
def resumes (k : Ctx) (us : List RegUse) (ds : List RegDst) : Bool :=
  let a := k.wv.freeUses us
  decide (a.vregs.length + newNames (a.vregs.map (·.1)) ds true ≤ max k.l.vceil k.wv.vregs.length) &&
  decide (a.sregs.length + newNames (a.sregs.map (·.1)) ds false ≤ max k.l.sceil k.wv.sregs.length)
/-- `Ctx.TrapReady`, computed. -/
def trp (k : Ctx) : Bool := !k.wv.hmode && k.l.hentry != 0

theorem has_spec {s : State} {p : Ctx → Bool} (h : has s p = true) : ∃ k, s.ctx? = some k ∧ p k = true := by
  unfold has at h
  split at h
  · exact ⟨_, ‹_›, h⟩
  · cases h

theorem clr_spec {s : State} {k : Ctx} {us : List RegUse} {ds : List RegDst} (h : clr k us ds = true)
    (hu : s.upset = false := by rfl) : k.Clear s us ds := by
  simp only [clr, Bool.and_eq_true, decide_eq_true_eq, List.all_eq_true, Bool.not_eq_true'] at h
  obtain ⟨⟨⟨⟨h1, h2⟩, h3⟩, h4⟩, h5⟩ := h
  exact ⟨h1, h2, h3, ⟨h4, h5⟩, fun e => absurd e (by rw [hu]; decide)⟩

theorem resumes_spec {s : State} {k : Ctx} {us : List RegUse} {ds : List RegDst} (h : resumes k us ds = true)
    (hu : s.upset = false := by rfl) : k.Resumes s us ds := by
  simp only [resumes, Bool.and_eq_true, decide_eq_true_eq] at h
  exact ⟨h, fun e => absurd e (by rw [hu]; decide)⟩

theorem trp_spec {k : Ctx} (h : trp k = true) : k.TrapReady := by
  simpa [trp, Ctx.TrapReady] using h

/-- A vector word: type, D, A, B, C, MOD. -/
def rv (dt : BitVec 3) (d a b c : BitVec 8) (mod : BitVec 5 := 0) : RWord := ⟨dt, false, none, 0, d, a, 0, b, 0, c, 0, mod⟩
/-- A uniform word. -/
def ru (dt : BitVec 3) (d a b c : BitVec 8) (mod : BitVec 5 := 0) : RWord := ⟨dt, true, none, 0, d, a, 0, b, 0, c, 0, mod⟩
/-- A branch word: A, token, offset, MOD. -/
def bw (a : BitVec 8) (tok : BitVec 16) (off : BitVec 32) (mod : BitVec 5 := 0) : BWord :=
  ⟨0, true, 0, 0xFF, a, 0, 0xFF, 0, 0xFF, 0, mod, 0, tok, off⟩

/-! ## Ill-formed instructions are refused: one term or more for each check of WellFormed.lean, each with one wrong field -/

/-- None of the instructions is well formed. -/
def refuses (l : List Instr) : Bool := l.all fun i => !i.wf
/-- A memory word: type, uniform, D, A, B, MOD. -/
def mw (dt : BitVec 3) (u : Bool) (d a b : BitVec 8) (mod : BitVec 5 := 0) : MWord := ⟨dt, u, none, 0, d, a, 0, b, 0, 0, mod⟩

/-- Integer and logic: a pair not aligned (R19), a packed uniform form, a literal selected with L = 0 (R85), NP without a
predicate, a used C where none is, MOD not zero, `abs` of an unsigned type, a packed `bfe`. -/
theorem test_wf_refuses_alu :
    refuses [.add (rv 2 1 2 4 0xFF), .add (ru 4 0x85 0x82 0x83 0xFF), .add (rv 0 4 1 254 0xFF), .add (rv 0 4 1 2 0xFF 16),
      .add (rv 0 4 1 2 3), .sub (rv 0 4 1 2 0xFF 1), .mul (rv 0 0x85 1 2 0xFF), .sad (rv 0 4 1 2 0xFF),
      .abs (rv 1 4 1 0xFF 0xFF), .neg (rv 0 4 1 2 0xFF), .bfe (rv 4 4 1 2 0xFF), .bfi (rv 5 4 1 2 3),
      .add { rv 0 4 0xE8 2 0xFF with actl := 1 }, .add (rv 0 4 237 2 0xFF), .add { ru 0 0x85 0x82 0x83 0xFF with pk := 1 }] =
      true := by decide +kernel

/-- Compare, select, move, immediate, mask and system cells. -/
theorem test_wf_refuses_masks_and_system :
    refuses [.cmp (rv 0 0 1 2 0xFF), .cmp (rv 0 5 1 2 0xFF 6), .cmp (rv 4 5 1 2 0xFF), .sel (rv 0 4 1 2 16),
      .sel (ru 0 0x85 0x82 0x83 0xFF), .mov (rv 0 4 1 2 0xFF), .addImm ⟨0, true, 1, 0x85, 0x82, 0, 1⟩,
      .addImm ⟨0, false, 0, 4, 254, 0, 1⟩, .movImm ⟨0, false, 0, 4, 1, 0, 1⟩, .kand (ru 0 0 1 2 0xFF), .kand (rv 0 5 1 2 0xFF),
      .knot (ru 0 5 1 2 0xFF), .kpop (ru 0 5 1 0xFF 0xFF), .kmov (ru 0 5 0x82 0xFF 0xFF), .kmov (ru 0 5 1 0xFF 0xFF 3),
      .sget (ru 0 0x85 0xFF 0x22 0xFF), .sget (ru 0 0x85 0xFF 2 0xFF), .sget (rv 0 5 0xFF 3 0xFF), .sset (rv 0 0xFF 4 0x30 0xFF),
      .bkMode (ru 0 0x85 0x82 0xFF 0xFF 3)] = true := by decide +kernel

/-- Float, special, conversion and dot-product cells. -/
theorem test_wf_refuses_float :
    refuses [.fadd (rv 7 4 1 2 0xFF), .fadd (rv 0 4 1 2 0xFF 5), .fsub (ru 0 0x85 0x82 0x83 0xFF), .fmin (rv 0 4 1 2 0xFF 1),
      .fma (ru 3 0x85 0x82 0x83 0x84), .fcmp (rv 1 5 1 2 0xFF), .fcmp (rv 0 5 1 2 0xFF 8), .vfrcp (ru 0 0x85 0x82 0xFF 0xFF),
      .vfsin (rv 7 4 1 0xFF 0xFF), .vcvt (rv 0 4 1 0x0D 0xFF), .vcvt (rv 6 4 1 0x80 0xFF), .vcvt (rv 0 4 1 9 0xFF),
      .vcvt (rv 0 4 1 2 0xFF), .vcvtfTo (rv 0 4 1 0xFF 32), .vcvtfFrom (rv 0 0x85 1 0xFF 0), .vdot4 (rv 5 4 1 2 3),
      .vdot4 (rv 6 4 1 2 3 2), .vdot2 (rv 0 4 1 2 3)] = true := by decide +kernel

/-- Cross-lane and random cells. -/
theorem test_wf_refuses_cross_lane :
    refuses [.xshfl { rv 0 4 1 2 0 with pk := 1 }, .xshfl (rv 0 4 1 2 16), .xrot (rv 0 4 1 2 0), .xbcast (ru 0 4 1 0x82 0),
      .xvote (rv 0 5 1 0xFF 0 3), .xvote (rv 0 0 1 0xFF 0), .xballot (rv 0 0x85 1 0xFF 0), .xred (rv 0 4 1 0x80 0),
      .xred (rv 4 4 1 0 0), .xred (rv 0 4 1 6 0), .xscan (rv 0 4 1 0x20 0), .xred (rv 7 4 1 0x10 0), .xmatch (rv 0 4 1 2 0),
      .xmaxidx (rv 0 5 1 2 0), .xmaxidx (rv 1 4 1 2 0), .vrand (rv 0 5 0xFF 0xFF 0xFF), .vrand (rv 0 4 0xFF 0xFF 0xFF 2)] =
      true := by decide +kernel

/-- Loads, stores, FIFO, spill, prefetch and cache cells. -/
theorem test_wf_refuses_memory :
    refuses [.ldG (mw 7 false 4 0x82 0xFF), .ldG (mw 4 false 4 1 0xFF), .ldG (mw 5 false 5 0x82 0xFF), .ldG (mw 4 false 4 0x82 0xFF 1),
      .ldGAcq (mw 4 false 4 0x82 0xFF 6), .ldG (mw 4 true 0x85 0x82 0xFF), .stS (mw 6 false 6 0x82 0xFF),
      .ldS (mw 4 false 4 0x82 0xC1), .ldU (mw 6 true 0x85 0x82 0xFF), .stU (mw 4 true 4 0x82 0xFF), .stURel (mw 4 true 0x85 0x82 0xFF 7),
      .fqPush (mw 3 false 4 0x82 0xFF), .fqPop (mw 6 true 0x84 0x82 0xFF), .vspill (mw 0 false 124 0x82 5), .vfill (mw 0 false 4 0x82 0),
      .pref (mw 0 false 4 0x82 0xFF), .cclean (mw 0 true 0x83 0x82 0xFF 2), .cinval (mw 0 true 0x83 0x82 0xFF 4),
      .cflush (mw 0 true 4 0x82 0xFF 3)] = true := by decide +kernel

/-- Fences, atomics, barriers, timelines, spawning, grants, persistence and engine cells. -/
theorem test_wf_refuses_order_and_engines :
    refuses [.fenceAcq (ru 0 0xFF 0xFF 0xFF 0xFF 6), .fenceRel (ru 0 0x85 0xFF 0xFF 0xFF 1),
      .atomAdd .global .relaxed (rv 4 4 0x82 2 0xFF), .atomAdd .global .relaxed (rv 0 4 1 2 0xFF), .atomAdd .global .relaxed (rv 0 4 0x82 2 0xFF 1),
      .atomCas .scratch .ar (rv 0 4 1 2 0xFF), .atomFadd .global .relaxed (rv 1 4 0x82 2 0xFF),
      .atomMaxidx .scalar .relaxed (ru 2 0x84 0x82 0x86 0xFF), .atomAdd .scalar .relaxed (rv 0 4 0x82 2 0xFF),
      .bar (ru 0 0xFF 0xFF 0xFF 0xFF 1), .gbar (ru 1 0xFF 0xFF 0xFF 0xFF), .tlInc (ru 0 0xFF 0x82 16 0xFF), .tlWait (ru 0 4 0x82 3 0xFF),
      .tlRead (ru 0 0xFF 0xFF 3 0xFF), .spawn (rv 0 0xFF 4 0x82 5), .spawn (rv 0 0xFF 8 0x82 0), .rgOpen (ru 0 0x85 0x82 0x83 0x84 2),
      .rgClose (ru 0 0x85 0x82 0xFF 0xFF), .ckBegin (ru 0 0x85 0x82 0x83 0xFF), .ckSeal (ru 0 0x85 0x82 0x83 0x84),
      .ceCopy (ru 0 0xFF 0x82 0x83 0xFF), .ceFill (rv 0 0xFF 0x82 0xFF 0x84), .mxPost (ru 1 0xFF 0x82 0xFF 0x84),
      .mxStatus (ru 1 0x85 0x82 0xFF 0xFF), .tvPair (ru 0 0xFF 0x82 0x83 0xFF), .rsTri (ru 0 0xFF 0x82 0x83 0x84),
      .visFlow (ru 1 0xFF 0x82 0x83 0x84)] = true := by decide +kernel

/-- Control cells. -/
theorem test_wf_refuses_control :
    refuses [.bra (bw 0xFF 1 0), .bra { bw 0xFF 0 0 with rsv := 1 }, .brc (bw 1 0 0), .brc (bw 0x82 0 0 4), .brc (bw 1 0 0 7),
      .brv (bw 0x82 7 0), .brv (bw 1 7 0 2), .join (bw 0xFF 7 1), .call (bw 0xFF 0 0), .ret (ru 0 0x85 0x82 0xFF 0xFF), .jmpi (ru 0 0xFF 1 0xFF 0xFF),
      .exit (ru 0 0xFF 0xFF 0xFF 0xFF 16), .nop (ru 0 0xFF 0x82 0xFF 0xFF), .yield (rv 0 0xFF 0xFF 0xFF 0xFF), .ckpt (ru 0 0xFF 0xFF 0xFF 0xFF 1),
      .trap (ru 1 0xFF 0xFF 0xFF 0xFF 3), .rfe (ru 0 0xFF 0x82 0xFF 0xFF), .recessok (ru 0 0xFF 0xFF 0xFF 0x82),
      .tsleep (ru 0 0x85 0x82 0xFF 0xFF 2)] = true := by decide +kernel


/-! ## Decoding (R78, R80 to R91): fields MAJ, MIN, DT, U, L, PK, D, A, ACTL, B, BCTL, C, CCTL, MOD from bit 63 down -/

/-- Two instructions, decoded. -/
def reads (w : Word64) (e : Option Word64) (i : Instr) : Bool := match decode w e with | .ok j => j == i | .error _ => false

/-- integer: `rem.n64 V6 (pair), V8, V10` under K3, last read of V8; logic: `bfi.i32 S9, S1, 254 (literal), S2`;
compare: `cmp.lt.i32 K5, V1, V2` under the complement of K2; mask: `kxor K15, K1, K14`; system: `sset RNGCTR, V4
(pair)`; immediate: `sra.i16 V7, V8, -1`. -/
theorem test_decode_fields1 :
    reads
      0b000010_000110_011_0_0_0011_00000110_00001000_10_00001010_00_11111111_00_00000
      none
      (.rem ⟨3, false, none, 3, 6, 8, 2, 10, 0, 0xFF, 0, 0⟩) = true ∧
    reads
      0b000011_001011_000_1_1_0000_10001001_10000001_00_11111110_00_10000010_00_00000
      (some 0xF0)
      (.bfi ⟨0, true, some 0xF0, 0, 0x89, 0x81, 0, 254, 0, 0x82, 0, 0⟩) = true ∧
    reads
      0b000100_000000_000_0_0_0010_00000101_00000001_00_00000010_00_11111111_00_10010
      none
      (.cmp ⟨0, false, none, 2, 5, 1, 0, 2, 0, 0xFF, 0, 0b10010⟩) = true ∧
    reads
      0b000101_000010_000_1_0_0000_00001111_00000001_00_00001110_00_11111111_00_00000
      none
      (.kxor ⟨0, true, none, 0, 15, 1, 0, 14, 0, 0xFF, 0, 0⟩) = true ∧
    reads
      0b000110_000001_000_0_0_0000_11111111_00000100_00_00100001_00_11111111_00_00000
      none
      (.sset ⟨0, false, none, 0, 0xFF, 4, 0, 0x21, 0, 0xFF, 0, 0⟩) = true ∧
    reads
      0b000111_000111_100_0_0_0000_00000111_00001000_00_1111111111111111111111111
      none
      (.sraImm ⟨4, false, 0, 7, 8, 0, 0x1FFFFFF⟩) = true := by decide +kernel
/-- float: `fround.bf16.lo V3, V9` toward minus infinity; special: `vfcos.fp16.hi V3, V9`; conversion: `vcvt` from
source 1 to n32 (TOINT); cross-lane: exclusive `xscan.max.n32 V3, V9` over K7; random: `vrand V4` as fp32; scratchpad:
`st.s.rel.i16 [V9, S3, -2 elements], V4` at workgroup scope, streaming. -/
theorem test_decode_fields2 :
    reads
      0b001000_001110_101_0_0_0000_00000011_00001001_00_11111111_00_11111111_00_00011
      none
      (.fround ⟨5, false, none, 0, 3, 9, 0, 0xFF, 0, 0xFF, 0, 3⟩) = true ∧
    reads
      0b001001_000101_100_0_0_0000_00000011_00001001_00_11111111_00_11111111_00_00000
      none
      (.vfcos ⟨4, false, none, 0, 3, 9, 0, 0xFF, 0, 0xFF, 0, 0⟩) = true ∧
    reads
      0b001010_000000_001_0_0_0000_00000011_00001001_00_10000100_00_11111111_00_00000
      none
      (.vcvt ⟨1, false, none, 0, 3, 9, 0, 0x84, 0, 0xFF, 0, 0⟩) = true ∧
    reads
      0b001011_000110_001_0_0_0000_00000011_00001001_00_10000010_00_00000111_00_00000
      none
      (.xscan ⟨1, false, none, 0, 3, 9, 0, 0x82, 0, 7, 0, 0⟩) = true ∧
    reads
      0b001100_000000_000_0_0_0000_00000100_11111111_00_11111111_00_11111111_00_00001
      none
      (.vrand ⟨0, false, none, 0, 4, 0xFF, 0, 0xFF, 0, 0xFF, 0, 1⟩) = true ∧
    reads
      0b010001_000011_011_0_0_0000_00000100_00001001_00_10000011_00_1111111110_01001
      none
      (.stSRel ⟨3, false, none, 0, 4, 9, 0, 0x83, 0, 0x3FE, 0b01001⟩) = true := by decide +kernel
/-- uniform: `ld.u.b64 S5, [S2, S3]`; spill: `vfill` of 4 registers from V124 on; cache: `cinval [S2], S3` at device;
fence: `fence.ar` at gang scope; atomic: scratchpad `cas.n32`, release at workgroup scope; synchronisation: `rg.open
S5, S1, S2, S3` to write. -/
theorem test_decode_fields3 :
    reads
      0b010010_000000_101_1_0_0000_10000101_10000010_00_10000011_00_0000000000_00000
      none
      (.ldU ⟨5, true, none, 0, 0x85, 0x82, 0, 0x83, 0, 0, 0⟩) = true ∧
    reads
      0b010011_000011_000_0_0_0000_01111100_10000010_00_00000100_00_0000000000_00000
      none
      (.vfill ⟨0, false, none, 0, 124, 0x82, 0, 4, 0, 0, 0⟩) = true ∧
    reads
      0b010100_000001_000_1_0_0000_10000011_10000010_00_11111111_00_0000000000_00011
      none
      (.cinval ⟨0, true, none, 0, 0x83, 0x82, 0, 0xFF, 0, 0, 3⟩) = true ∧
    reads
      0b010100_000101_000_1_0_0000_11111111_11111111_00_11111111_00_11111111_00_00010
      none
      (.fenceAr ⟨0, true, none, 0, 0xFF, 0xFF, 0, 0xFF, 0, 0xFF, 0, 2⟩) = true ∧
    reads
      0b010110_100111_001_0_0_0000_00000100_00000101_00_00000110_00_00000111_00_00001
      none
      (.atomCas .scratch .rel ⟨1, false, none, 0, 4, 5, 0, 6, 0, 7, 0, 1⟩) = true ∧
    reads
      0b011000_000110_000_1_0_0000_10000101_10000001_00_10000010_00_10000011_00_00001
      none
      (.rgOpen ⟨0, true, none, 0, 0x85, 0x81, 0, 0x82, 0, 0x83, 0, 1⟩) = true := by decide +kernel
/-- copy engine: `ce.gatherrows S5, [S1], S2, S3` on TLC15; matrix engine: `mx.cancel S5, S1`; traversal unit:
`tv.resume [S1]`; raster unit: `rs.splat [S1], S3`; vision engine: `vis.refine [S1], S2, S3`. -/
theorem test_decode_fields4 :
    reads
      0b100000_000010_000_1_0_0000_10000101_10000001_00_10000010_00_10000011_00_01111
      none
      (.ceGatherrows ⟨0, true, none, 0, 0x85, 0x81, 0, 0x82, 0, 0x83, 0, 15⟩) = true ∧
    reads
      0b100001_000001_000_1_0_0000_10000101_10000001_00_11111111_00_11111111_00_00000
      none
      (.mxCancel ⟨0, true, none, 0, 0x85, 0x81, 0, 0xFF, 0, 0xFF, 0, 0⟩) = true ∧
    reads
      0b100010_000010_000_1_0_0000_11111111_10000001_00_11111111_00_11111111_00_00111
      none
      (.tvResume ⟨0, true, none, 0, 0xFF, 0x81, 0, 0xFF, 0, 0xFF, 0, 7⟩) = true ∧
    reads
      0b100011_000001_000_1_0_0000_11111111_10000001_00_11111111_00_10000011_00_00000
      none
      (.rsSplat ⟨0, true, none, 0, 0xFF, 0x81, 0, 0xFF, 0, 0x83, 0, 0⟩) = true ∧
    reads
      0b100100_000010_000_1_0_0000_11111111_10000001_00_10000010_00_10000011_00_00000
      none
      (.visRefine ⟨0, true, none, 0, 0xFF, 0x81, 0, 0x82, 0, 0x83, 0, 0⟩) = true := by decide +kernel
/-- Words of the manual's worked examples: `brc.z S4, -1`; `exit`; `fence.rel.rcv`; `rfe`; `sget S4, TIME`; `ld.u.acq.b32.dev
S4, [S2]`; `xmaxidx.fp16.lo V4, V1, WIDL, K0`; `atom.maxidx.s.n64 V12, S6, V4` under K3; `vdot4.i8 V4, V2, S8, V4`, V2 read for
the last time; `tv.pair.t4 S10, [S4]`. -/
theorem test_decode_examples :
    reads 0x041187FC21FE7F80 (some 0x00000000FFFFFFFF) (.brc { bw 0x84 0 0xFFFFFFFF with d := 0xFF }) = true ∧
    reads 0x047107FFF9FE7F80 none (.exit (ru 0 0xFF 0xFF 0xFF 0xFF)) = true ∧
    reads 0x504107FFF9FE7F85 none (.fenceRel (ru 0 0xFF 0xFF 0xFF 0xFF 5)) = true ∧
    reads 0x04C107FFF9FE7F80 none (.rfe (ru 0 0xFF 0xFF 0xFF 0xFF)) = true ∧
    reads 0x18010427F8067F80 none (.sget (ru 0 0x84 0xFF 0x03 0xFF)) = true ∧
    reads 0x4829042411FE0003 none (.ldUAcq ⟨4, true, none, 0, 0x84, 0x82, 0, 0xFF, 0, 0, 3⟩) = true ∧
    reads 0x2C86002009D40000 none (.xmaxidx (rv 3 4 1 0xEA 0)) = true ∧
    reads 0x5896186430087F80 none (.atomMaxidx .scratch .relaxed { rv 3 12 0x86 4 0xFF with pk := 3 }) = true ∧
    reads 0x283C002015100200 none (.vdot4 { rv 6 4 2 0x88 4 with actl := 2 }) = true ∧
    reads 0x8801045421FE7F84 none (.tvPair (ru 0 0x8A 0x84 0xFF 0xFF 4)) = true := by decide +kernel
/-- Cells that R90 and R91 do not list are illegal; reserved fields are refused by name, and so are an extension word that no
field reads and a field that reads a missing one. -/
theorem test_decode_refused :
    (match decode (0x0F <<< 52 ||| 1 <<< 58) none, decode (0x0D <<< 58) none, decode (0x0A <<< 52 ||| 0x15 <<< 58) none with
     | .error .illegalOpcode, .error .illegalOpcode, .error .illegalOpcode => true | _, _, _ => false) = true ∧
    (match decode 0x0800001749827F81 none, decode 0x0800801749827F80 (some 1), decode 0x0800000011FC7F80 none with
     | .error .illegalOpcode, _, _ => false | .error _, .error _, .error _ => true | _, _, _ => false) = true := by decide +kernel
/-! ## Single steps: the worked examples and tables of the manual -/

/-- The wave after an instruction on the bed whose wave f prepares, its results in flight delivered. -/
def ran (i : Instr) (f : Wave → Wave) : Option Wave :=
  match exec i (wave f) with
  | .next t => t.waves[0]?.map fun v => v.pend.foldl Wave.arrive v
  | _ => none
/-- V1, V2 and V3 hold x, y and z in every lane; the instruction leaves d in V4 in lanes 0 and 31, and FPFLAGS is fl. -/
def gives (i : Instr) (x y z d : Nat) (fl : Nat := 0) : Bool :=
  let all := BitVec.allOnes 32
  (ran i fun v => ((v.vput 1 all fun _ => BitVec.ofNat 32 x).vput 2 all fun _ => BitVec.ofNat 32 y).vput 3 all fun _ => BitVec.ofNat 32 z).any
    fun v => v.fpflags.toNat == fl && [0, 31].all fun i => (laneAt (v.vget 4).val i).toNat == d

/-- The table of R129 (chapter 5): division, high product, saturation (SAT is bit 5 of FPFLAGS, R41), absolute
differences. -/
theorem test_integer_table :
    gives (.div (rv 0 4 1 2 0xFF)) 0xFFFFFFF9 2 0 0xFFFFFFFD ∧ gives (.rem (rv 0 4 1 2 0xFF)) 0xFFFFFFF9 2 0 0xFFFFFFFF ∧
    gives (.div (rv 0 4 1 2 0xFF)) 7 0 0 0xFFFFFFFF ∧ gives (.rem (rv 1 4 1 2 0xFF)) 7 0 0 7 ∧
    gives (.div (rv 0 4 1 2 0xFF)) 0x80000000 0xFFFFFFFF 0 0x80000000 ∧ gives (.rem (rv 0 4 1 2 0xFF)) 0x80000000 0xFFFFFFFF 0 0 ∧
    gives (.mulh (rv 0 4 1 2 0xFF)) 0x80000000 0x80000000 0 0x40000000 ∧
    gives (.mulh (rv 1 4 1 2 0xFF)) 0xFFFFFFFF 0xFFFFFFFF 0 0xFFFFFFFE ∧
    gives (.adds (rv 6 4 1 2 0xFF)) 0x64646464 0x64646464 0 0x7F7F7F7F 32 ∧
    gives (.sad (rv 7 4 1 2 3)) 0x10FF0300 0x20000304 5 0x118 := by decide +kernel

/-- The examples of R130 and R131: bit fields, and a shift by 33. -/
theorem test_bit_table :
    gives (.bfe (rv 0 4 1 2 0xFF)) 0xF0F0 0x0404 0 0xFFFFFFFF ∧ gives (.bfe (rv 0 4 1 2 0xFF)) 0xF0F0 0x0804 0 0xF ∧
    gives (.bfi (rv 1 4 1 2 3)) 0 0xFF 0x0410 0x000F0000 ∧ gives (.shl (rv 0 4 1 2 0xFF)) 1 33 0 2 := by decide +kernel

/-- The example of chapter 6 (R144 to R146): NX is bit 4 of FPFLAGS (R41). -/
theorem test_float_table :
    gives (.fmul (rv 0 4 1 2 0xFF)) 0x3F800001 0x3F7FFFFE 0 0x3F800000 16 ∧ gives (.fadd (rv 0 4 1 2 0xFF)) 0x3F800000 0xBF800000 0 0 ∧
    gives (.fma (rv 0 4 1 2 3)) 0x3F800001 0x3F7FFFFE 0xBF800000 0xA8800000 ∧
    gives (.fminnum (rv 0 4 1 2 0xFF)) 0x7FC00000 0x80000000 0 0x80000000 ∧ gives (.fmax (rv 0 4 1 2 0xFF)) 0x80000000 0 0 0 := by
  decide +kernel

/-- R151: `vfexp2` of 3 and `vflog2` of 8 are exact and report nothing. -/
theorem test_special_exact :
    gives (.vfexp2 (rv 0 4 1 0xFF 0xFF)) 0x40400000 0 0 0x41000000 ∧ gives (.vflog2 (rv 0 4 1 0xFF 0xFF)) 0x41000000 0 0 0x40400000 := by
  decide +kernel

/-- The example of chapter 2: the four instructions, one after another, under K2 = 0xFFFF. -/
def lastRead (n : Nat) : Option Wave :=
  ([.addImm ⟨0, false, 0, 1, 233, 0, 1⟩, .addImm ⟨0, false, 2, 3, 1, 0, 10⟩, .add { rv 0 1 1 3 0xFF with pk := 2, actl := 2, bctl := 2 },
    .addImm ⟨0, false, 0, 6, 3, 0, 0⟩] : List Instr).take n |>.foldl (fun o i => o.bind fun v => ran i fun _ => v)
    (bed.waves[0]?.map fun v => { v with masks := Vector.ofFn fun i => if i.val = 2 then 0xFFFF else 0 })
theorem test_last_read :
    (lastRead 1).any (fun v => laneAt (v.vget 1).val 31 == 32 && v.vregs.length == 1) ∧
    (lastRead 2).any (fun v => laneAt (v.vget 3).val 15 == 26 && laneAt (v.vget 3).val 16 == 0 && v.vregs.length == 2) ∧
    (lastRead 3).any (fun v => laneAt (v.vget 1).val 15 == 42 && laneAt (v.vget 1).val 16 == 0 && v.vregs.length == 1) ∧
    (lastRead 4).any (fun v => laneAt (v.vget 6).val 0 == 0 && (v.vregs.map (·.1)).all [1, 6].contains && v.vregs.length == 2) := by
  decide +kernel

/-- The example of chapter 6: V2 holds lane + 0.5 in lanes 0 to 15 and twice the lane in the others; the sum is 880.0. -/
theorem test_reduction :
    (ran (.xred (rv 0 5 2 0x10 0)) fun v => v.vput 2 (BitVec.allOnes 32) fun i =>
      BitVec.ofNat 32 ([0x3F000000, 0x3FC00000, 0x40200000, 0x40600000, 0x40900000, 0x40B00000, 0x40D00000, 0x40F00000, 0x41080000,
        0x41180000, 0x41280000, 0x41380000, 0x41480000, 0x41580000, 0x41680000, 0x41780000, 0x42000000, 0x42080000, 0x42100000,
        0x42180000, 0x42200000, 0x42280000, 0x42300000, 0x42380000, 0x42400000, 0x42480000, 0x42500000, 0x42580000, 0x42600000,
        0x42680000, 0x42700000, 0x42780000].getD i 0)).any fun v => laneAt (v.vget 5).val 31 == 0x445C0000 := by
  decide +kernel

/-- The example of R203: lanes 0 to 3 add 1, 1, 2 and −2^24 to 2^24 in lane order; V8 holds the old values. -/
theorem test_atomic_fadd :
    (match exec (.atomFadd .global .relaxed (rv 0 8 2 4 0xFF)) { wave (fun v =>
        { (((v.vput 2 15 fun _ => 0x10400).vput 3 15 fun _ => 0).vput 4 15 fun i => BitVec.ofNat 32 ([0x3F800000, 0x3F800000, 0x40000000, 0xCB800000].getD i 0)) with
            frag0 := v.frag0.map fun f => { f with exec := 15, owned := 15 } }) with mem := Memory.write bed.mem 0x10400 (bytesOf 4 0x4B800000) } with
     | .next t => ofBytes (t.readPA none 0x10400 4) == 0x40000000 &&
         ((t.waves[0]?.map fun v => v.pend.foldl Wave.arrive v).any fun v =>
           (List.range 4).all fun i => (laneAt (v.vget 8).val i).toNat == [0x4B800000, 0x4B800000, 0x4B800000, 0x4B800001].getD i 0)
     | _ => false) = true := by decide +kernel

/-- The example of R305: the words of lanes 5 and 6 of a pair stored at offset 40 in the private window. -/
theorem test_private_window :
    (let s := launch (launch (launch (wave fun v => { v with priv := 3 }) 1024 64 0x0000400000000000) 992 32 64) 424 13 16
     has s fun k => k.privWords 5 40 8 == [(0x400000002914, 4), (0x400000002994, 4)] && k.privWords 6 40 8 == [(0x400000002918, 4), (0x400000002998, 4)]) =
      true := by decide +kernel

/-- The example of R417: the five indices of 0x0000123456789ABC, and what its leaf makes of it. -/
theorem test_translation :
    ((List.range 5).map fun lv => levelIndex lv 0x0000123456789ABC) = [0, 0x24, 0xD1, 0xB3, 0x189] ∧
    (let e : Word64 := 0x0000000A0023020D
     State.reset.malformed 3 4 e = false ∧ runLen (leafSize e) = 16 ∧
     leafPA e + 0x0000123456789ABC % 2 ^ pageBits (leafSize e) = 0x0000000A00239ABC) := by decide +kernel

/-- R42, R44: `trap 3` enters the handler: HMODE, CAUSE 0x18, FPC the instruction, the fragment at the handler. -/
theorem test_trap_enters_handler :
    (match exec (.trap (ru 0 0xFF 0xFF 0xFF 0xFF 3)) rbed with
     | .next t => t.waves[0]?.any fun v => v.hmode && v.fregs.fcause.toNat % 256 == 0x18 && v.fregs.fpc == 0x10000 &&
         v.frag0.any fun f => f.pc == 0x10800
     | _ => false) = true := by decide +kernel

/-- R114: a divergent `brv`: the taken lanes in slot 0 at the target, the others in slot 1 behind the 16 bytes. -/
theorem test_split :
    (ran (.brv (bw 1 1 4)) fun v => { v with masks := Vector.ofFn fun i => if i.val = 1 then 0xFFFF else 0 }).any (fun v =>
      v.split.isSome && v.frag0.any (fun f => f.exec == 0xFFFF && f.pc == 0x10020) && v.frag1.any fun f => f.exec == 0xFFFF0000 && f.pc == 0x10010) =
      true := by decide +kernel

/-- Vector and uniform forms of a rule table's instruction meet the hypotheses of `ElementWise`. -/
def elementWise (i : RWord → Instr) (s : State) (v u : RWord) : Bool :=
  (i v).wf && !v.u && (i u).wf && u.u &&
  has s (fun k => let m := k.active v.pk (modNP v.mod)
    clr k (k.vecUses v (intBits v.dt / 32)) (k.dst v.d (intBits v.dt / 32) m) && clr k (k.uniUses u) (k.dst u.d 1 0))

/-! ## The hypotheses of the statements are met -/

/-- IntegerArithmetic. -/
theorem met_IntegerArithmetic :
    arithRule (.adds (rv 4 4 1 2 0xFF)) = some (rv 4 4 1 2 0xFF, fun w sg x y _ =>
      if sg then (if x.saddOverflow y then (if x.msb then BitVec.intMin w else BitVec.intMax w, true) else (x + y, false))
      else (if x.uaddOverflow y then (BitVec.allOnes w, true) else (x + y, false))) ∧
    elementWise .mad rbed (rv 0 4 1 2 3) (ru 3 0x85 0x82 0x83 0xC1) = true ∧
    elementWise .adds rbed (rv 4 4 1 2 0xFF) (ru 0 0x85 0x82 0x83 0xFF) = true := by
  refine ⟨rfl, ?_, ?_⟩ <;> decide +kernel

/-- SumOfAbsoluteDifferences. -/
theorem met_SumOfAbsoluteDifferences : elementWise .sad rbed (rv 5 4 1 2 3) (ru 1 0x85 0x82 0x83 0xC1) = true := by decide +kernel

/-- LogicBitsAndImmediates. -/
theorem met_LogicBitsAndImmediates :
    elementWise .bfi rbed (rv 1 4 1 2 3) (ru 3 0x85 0x82 0x83 0xC1) = true ∧
    (Instr.addImm ⟨0, false, 0, 4, 1, 2, 100000⟩).wf = true ∧ (Instr.addImm ⟨3, true, 0, 0x85, 0x82, 2, 1⟩).wf = true ∧
    has rbed (fun k => clr k (k.use 1 2 1 (BitVec.allOnes 32)) (k.dst 4 1 (BitVec.allOnes 32)) &&
      clr k (k.use 0x82 2 1 0) (k.dst 0x85 1 0)) = true := by decide +kernel

/-- Select: both forms, with C a mask and C a scalar. -/
theorem met_Select :
    (Instr.sel (rv 1 4 1 2 5)).wf = true ∧ (Instr.sel (ru 3 0x85 0x82 0x83 0xC0)).wf = true ∧
    has rbed (fun k => let m := BitVec.allOnes 32
      clr k (k.use 1 0 1 m ++ k.use 2 0 1 m) (k.dst 4 1 m) && clr k (k.uniUses (ru 3 0x85 0x82 0x83 0xC0)) (k.dst 0x85 1 0)) =
      true := by decide +kernel

/-- CompareAndMasks: `cmp` in both forms; `kand`, `kmov` from a scalar and to one, `kpop`; and of a mask that the other
fragment's waiting `xvote` is going to write. -/
theorem met_CompareAndMasks :
    (Instr.cmp (rv 1 5 1 2 0xFF 1)).wf = true ∧ (Instr.cmp (ru 0 5 0x82 0x83 0xFF 2)).wf = true ∧
    has rbed (fun k => let m := BitVec.allOnes 32
      clr k (k.use 1 0 1 m ++ k.use 2 0 1 m) [] && clr k (k.use 0x82 0 1 0 ++ k.use 0x83 0 1 0) []) = true ∧
    (Instr.kand (ru 0 5 1 2 0xFF)).wf = true ∧ (Instr.kmov (ru 0 5 0x82 0xFF 0xFF 1)).wf = true ∧
    (Instr.kmov (ru 0 0x85 3 0xFF 0xFF 2)).wf = true ∧ (Instr.kpop (ru 0 0x85 3 0xFF 0xFF)).wf = true ∧
    has rbed (fun k => clr k [] [] && clr k (k.use 0x82 0 1 0) [] && clr k [] (k.dst 0x85 1 0) && !k.maskHeld 3) = true ∧
    has (wave (splitWave (.rollcall (.xvote (rv 0 3 1 0xFF 0)) (BitVec.allOnes 32) []))) (fun k =>
      k.maskHeld 3 && clr k [] (k.dst 0x85 1 0)) = true := by decide +kernel

/-- SpecialRegisters: `sget` of a plain register, of one of the handler in the handler, in both forms; each `sset`; the
refused ones. -/
theorem met_SpecialRegisters :
    (Instr.sget (rv 0 4 0xFF 0x02 0xFF)).wf = true ∧ (Instr.sget (ru 0 0x84 0xFF 0x30 0xFF)).wf = true ∧
    (Instr.sset (ru 0 0xFF 0x83 0x00 0xFF)).wf = true ∧ (Instr.sset (ru 0 0xFF 0x83 0x05 0xFF)).wf = true ∧
    (Instr.sset (ru 0 0xFF 0x83 0x20 0xFF)).wf = true ∧ (Instr.sset (ru 0 0xFF 0x83 0x30 0xFF)).wf = true ∧
    (Instr.sset (rv 0 0xFF 2 0x21 0xFF)).wf = true ∧ (Instr.sset (ru 0 0xFF 0x83 0x38 0xFF)).wf = true ∧
    handlerOnly 0x02 = false ∧ handlerOnly 0x30 = true ∧
    has rbed (fun k => let m := BitVec.allOnes 32
      !k.wv.hmode && clr k [] (k.dst 4 1 m) && clr k [] (k.dst 0x84 1 0) && clr k (k.use 0x83 0 1 0) [] &&
      clr k (k.use 2 0 2 m) []) = true ∧
    has (wave (handlerWave 0x07)) (fun k => k.wv.hmode && clr k [] (k.dst 0x84 1 0) && clr k (k.use 0x83 0 1 0) []) = true := by
  decide +kernel

/-- The bed with bank control; bank 1 of cluster 0 is locked, and bank 2 holds the region of another launch. -/
def banks (n : Word64) : State :=
  let s := launch (wave fun v => (regs v).sput 2 n) 400 1 1
  { s with clusters := s.clusters.modify 0 fun c =>
      { c with locks := [{ cmd := 0, bank := 1, write := true }],
               regions := [{ launch := 7, wg := 0, wsb := 2 * 262144, size := 64, area := 0 }] } }
/-- `bk.mode S5, S2` to mode 2. -/
def bkWord : RWord := ru 0 0x85 0x82 0xFF 0xFF 2

/-- A fragment waits with `bk.mode` for bank 31 in slot `sl` of the wave. -/
def bankWaits (sl : Nat) (s : State) : State :=
  s.setWave 0 fun v =>
    let f := fun (x : Frag) => { x with st := .unit (.bkMode { bkWord with d := if sl = 0 then 0x85 else 0x86 }) (.bankMode 31 2) }
    if sl = 0 then { v with frag0 := v.frag0.map f } else
      { v with frag0 := v.frag0.map (fun x => { x with age := 9 }), frag1 := v.frag0.map f }
/-- BankModes: a free bank (31, the last), one that keeps its mode, a bank that leaves FIFO, no grant, a bank past the last,
one of another launch, a locked one, one that an earlier `bk.mode` waits for, and one whose wait is over. -/
theorem met_BankModes :
    (Instr.bkMode bkWord).wf = true ∧ bankCount 0 = 32 ∧ bankModeOf 2 = .fifo ∧ bankModeOf 0 = .cache ∧
    (Instr.bkMode { bkWord with mod := 0 }).wf = true ∧
    ([(31 : Word64), 32, 1].all fun n => has (banks n) fun k => k.l.bankctl && clr k (k.use 0x82 0 1 0) (k.dst 0x85 1 0) &&
      k.scalSrc 0 none 64 0x82 == n.toNat && !(banks n).bankOfOther 0 n.toNat k.wv.launch && !(banks n).bankQueued k n.toNat) ∧
    ((banks 31).clusters[0]?.any fun c => c.locks.all (fun x => x.bank != 31) && c.modes.getD 31 .fifo == .cache) = true ∧
    has (bankWaits 1 (banks 31)) (fun k => k.l.bankctl && clr k (k.use 0x82 0 1 0) (k.dst 0x85 1 0) &&
      (bankWaits 1 (banks 31)).bankQueued k 31 && !(bankWaits 1 (banks 31)).bankOfOther 0 31 k.wv.launch) = true ∧
    has (banks 2) (fun k => k.l.bankctl && clr k (k.use 0x82 0 1 0) (k.dst 0x85 1 0) && (banks 2).bankOfOther 0 2 k.wv.launch) =
      true ∧
    has rbed (fun k => !k.l.bankctl) = true ∧
    (let s := bankWaits 0 (banks 31)
     (s.waiter 0 0).any (fun k => resumes k (k.use 0x82 0 1 0) (k.dst 0x85 1 0) && !s.bankQueued k 31 &&
       !s.bankOfOther 0 31 k.wv.launch) = true) := by decide +kernel

/-- BranchesAndCalls: `bra`; `brc` on S3 = 9 (nonzero: code 1 holds, code 0 does not) and on EXEC (code 5 holds);
`call`, and `ret` and `jmpi` with A = 0x10040 and with A = 9. -/
theorem met_BranchesAndCalls :
    (Instr.bra (bw 0xFF 0 3)).wf = true ∧ (Instr.brc (bw 0x83 0 3 1)).wf = true ∧ (Instr.brc (bw 0x83 0 3 0)).wf = true ∧
    (Instr.brc (bw 0 0 3 5)).wf = true ∧ (Instr.call { bw 0xFF 0 (-1) with d := 0xBF }).wf = true ∧
    (Instr.ret (ru 0 0xFF 0x82 0xFF 0xFF)).wf = true ∧ (Instr.jmpi (ru 0 0xFF 0x83 0xFF 0xFF)).wf = true ∧
    has rbed (fun k => trp k && clr k (k.use 0x83 0 1 0) [] && clr k [] [] && clr k [] (k.dst 0xBF 1 0) &&
      clr k (k.use 0x82 0 1 0) [] && k.scalSrc 0 none 64 0x83 == 9 && k.scalSrc 0 none 64 0x82 % 8 == 0 &&
      decide (k.kread 0 &&& k.fr.exec = k.fr.exec)) = true := by decide +kernel

/-- A wave in its handler with a stack of n entries of token `tok`, K1 = 0x0F0, and `sp` spilled entries. -/
def stacked (n : Nat) (tok : BitVec 16) (running : Bool) (sp : Nat) : State :=
  let e : StackEntry := { tok := tok, running := running, dpc := 0x10100, dmask := 0xFF, rmask := BitVec.allOnes 32, rpc := none }
  launch (launch (wave fun v =>
    let h := handlerWave 0x18 (v.kwrite (BitVec.allOnes 32) 1 (BitVec.allOnes 32) 0xF0)
    { h with frag0 := h.frag0.map fun f => { f with stack := List.replicate n e, spilled := sp } }) 1024 64 0x10200) 424 13 2

/-- DivergenceAndStack: no lane, every lane and some lanes branch; the wave splits, pushes onto a stack with one place
left, onto a full one with a reserved entry left, and with none left. -/
theorem met_DivergenceAndStack :
    (Instr.brv (bw 1 7 4)).wf = true ∧ (Instr.brv (bw 1 7 4 1)).wf = true ∧ (Instr.brv (bw 0 7 4)).wf = true ∧
    has rbed (fun k => k.fr.exec &&& k.kread 1 == 0 && k.fr.exec &&& ~~~(k.kread 0) == 0 && !k.wv.hmode && !k.wv.isSplit) ∧
    has (wave fun v => v.kwrite 0 1 (BitVec.allOnes 32) 0xF0) (fun k =>
      k.fr.exec &&& k.kread 1 != 0 && k.fr.exec &&& ~~~(k.kread 1) != 0 && !k.wv.hmode && !k.wv.isSplit) ∧
    ([15, 16].all fun n => has (stacked n 3 false 1) fun k => k.fr.exec &&& k.kread 1 != 0 && k.fr.exec &&& ~~~(k.kread 1) != 0 &&
      k.wv.hmode && k.fr.stack.length == n && decide (k.fr.spilled < k.l.stkres) && k.fr.stack.getLast?.isSome &&
      (match (stacked n 3 false 1).stackSpan k .write
          ((k.l.priv + k.wv.priv * k.l.privWave + 32 * k.l.privSize + 32 * (k.slot * k.l.stkres + k.fr.spilled)) % 2 ^ 64) with
       | .ok _ => true | .error _ => false)) ∧
    has (launch (wave (splitWave .ready)) 424 13 0) (fun k => k.wv.isSplit && decide (k.l.stkres ≤ k.fr.spilled) && trp k) := by
  decide +kernel

/-- A full stack without a reserved entry left, in a split wave outside the handler. -/
def fullStack : State :=
  let e : StackEntry := { tok := 3, running := false, dpc := 0, dmask := 1, rmask := 1, rpc := none }
  wave fun v =>
    let x := (splitWave .ready v).kwrite (BitVec.allOnes 32) 1 (BitVec.allOnes 32) 0xF0
    { x with frag0 := x.frag0.map fun f => { f with stack := List.replicate 16 e } }
theorem met_DivergenceAndStack_full :
    has fullStack (fun k => k.fr.exec &&& k.kread 1 != 0 && k.fr.exec &&& ~~~(k.kread 1) != 0 && k.wv.isSplit &&
      k.fr.stack.length == 16 && k.fr.stack.getLast?.isSome && decide (k.l.stkres ≤ k.fr.spilled) && trp k) = true := by decide +kernel

/-- JoinsAndMerges: a PENDING top entry, a RUNNING one with and without spilled ones below it, another token; and the
split token reached first and second. -/
theorem met_JoinsAndMerges :
    (Instr.join (bw 0xFF 3 0)).wf = true ∧ (Instr.join (bw 0xFF 7 0)).wf = true ∧
    has (stacked 1 3 false 0) (fun k => k.fr.stack.length == 1 && k.fr.spilled == 0) ∧
    has (stacked 2 3 true 0) (fun k => k.fr.stack.length == 2 && k.fr.spilled == 0) ∧
    has (stacked 1 3 true 1) (fun k => k.fr.stack.length == 1 && k.fr.spilled == 1 &&
      (match (stacked 1 3 true 1).stackRead k k.slot 0 with | .ok _ => true | .error _ => false)) ∧
    has rbed (fun k => k.fr.stack == [] && k.wv.split.isNone) ∧
    ([FragState.ready, .splitwait (some 0x10010)].all fun st => has (wave (splitWave st)) fun k =>
      k.slot == 0 && k.fr.stack == [] && k.wv.split == some { tok := 7, rmask := BitVec.allOnes 32, parent := 0 } &&
      (match k.wv.frag 1 with | some g => g.st == st && g.stack == [] && g.spilled == 0 | none => false) && k.fr.spilled == 0) := by
  decide +kernel

/-- ExitSleepAndNoEffect: lanes of K1 exit and others run on, every lane exits, and a wave exits in its handler; `tsleep`
until TIME 0, until TIME 9, and with a recess pending; its wake; `nop`, `yield`, `ckpt`. -/
theorem met_ExitSleepAndNoEffect :
    (Instr.exit { ru 0 0xFF 0xFF 0xFF 0xFF with pk := 1 }).wf = true ∧ (Instr.exit (ru 0 0xFF 0xFF 0xFF 0xFF)).wf = true ∧
    has (wave fun v => v.kwrite 0 1 (BitVec.allOnes 32) 0xF0) (fun k => !k.wv.hmode && k.fr.spilled == 0 &&
      (unwindRule (k.fr.owned &&& ~~~k.active 1 false) [] (k.fr.exec &&& ~~~k.active 1 false) 0 0).2.1 != 0) ∧
    has rbed (fun k => !k.wv.hmode && k.wv.split.isNone && k.fr.owned &&& ~~~k.active 0 false == 0) ∧
    has (wave (handlerWave 0x18)) (fun k => k.wv.hmode) ∧
    (Instr.tsleep (ru 0 0x85 0xC0 0xFF 0xFF)).wf = true ∧ (Instr.tsleep (ru 0 0x85 0x83 0xFF 0xFF 1)).wf = true ∧
    has rbed (fun k => clr k (k.use 0xC0 0 1 0) (k.dst 0x85 1 0) && clr k (k.use 0x83 0 1 0) (k.dst 0x85 1 0) &&
      k.scalSrc 0 none 64 0xC0 == 0 && k.scalSrc 0 none 64 0x83 == 9) ∧
    has (launch (wave fun v => { regs v with recess := true }) 386 2 1) (fun k => k.wv.recess && (recessAny k.l || recessDeclared k.l)) ∧
    ((wave fun v => { v with frag0 := v.frag0.map fun f => { f with st := .sleep (.tsleep (ru 0 0x85 0xC0 0xFF 0xFF)) 0 } }).waiter 0 0).any
      (fun k => resumes k [] (k.dst 0x85 1 0)) ∧
    (Instr.nop (ru 0 0xFF 0xFF 0xFF 0xFF)).wf = true ∧ (Instr.ckpt (ru 0 0xFF 0xFF 0xFF 0xFF)).wf = true ∧
    has rbed (fun k => !k.wv.recess) := by decide +kernel

/-- TrapInstruction: a trap and a breakpoint, outside the handler and in it, with lanes and without. -/
theorem met_TrapInstruction :
    (Instr.trap (ru 0 0xFF 0xFF 0xFF 0xFF 15)).wf = true ∧ (Instr.trap (ru 0 0xFF 0xFF 0xFF 0xFF 3)).wf = true ∧
    has rbed trp ∧ has (wave fun v => { v with frag0 := v.frag0.map fun f => { f with exec := 0 } }) trp ∧
    has (wave (handlerWave 0x18)) (fun k => k.wv.hmode && k.wv.hslot == k.slot) := by decide +kernel

/-- HandlerEntryAndReturn: a fragment outside the handler, the handler's own, the other one while it runs, and a launch
without a handler; `rfe` in the handler to an aligned FPC, with and without a trap kept for the other fragment, to a
misaligned one, and outside it. -/
theorem met_HandlerEntryAndReturn :
    has rbed trp ∧ has (wave (handlerWave 0x18)) (fun k => k.wv.hmode && k.wv.hslot == k.slot && k.l.hentry != 0) ∧
    (match (wave fun v => { splitWave .ready v with hmode := true }).ctxOf 0 1 with
     | some k => k.wv.hmode && k.wv.hslot != 1 && k.l.hentry != 0 | none => false) = true ∧
    has (launch rbed 64 64 0) (fun k => k.l.hentry == 0) ∧ (Instr.rfe (ru 0 0xFF 1 0xFF 0xFF)).wf = true ∧
    has (wave (handlerWave 0x18)) (fun k => k.wv.hmode && k.wv.fregs.fpc.toNat % 8 == 0 && k.wv.pendTrap.isNone) ∧
    has (wave fun v => { splitWave .ready v with hmode := true, hslot := 0, pendTrap := some (1, v.fregs) }) (fun k =>
      k.wv.hmode && k.wv.fregs.fpc.toNat % 8 == 0 && k.slot == 0 && (match k.wv.pendTrap with | some x => x.1 == 1 | none => false) &&
      match k.wv.frag 1 with | some g => g.st == .ready | none => false) ∧
    has (wave fun v => let h := handlerWave 0x18 v; { h with fregs := { h.fregs with fpc := 0x10004 } }) (fun k =>
      k.wv.hmode && k.wv.fregs.fpc.toNat % 8 == 4) := by decide +kernel

/-- A wave whose job has a card with CLMAX = 1 and a context save area that its agent may write. -/
def savable (w : Wave → Wave) : State :=
  { launch (wave w) 1792 64 0x20000 with
    jobs := [(0, { card := BitVec.ofNat 1024 (2 ^ 448), loaded := true, loadTime := 0, nextRel := 0, skipNext := false, skipTail := 0,
                   deferred := [], hold := [], overflow := false, lastCkctl := false })]
    tlb := [{ agent := 422, part := 0, vbase := 0, size := 2 ^ 30, leaf := 0x91D }] }

/-- RecessTrapAndOk: a recess pending at a `ckpt` under DECLARED and at a boundary under ANY, while a record of the job runs,
of a sleeper, with and without a context save area; `recessok` outside a handler, with a result on its way, and with and
without a save area. -/
theorem met_RecessTrapAndOk :
    let w := fun (v : Wave) => { regs v with recess := true }
    let asleep := fun (v : Wave) =>
      { w v with frag0 := v.frag0.map fun f => { f with st := .sleep (.tsleep (ru 0 0x85 0xC0 0xFF 0xFF)) 5 } }
    let area := fun (s : State) (k : Ctx) => (s.saveAcms k.l.job k.cl).isSome
    let declared := launch (savable w) 386 2 0
    let any := launch (savable w) 386 2 1
    let lost := launch (wave w) 386 2 0
    has declared (fun k => trp k && !k.l.checked && k.wv.recess && recessDeclared k.l && !declared.recordsRun k.l.job k.cl true &&
      area declared k) ∧
    has lost (fun k => trp k && !k.l.checked && k.wv.recess && recessDeclared k.l && !lost.recordsRun k.l.job k.cl true &&
      !area lost k) ∧
    has any (fun k => trp k && k.recessDue && !any.recordsRun k.l.job k.cl (recessDeclared k.l) && area any k &&
      k.wv.status == .resident) ∧
    has (launch (savable asleep) 386 2 0) (fun k => trp k && k.recessDue && resumes k [] (k.dst 0x85 1 0)) ∧
    has (wave (handlerWave 0x10)) (fun k => k.wv.hmode && field k.wv.fregs.fcause.toNat 0 8 == 0x10 && k.wv.pend.isEmpty &&
      !k.l.checked && ((wave (handlerWave 0x10)).saveWave k.wv).isNone) ∧
    has (wave fun v => { handlerWave 0x10 v with pend := [{ vec := [], sca := none, flags := 0, poison := none }] })
      (fun k => k.wv.hmode && !k.wv.pend.isEmpty) ∧
    has (savable (handlerWave 0x10)) (fun k => k.wv.pend.isEmpty &&
      (((savable (handlerWave 0x10)).saveWave k.wv).any fun t => t.dirty.isEmpty) &&
      [0, 1].all fun sl => match k.wv.frag sl with | some g => g.st == .ready | none => true) ∧
    (Instr.recessok (ru 0 0xFF 0xFF 0xFF 0xFF)).wf = true := by decide +kernel


/-- DeferredTrapsAndResults: a deferred trap of another cause than RECESS, and an arriving result with a vector and a
scalar; one with uncorrectable data needs no more than its mark. -/
theorem met_DeferredTrapsAndResults :
    has (wave fun v => { regs v with deferred := [(0x16, 3)] }) (fun k => trp k && !k.l.checked &&
      k.wv.nextDeferred == some (0x16, 3)) ∧
    (let p : Pending := { vec := [(1, 3, Vector.replicate 32 7), (2, 1, Vector.replicate 32 8)], sca := some (3, 1), flags := 1, poison := none }
     (p.vec.map (·.1)).Nodup ∧ has rbed fun k => (k.wv.vregs.lookup 2).isSome && (k.wv.sregs.lookup 3).isSome &&
       [0, 1].all fun sl => match k.wv.frag sl with | some g => g.st == .ready | none => true) := by
  decide +kernel

/-- FloatingPoint: vector and scalar forms of the rounding instructions, `fclass` and `fcmp` with every type. -/
theorem met_FloatingPoint :
    ([0, 1, 2, 3, 4, 5, 6].all fun dt =>
      let f := rv dt 4 1 2 3 4
      let g := rv dt 4 1 0xFF 0xFF
      (Instr.fma f).wf && (Instr.fclass g).wf &&
      has rbed fun k => let m := BitVec.allOnes 32
        clr k (k.fltUses f) (k.dst 4 1 m) && clr k (k.fltUses g) (k.dst 4 1 m)) ∧
    (let u := ru 0 0x85 0x82 0x83 0xFF
     (Instr.fmul u).wf = true ∧ has rbed fun k => clr k (k.uniUses u) (k.dst 0x85 1 0)) ∧
    (Instr.fcmp (rv 6 5 1 2 0xFF 7)).wf = true ∧
    has rbed (fun k => clr k (k.use 1 0 1 (BitVec.allOnes 32) ++ k.use 2 0 1 (BitVec.allOnes 32)) []) := by decide +kernel

/-- SpecialFunctionsAndRandom: with active lanes and with none (K1 is 0); `vrand` in both forms. -/
theorem met_SpecialFunctionsAndRandom :
    (let f := rv 0 4 1 0xFF 0xFF
     let g := { f with pk := 1 }
     (Instr.vfrsq f).wf = true ∧ (Instr.vfrsq g).wf = true ∧
     has rbed (fun k => k.active 0 false != 0 && clr k (k.fltUses f) (k.dst 4 1 (k.active 0 false)) &&
       k.active 1 false == 0 && clr k (k.fltUses g) (k.dst 4 1 0)) = true) ∧
    (Instr.vrand (rv 0 4 0xFF 0xFF 0xFF)).wf = true ∧ (Instr.vrand (rv 0 4 0xFF 0xFF 0xFF 1)).wf = true ∧
    has rbed (fun k => clr k [] (k.dst 4 4 (BitVec.allOnes 32))) := by decide +kernel

/-- ConversionsAndSlots: to an integer and to a float; slot 0 (fp32, unscaled) fits index 0 and does not fit index 1 or a
scale; slot 1 is made invalid. -/
theorem met_ConversionsAndSlots :
    (let f := rv 0 4 1 0x80 0xFF
     let g := rv 0 4 1 0x00 0xFF
     (Instr.vcvt f).wf = true ∧ f.cvtToInt = true ∧ (Instr.vcvt g).wf = true ∧ g.cvtToInt = false ∧
     has rbed fun k => clr k (k.use 1 0 1 (BitVec.allOnes 32)) (k.dst 4 1 (BitVec.allOnes 32))) ∧
    (let s := launch rbed 160 32 31
     let f := rv 0 4 1 0xFF 0
     (Instr.vcvtfTo f).wf = true ∧ (Instr.vcvtfTo { f with c := 1 }).wf = true ∧ (Instr.vcvtfFrom { f with b := 2 }).wf = true ∧
     (Instr.vcvtfTo { f with dt := 1 }).wf = true ∧
     has s fun k => trp k && slotInvalid (k.l.slot 1) && !slotInvalid (k.l.slot 0) && perLane (slotFmt (k.l.slot 0)) == 1 &&
       slotSmode (k.l.slot 0) == 0 &&
       clr k (k.use 1 0 1 (BitVec.allOnes 32) ++ k.use 0xFF 0 1 (BitVec.allOnes 32)) (k.dst 4 1 (BitVec.allOnes 32))) := by
  decide +kernel

/-- DotProducts. -/
theorem met_DotProducts :
    (let f := rv 6 4 1 2 3 1
     let g := rv 1 4 1 2 3 4
     (Instr.vdot4 f).wf = true ∧ (Instr.vdot2 g).wf = true ∧
     has rbed fun k => clr k (k.fltUses f) (k.dst 4 1 (BitVec.allOnes 32)) && clr k (k.fltUses g) (k.dst 4 1 (BitVec.allOnes 32))) := by
  decide +kernel

/-- CrossLane: every lane of an unsplit wave takes part. -/
theorem met_CrossLane :
    (let m := BitVec.allOnes 32
     let owns := fun (k : Ctx) => k.kread 0 == m && m &&& ~~~k.wv.lanes == 0 && m &&& k.wv.exited == 0 && m &&& ~~~k.fr.owned == 0 &&
       m &&& ~~~k.fr.exec == 0 && !k.mateInRoll
     (Instr.xshfl (rv 1 4 1 2 0)).wf = true ∧ (Instr.xrot (rv 1 4 1 0x83 0)).wf = true ∧ (Instr.xbcast (rv 3 4 2 0x83 0)).wf = true ∧
     (Instr.xballot (rv 0 4 1 0xFF 0)).wf = true ∧ (Instr.xred (rv 0 4 1 1 0)).wf = true ∧ (Instr.xscan (rv 2 4 2 0x85 0)).wf = true ∧
     (Instr.xmatch (rv 1 4 1 0xFF 0)).wf = true ∧ (Instr.xmaxidx (rv 3 4 1 2 0)).wf = true ∧
     (Instr.xred (rv 0 4 1 0x10 0 4)).wf = true ∧ (Instr.xscan (rv 1 4 1 0x94 0)).wf = true ∧ (Instr.xvote (rv 0 5 1 0xFF 0 2)).wf = true ∧
     (rv 0 4 1 1 0).xopInt = true ∧ (rv 0 4 1 0x10 0).xopInt = false ∧
     has rbed fun k => owns k && clr k (k.use 1 0 1 m ++ k.use 2 0 1 m) (k.dst 4 2 m) && clr k (k.use 1 0 1 m) (k.dst 4 1 m) &&
       clr k (k.use 2 0 2 m ++ k.use 0x83 0 1 m) (k.dst 4 2 m) && clr k [] []) := by decide +kernel

/-- RollCallsAndTraps: K1 holds no lane of the fragment, K2 lanes of both, K3 lanes of its own that are not in EXEC; the
other fragment runs, waits in roll call at the same address, and waits at the split; K5 holds lanes of its own alone; and a
lane of K0 has exited. -/
def rolls (st : FragState) : State :=
  wave fun v =>
    let all := BitVec.allOnes 32
    let x := splitWave st v
    let y := { x with masks := Vector.ofFn fun i => if i.val = 1 then 0xF0000000 else if i.val = 2 then 0x00010001
                                                    else if i.val = 3 then 0x00000003 else if i.val = 5 then 5 else all }
    { y with frag0 := y.frag0.map fun f => { f with exec := 0xFFFD } }
theorem met_RollCallsAndTraps :
    (let i := fun (c : BitVec 8) => Instr.xballot (rv 0 4 1 0xFF c)
     (i 1).wf = true ∧ (i 2).wf = true ∧ (i 3).wf = true ∧
     has (rolls .ready) (fun k => k.slot == 0 && k.kread 1 &&& k.fr.owned == 0 && k.kread 2 &&& k.fr.owned != 0 &&
       k.kread 2 &&& k.fr.owned &&& ~~~k.fr.exec == 0 && k.kread 2 &&& ~~~k.fr.owned != 0 && !k.wv.hmode &&
       clr k [] (k.dst 4 1 1) && trp k && k.kread 3 &&& k.fr.owned &&& ~~~k.fr.exec != 0 && !k.rollMate (k.kread 3)) ∧
     has (rolls (.rollcall (i 2) 0x00010001 [4])) (fun k =>
       clr { k with wv := k.wv.withdrawRoll 1 } [] (k.dst 4 1 1) &&
       (match k.wv.frag 1 with | some g => g.pc == k.fr.pc | none => false) &&
       trp k && clr k [] (k.dst 4 1 5) && k.mateInRoll && !k.rollMate (k.kread 5) && k.kread 5 &&& k.wv.gone == 0 &&
       k.kread 5 &&& k.fr.owned == 5 && k.kread 5 &&& ~~~k.fr.exec == 0) ∧ (i 5).wf = true ∧
     has (rolls (.splitwait none)) (fun k => k.rollClash && !k.rollMate (k.kread 2) && clr k [] (k.dst 4 1 1)) ∧
     has (wave fun v => { splitWave .ready v with exited := 1 }) (fun k => trp k && k.kread 0 &&& k.wv.exited != 0)) := by
  decide +kernel


/-- A memory word: type, D, A, B, byte offset. -/
def mv (dt : BitVec 3) (d a b : BitVec 8) (off : BitVec 10 := 0) : MWord := ⟨dt, false, none, 0, d, a, 0, b, 0, off, 0⟩
/-- A uniform one. -/
def mu (dt : BitVec 3) (d a b : BitVec 8) (off : BitVec 10 := 0) : MWord := ⟨dt, true, none, 0, d, a, 0, b, 0, off, 0⟩
/-- `State.PlainLanes`, computed. -/
def plain (s : State) (rs : List LaneRes) : Bool :=
  rs.all fun r => r.bad.isNone && r.spans.all fun sp => match sp.place with
    | .phys pa leaf _ => !outbound pa && !leafCK leaf && s.domains.all fun d => d.logbase + 40 != pa
    | _ => false
theorem plain_spec {s : State} {rs : List LaneRes} (h : plain s rs = true) : s.PlainLanes rs := by
  intro r hr
  have h1 := List.all_eq_true.mp h r hr
  simp only [Bool.and_eq_true, Option.isNone_iff_eq_none, List.all_eq_true] at h1
  refine ⟨h1.1, fun sp hsp => ?_⟩
  have h2 := h1.2 sp hsp
  split at h2
  · rename_i pa leaf pr hp
    simp only [Bool.and_eq_true, Bool.not_eq_true', List.all_eq_true, bne_iff_ne] at h2
    exact ⟨pa, leaf, pr, hp, h2.1.1, h2.1.2, h2.2⟩
  · cases h2
/-- `Apart` of every two, computed. -/
def apart (rs : List LaneRes) : Bool :=
  decide (rs.Pairwise fun r r2 => r.spans.all (fun sp => r2.spans.all fun sp2 =>
    match sp.pa?, sp2.pa? with | some a, some b => decide (a + sp.n ≤ b) || decide (b + sp2.n ≤ a) | _, _ => true) = true)
/-- Nothing makes the access wait: `memBegin` answers a state. -/
def begins (s : State) (k : Ctx) (write board fresh : Bool) (rs : List LaneRes) : Bool :=
  match s.memBegin k write board fresh rs with | .ok _ => true | .error _ => false
/-- `State.RaceFree`, computed. -/
def raceFree (s : State) (k : Ctx) (kind : Acc) (rs : List LaneRes) : Bool :=
  !k.l.checked || (k.l.serial.isNone && (s.racePairs k.w).isEmpty &&
    (match s.recordAll k kind rs with | some s1 => (s1.racePairs k.w).isEmpty | none => true) &&
    decide ((s.setOf k.l k.wv.wgKey).length + (rs.flatMap fun r => r.spans.flatMap Span.setWords).length ≤ 4096))
/-- `LaneRes.Buffered` of every lane, computed. -/
def buffered (rs : List LaneRes) : Bool :=
  rs.all fun r => match r.spans with
    | [sp] => (match sp.place with | .phys pa _ false => !outbound pa | _ => false)
    | _ => false
/-- Its launch is checked; its launch is deterministic with 64 KiB of write buffer. -/
def checkedBed (s : State) : State := launch s 397 1 1
def determBed (s : State) : State :=
  let t := launch (launch s 398 1 1) 1408 32 65536
  { t with launches := t.launches.map fun l => { l with snap := s.mem } }
/-- The bed with a scratchpad of 1024 bytes in bank 0, in SCRATCH, and bank 1 in FIFO holding two words. -/
def sbed : State :=
  let s := launch (launch (wave fun v => (regs v).sput 5 4) 960 32 1024) 1120 32 2
  { s with clusters := s.clusters.modify 0 fun c =>
      { c with modes := (c.modes.set 0 .scratch).set 1 .fifo, fifos := [(1, [11, 12])],
               regions := [{ launch := 0, wg := 0, wsb := 0, size := 1024, area := 0 }] } }

/-- AddressChecks: an aligned address of the bed's page; 2^56; a misaligned one; an unmapped page (with the partition's
tables at 0, empty); and a page without the right. -/
theorem met_AddressChecks :
    has rbed (fun k =>
      (match rbed.xlate k.part (coreAgents k.wv.core) 0x10FFC with
       | .ok pa leaf _ _ => pa == 0x10FFC && rbed.permitted k.part .read false leaf pa 4 && !outbound pa && !k.l.determ
       | .fault _ _ => false) &&
      (match rbed.xlate k.part (coreAgents k.wv.core) 0x11000 with | .ok _ _ _ _ => false | .fault _ _ => true)) = true ∧
    rbed.l1 = [] ∧ rbed.copies = [] ∧ 0x10FFE % 4 ≠ 0 ∧ 0xFFFDFFFFFFFFFC % 4 = 0 ∧ 0xFFFDFFFFFFFFFC < 0xFFFE0000000000 ∧
    (let s := { rbed with tlb := rbed.tlb.map fun t => { t with leaf := 0x10015 } }
     has s fun k => match s.xlate k.part (coreAgents k.wv.core) 0x10040 with
       | .ok pa leaf _ _ => !s.permitted k.part .write false leaf pa 4 | .fault _ _ => false) := by decide +kernel

/-- Loads: every element type, global, scratch and uniform, with and without acquire; no active lane; and a checked launch. -/
theorem met_Loads :
    (let fine := fun (s : State) (f : MWord) (sp : MemSpace) (acq : Bool) => has s fun k =>
       let rs := s.lanesFor k f sp .read (!acq)
       (rs.all fun r => r.bad.isNone) && begins s k false (sp != .uniform) (acq && decide (2 ≤ k.scope (mod3 f.mod))) rs &&
       raceFree s k .read rs && (!acq || !k.scopeBarred (mod3 f.mod)) && s.regs.isEmpty &&
       clr k (k.memUses f sp) (if sp = .uniform then k.dst f.d 1 0 else k.dst f.d (widRegs f.dt) (k.active f.pk false))
     ([0, 1, 2, 3, 4, 5, 6].all fun dt => let f := mv dt 8 0x84 0xFF 16
       (Instr.ldG f).wf && (Instr.ldGAcq { f with mod := 3 }).wf && fine rbed f .global false &&
       fine rbed { f with mod := 3 } .global true && fine rbed { f with pk := 1 } .global false) ∧
     fine (checkedBed rbed) (mv 4 8 0x84 0xFF 16) .global true ∧
     (Instr.ldS (mv 4 8 0x83 4 (-9))).wf = true ∧ fine sbed (mv 4 8 4 0xFF) .scratch false ∧
     (Instr.ldU (mu 5 0x88 0x82 0xFF)).wf = true ∧ fine rbed (mu 5 0x88 0x82 0xFF) .uniform false ∧
     fine rbed (mu 5 0x88 0x82 0xFF) .uniform true) := by decide +kernel

/-- What `Stores` asks of a store, computed, with a property of its lanes. -/
def storeFine (s : State) (f : MWord) (sp : MemSpace) (p : State → List LaneRes → Bool) : Bool :=
  has s fun k =>
    let rs := s.lanesFor k f sp .write false
    (rs.all fun r => r.bad.isNone) && begins s k true true true rs && raceFree s k .write rs && p s rs &&
    !k.scopeBarred (mod3 f.mod) && !s.ckOutstanding k.w && s.regs.isEmpty && clr k (k.memUses f sp ++ k.dataUses f sp) []
/-- The lanes lie apart in plain memory. -/
def plainApart (s : State) (rs : List LaneRes) : Bool := plain s rs && apart rs
/-- StoresAndScratch, in a checked and in a deterministic launch. -/
theorem met_StoresAndScratch_launches :
    storeFine (checkedBed rbed) (mv 4 1 0x82 4) .global plainApart = true ∧
    storeFine (determBed rbed) (mv 4 1 0x82 4) .global (fun _ rs => buffered rs) = true ∧
    storeFine (determBed rbed) (mu 0 0x83 0x82 0xFF) .uniform (fun _ rs => buffered rs) = true := by decide +kernel
/-- StoresAndScratch: lanes that store apart, and all to one address; a uniform store; scratch stores of every lane and of
one. -/
theorem met_StoresAndScratch :
    (Instr.stG (mv 4 1 0x82 4)).wf = true ∧ (Instr.stGRel { mv 4 1 0x82 4 with mod := 5 }).wf = true ∧
    storeFine rbed { mv 4 1 0x82 4 with mod := 5 } .global (fun s rs => plainApart s rs && rs.length == 32) = true ∧
    storeFine rbed (mv 4 1 0x82 0xFF) .global (fun s rs => plain s rs && !apart rs) = true ∧
    (Instr.stU (mu 0 0x83 0x82 0xFF)).wf = true ∧ storeFine rbed (mu 0 0x83 0x82 0xFF) .uniform plainApart = true ∧
    rbed.poison = [] ∧ (rbed.clusters.all fun c => c.spoison.isEmpty) = true ∧
    (let f := mv 4 1 4 0xFF
     (Instr.stS f).wf = true ∧ has sbed fun k =>
       let rs := sbed.lanesFor k f .scratch .write false
       (rs.all fun r => r.bad.isNone) && rs.length == 32 && !sbed.memBlocked k true true rs && raceFree sbed k .write rs &&
       !k.scopeBarred 5 && !sbed.ckOutstanding k.w && clr k (k.memUses f .scratch ++ k.dataUses f .scratch) []) ∧
    (let f := { mv 4 1 0x85 0xFF 254 with pk := 2 }
     let s := sbed.setWave 0 fun v => v.kwrite 0 2 (BitVec.allOnes 32) 0x80000000
     (Instr.stS f).wf = true ∧ has s fun k =>
       let rs := s.lanesFor k f .scratch .write false
       match rs with
       | [r] => r.bad.isNone && r.lane == 31 && (match r.spans with
           | [sp] => (match sp.place with | .scr c a _ => c == 0 && a == 1020 | _ => false) | _ => false)
       | _ => false) := by decide +kernel

/-- MemoryFaultsAndWaits: lanes that pass the page's end fail and the others do not; a lock makes a load and a store wait;
tokens in flight make a store wait; and nothing does. -/
theorem met_MemoryFaultsAndWaits :
    (let s := wave fun v => (regs v).sput 2 0x10FC0
     has s fun k => trp k && clr k (k.memUses (mv 4 8 0x82 4) .global) (k.dst 8 1 (BitVec.allOnes 32)) &&
       (let bads := (s.lanesFor k (mv 4 8 0x82 4) .global .read true).filter fun r => r.bad.isSome
        bads.length == 16 && (bads.map (·.lane)).headD 0 == 16 && bads.all fun r => match r.bad with | some (c, _, _) => c != 0x0E | none => true) &&
       (s.lanesFor k (mv 4 8 0x82 4) .global .write false).any fun r => r.bad.isSome) = true ∧
    (let s := { sbed with clusters := sbed.clusters.modify 0 fun c => { c with locks := [{ cmd := 0, bank := 0, write := true }] } }
     has s fun k => (s.lanesFor k (mv 4 8 4 0xFF) .scratch .read true).all (fun r => r.bad.isNone) &&
       s.memBlocked k false true (s.lanesFor k (mv 4 8 4 0xFF) .scratch .read true) &&
       s.memBlocked k true true (s.lanesFor k (mv 4 8 4 0xFF) .scratch .write false) &&
       clr k (k.memUses (mv 4 8 4 0xFF) .scratch) (k.dst 8 1 (BitVec.allOnes 32))) ∧
    (let s := { rbed with
       clusters := rbed.clusters.map fun c => { c with joined := true, selfTest := true, power := .active }
       tokMsgs := [.response 0x401 none 128 true 0] }
     has s fun k =>
       let rs := s.lanesFor k (mu 4 0x83 0x82 0xFF) .uniform .write false
       let us := s.lineUses k true true rs
       (rs.all fun r => r.bad.isNone) && !s.memBlocked k true true rs && us.map (·.line) == [0x401] &&
       (us.all fun u => s.tokensHold u.h true u.line && u.h == some (.cluster 0)) && s.joinedIn (.cluster 0) &&
       !s.homeStopped (some (.cluster 0)) && !s.ckOutstanding k.w) ∧
    has rbed (fun k =>
      let rs := rbed.lanesFor k (mv 4 8 0x84 0xFF 16) .global .read true
      !rbed.memBlocked k false true rs && !(rbed.lineUses k false false rs).any (fun u => rbed.tokensHold u.h false u.line) &&
      rbed.proctor.resets.isEmpty && rbed.regs.isEmpty &&
      match rbed.chargeOf k.wv.launch with | some c => (rbed.budgetOf c).1 == 0 | none => false) := by decide +kernel


/-- What `Atomics` asks of a global n32 atomic at the addresses in field a, computed, with a property of its lanes. -/
def atomFine (s : State) (a : BitVec 8) (p : State → List LaneRes → Bool) : Bool :=
  has s fun k =>
    let rs := s.resolve k .global .atomic { priv := false, card := false } 4 (lanesOf (BitVec.allOnes 32)) fun lane =>
      k.addrOf none true a lane
    (rs.all fun r => r.bad.isNone && r.spans.length == 1) && begins s k true true true rs && raceFree s k .atomic rs &&
    p s rs && rs.length == 32 && !k.scopeBarred 2 && !s.ckOutstanding k.w &&
    clr k (k.use a 0 2 (BitVec.allOnes 32) ++ k.use 1 0 1 (BitVec.allOnes 32)) (k.dst 8 1 (BitVec.allOnes 32))
/-- V6 and V7 hold the addresses of a word for each lane. -/
def atomBed : State := wave fun w => (regs w).vput 6 (BitVec.allOnes 32) fun i => BitVec.ofNat 32 (0x10040 + 4 * i)
/-- AtomicsEverywhere, in a checked and in a deterministic launch. -/
theorem met_AtomicsEverywhere_launches :
    atomFine (checkedBed atomBed) 0x82 plain = true ∧ atomFine (determBed atomBed) 6 (fun _ rs => buffered rs) = true := by
  decide +kernel
/-- AtomicsEverywhere: an atomic of every lane on its own word, and a scalar one. -/
theorem met_AtomicsEverywhere :
    (let f := rv 1 8 0x82 1 0xFF 2
     let v := rv 1 8 6 1 0xFF 2
     let s := atomBed
     (Instr.atomAdd .global .ar f).wf = true ∧ (Instr.atomCas .global .relaxed (rv 0 0xFF 6 1 2)).wf = true ∧
     (Instr.atomFadd .global .rel (rv 0 8 0x82 1 0xFF 5)).wf = true ∧
     atomFine s 0x82 plain = true ∧ atomFine s 6 plain = true ∧
     s.copies = [] ∧ s.regs = [] ∧ OpField.isV v.d = true) ∧
    (let u := ru 3 0x88 0x82 0x83 0xFF
     (Instr.atomMaxidx .scalar .relaxed u).wf = true ∧ [rbed, determBed rbed].all fun s => has s fun k =>
       let rs := s.resolve k .uniform .atomic { priv := false, card := false } 8 [0] fun _ => k.addrOf none false u.a 0
       (if k.l.determ then buffered rs else plain s rs) && begins s k true true true rs && clr k (k.uniUses u) (k.dst 0x88 1 0)) := by
  decide +kernel

/-- The scratch atomic of one lane at a naturally aligned element. -/
theorem met_AtomicsEverywhere_scratch :
    (let s := sbed.setWave 0 fun w => ((w.vput 7 (BitVec.allOnes 32) fun _ => 1016).vput 6 (BitVec.allOnes 32) fun _ => 1).kwrite 0 2
       (BitVec.allOnes 32) 0x80000000
     let f := { rv 3 8 7 4 0xFF with pk := 2 }
     (Instr.atomMaxidx .scratch .relaxed f).wf = true ∧ has s fun k =>
       lanesOf (k.active 2 false) == [31] && !k.scopeBarred 0 &&
       clr k (k.use 7 0 1 0x80000000 ++ k.use 4 0 1 0x80000000) (k.dst 8 2 0x80000000) &&
       match s.resolve k .scratch .atomic { priv := false, card := false } 8 [31] fun l => k.addrOf none false 7 l with
       | [r] => r.lane == 31 && r.bad.isNone && !s.memBlocked k true true [r] && raceFree s k .atomic [r] &&
           r.spans == [{ place := .scr 0 1016 false, va := 1016, n := 8 }]
       | _ => false) = true := by decide +kernel

/-- A line of the bed's page that cluster 0 holds dirty. -/
def dirtyBed : State :=
  { rbed with dirty := [{ line := 0x401, holder := .cluster 0, home := 77, charge := none }],
              tokens := [{ line := 0x401, holder := .cluster 0, n := 128, owner := true, way := 0 }] }

/-- FencesAndMaintenance: each fence, barred in a deterministic launch at system scope, held by a CK write, and free; and
maintenance of no byte, of one dirty line and past it. -/
theorem met_FencesAndMaintenance :
    (Instr.fenceAcq (ru 0 0xFF 0xFF 0xFF 0xFF 4)).wf = true ∧ (Instr.fenceRel (ru 0 0xFF 0xFF 0xFF 0xFF 5)).wf = true ∧
    (Instr.fenceAr (ru 0 0xFF 0xFF 0xFF 0xFF 2)).wf = true ∧
    has (launch rbed 398 1 1) (fun k => k.scopeBarred 4 && trp k && !k.l.checked) ∧ has rbed (fun k => !k.scopeBarred 5 && !rbed.ckOutstanding k.w && raceFree rbed k .read []) ∧
    has (checkedBed rbed) (fun k => raceFree (checkedBed rbed) k .read []) ∧
    (({ rbed with ckPend := [{ part := 0, d := 0, line := 1, old := 0, wave := some 0 }] } : State).ckOutstanding 0) = true ∧
    (Instr.pref (mv 0 0xFF 0x82 4)).wf = true ∧
    has rbed (fun k => clr k (k.addrUses (mv 0 0xFF 0x82 4) true (k.active 0 false)) []) ∧
    (let f := { mu 0 0x83 0x82 0xFF with mod := 3 }
     (Instr.cclean f).wf = true ∧ (Instr.cflush f).wf = true ∧ (Instr.cinval f).wf = true ∧ dirtyBed.regs = [] ∧
     has dirtyBed fun k => clr k (k.use 0x82 0 1 0 ++ k.use 0xFF 0 1 0 ++ k.use 0x83 0 1 0) [] && k.cl == 0 &&
       k.scalSrc 0 none 64 0x83 == 9 && k.laneAddr f false 64 0 == 0x10040 && dirtyBed.maintLines k 0x10040 9 == [(0x401, true)] &&
       dirtyBed.maintLines k 0x10040 0 == []) := by decide +kernel

/-- `State.SpillsAll`, computed. -/
def spills (s : State) (k : Ctx) (f : MWord) (m : Word32) (n : Nat) : Nat → Bool
  | 0 => true
  | left + 1 =>
    let j := n - (left + 1)
    let rs := s.spillLanes k .write (k.spillBase f) j m
    (rs.all fun r => r.bad.isNone) &&
    spills (rs.foldl (fun a r => a.laneWrite k r (k.vlane (f.d.toNat + j) r.lane)) (s.clearCovered rs)) k f m n left

/-- FifosSpillAndFill: push with room and onto a full bank, pop of two words and of too many, in vector and uniform form;
a push that waited; a spill and a fill of two registers. -/
theorem met_FifosSpillAndFill :
    (let s := sbed.setWave 0 fun v => ((v.sput 5 1).kwrite 0 2 (BitVec.allOnes 32) 0x80000001)
     let f : MWord := { mv 4 8 0x85 0xFF with pk := 2 }
     let u : MWord := mu 5 0x88 0x85 0xFF
     (Instr.fqPush f).wf = true ∧ (Instr.fqPop f).wf = true ∧ (Instr.fqPop u).wf = true ∧
     (match s.clusters[0]? with
      | some c => (c.fifos.lookup 1) == some [11, 12] && c.modes.getD 1 .cache == .fifo && c.locks.isEmpty && c.fpoison.isEmpty
      | none => false) = true ∧
     has s (fun k => bitOf k.l.banks 1 && k.scalSrc 0 none 64 0x85 == 1 && popcount (k.active 2 false) == 2 &&
       clr k (k.use 0x85 0 1 0 ++ k.use 8 0 1 (k.active 2 false)) [] && clr k (k.use 0x85 0 1 0) (k.dst 8 1 (k.active 2 false)) &&
       clr k (k.use 0x85 0 1 0) (k.dst 0x88 1 0)) ∧
     (let t := s.setWave 0 fun v => { v with frag0 := v.frag0.map fun x =>
        { x with st := .unit (.fqPush f) (.fifo 1 true 2 0x80000001 [1, 2]) } }
      (t.waiter 0 0).any fun k => resumes k (k.use 0x85 0 1 0 ++ k.use 8 0 1 0x80000001) [] && bitOf k.l.banks 1)) ∧
    2 + 65534 ≤ 65536 ∧ 65536 < 2 + 65535 ∧
    (let f : MWord := mv 0 1 0x84 2
     (Instr.vspill f).wf = true ∧ (Instr.vfill f).wf = true ∧ [rbed, checkedBed rbed].all fun s => has s fun k =>
       let m := k.active f.pk false
       let at_ := fun (st : State) (kind : Acc) (j : Nat) => st.spillLanes k kind (k.spillBase f) j m
       m != 0 && k.spillStart == 0 && plain s (at_ s .write 0) && plain s (at_ s .write 1) &&
       apart (at_ s .write 0 ++ at_ s .write 1) &&
       ([Acc.write, Acc.read].all fun kind =>
         let good := s.spillGood k kind (k.spillBase f) m 2 2
         match s.memBegin k (kind == .write) true (kind == .write) good with
         | .ok s0 => (match s0.recordAll k kind good with
             | some s1 => if kind == .write then spills s1 k f m 2 2 else [0, 1].all fun j => (at_ s1 .read j).all fun r => r.bad.isNone
             | none => false)
         | .error _ => false) &&
       clr k (k.use 0x84 0 1 0 ++ k.use 1 0 2 m) [] && clr k (k.use 0x84 0 1 0) (k.dst 1 2 m)) := by
  decide +kernel

/-- The translation is in a TLB. -/
def inTlb (s : State) (p : Nat) (ag : List Nat) (va : Nat) : Bool := (s.tlbHit p ag va).isSome
theorem xlate_mem {s : State} {p : Nat} {ag : List Nat} {va : Nat} (h : inTlb s p ag va = true) (mem : List Host.Cell) :
    ({ s with mem := mem } : State).xlate p ag va = s.xlate p ag va := by
  obtain ⟨t, ht⟩ := Option.isSome_iff_exists.mp h
  have ht2 : ({ s with mem := mem } : State).tlbHit p ag va = some t := ht
  unfold State.xlate
  rw [ht, ht2]
theorem spillLanes_mem {s : State} {k : Ctx} {kind : Acc} {b j : Nat} {m : Word32} (mem : List Host.Cell)
    (h : ((lanesOf m).all fun lane => (spillAddr b j lane / 2 ^ 40 != 0xFFFF) && inTlb s k.part (coreAgents k.wv.core) (spillAddr b j lane)) = true) :
    ({ s with mem := mem } : State).spillLanes k kind b j m = s.spillLanes k kind b j m := by
  have e : ∀ lane ∈ lanesOf m, ({ s with mem := mem } : State).laneGlobal k kind ⟨true, false⟩ 4 lane (spillAddr b j lane) =
      s.laneGlobal k kind ⟨true, false⟩ 4 lane (spillAddr b j lane) := by
    intro lane hl
    have h1 := List.all_eq_true.mp h lane hl
    simp only [Bool.and_eq_true, bne_iff_ne] at h1
    have h2 := xlate_mem h1.2 mem
    simp only [State.laneGlobal, State.translateAll, State.access, List.map_cons, List.map_nil, h2]
    split
    · rfl
    · split
      · rename_i h3 h4
        simp only [field] at h4
        omega
      · rfl
  unfold State.spillLanes State.resolve
  rw [List.map_congr_left e]
  rfl
/-- The spill's addresses do not depend on memory: the bed's page is in the TLB. -/
theorem met_FifosSpillAndFill_spill :
    has rbed (fun k => [0, 1].all fun j => (lanesOf (k.active 0 false)).all fun lane =>
      let a := spillAddr (k.spillBase (mv 0 1 0x84 2)) j lane
      (a / 2 ^ 40 != 0xFFFF) && inTlb rbed k.part (coreAgents k.wv.core) a) = true := by decide +kernel

/-- CountersAndBarriers: counter 15 at 2^64 - 9, to which 9 or 0 is added; one that a stream port drives; `tl.wait` for 9
on a counter at 9 and at 8; a barrier whose wave is the only one, and one of a gang of two waves. -/
theorem met_CountersAndBarriers :
    (let s := fun (n : Nat) => { rbed with launches := rbed.launches.map fun l => { l with tlc := l.tlc.set 15 (BitVec.ofNat 64 n) } }
     let f := ru 0 0x85 0x83 15 0xFF
     (Instr.tlInc f).wf = true ∧ (Instr.tlWait f).wf = true ∧ (Instr.tlRead (ru 0 0x85 0xFF 15 0xFF)).wf = true ∧
     (Instr.tlInc { f with a := 0xC0 }).wf = true ∧
     (s (2 ^ 64 - 9)).tlcVal 0 15 + 9 = 2 ^ 64 ∧ (s (2 ^ 64 - 10)).tlcVal 0 15 + 9 < 2 ^ 64 ∧ (s 9).tlcVal 0 15 = 9 ∧ (s 8).tlcVal 0 15 = 8 ∧
     (s 9).commandsOf 0 = false ∧
     has (s 9) (fun k => trp k && k.l.tlcsrc 15 == 0 && !k.l.checked && clr k (k.use 0x83 0 1 0) (k.dst 0x85 1 0) &&
       clr k (k.use 0xC0 0 1 0) (k.dst 0x85 1 0) && k.scalSrc 0 none 64 0x83 == 9) ∧
     has (checkedBed (s 9)) (fun k => raceFree (checkedBed (s 9)) k .read []) ∧
     (let t := (s 9).setWave 0 fun v => { v with frag0 := v.frag0.map fun x => { x with st := .unit (.tlWait f) (.tlWait 15 9) } }
      (t.waiter 0 0).any fun k => resumes k (k.use 0x83 0 1 0) (k.dst 0x85 1 0)) ∧
     has (launch (s 9) 1788 4 1) (fun k => k.l.tlcsrc 15 != 0)) ∧
    (let i := Instr.bar (ru 0 0xFF 0xFF 0xFF 0xFF)
     i.wf = true ∧ [rbed, checkedBed rbed, determBed rbed].all fun s => has s fun k =>
       raceFree s k .read [] && k.wv.status == .resident && s.barSet 0 0 0 (k.l.barKind false) == [0] &&
       (layerConflicts (s.waveUnits 0 0 0 k.l)).isEmpty) ∧
    (let s := { rbed with waves := rbed.waves ++ rbed.waves.map fun v => { v with widx := 1, wslot := 1 } }
     has s fun k => s.barSet 0 0 0 (k.l.barKind true) == [0, 1] && (s.waves.all fun v => !v.arrived k.l (k.l.barKind true))) := by
  decide +kernel

/-- A task ring of `cap` entries at 0x10400 with its header at 0x10040: HEAD 0, TAIL 4. -/
def ringBed (cap : Nat) : State :=
  { rbed with mem := Memory.write [] 0x10040 (bytesOf 64 (0x10400 + cap * 2 ^ 64 + 4 * 2 ^ 192)) }

/-- TaskSpawn: 32 lanes on a ring of 64 entries, and on one of 32 without room. -/
theorem met_TaskSpawn :
    (let f := { rv 0 4 8 0x82 5 with pk := 1 }
     let s := fun (cap : Nat) => (ringBed cap).setWave 0 fun v => v.kwrite 0 1 (BitVec.allOnes 32) 0x80000001
     (Instr.spawn f).wf = true ∧ (Instr.spawn { f with mod := 1 }).wf = true ∧
     ([4, 8].all fun cap => has (s cap) fun k =>
       let act := k.active 1 false
       let hs := (s cap).spawnAccess k .read 64 (lanesOf act) fun _ => k.svalue 0x82
       let es := (s cap).spawnAccess k .write 32 (lanesOf act) fun lane => 0x10400 + 32 * ((4 + memberIndex act lane) % cap)
       let ts := (s cap).spawnAccess k .write 8 (lanesOf act) fun _ => k.svalue 0x82 + 24
       act != 0 && trp k && clr k (k.use 8 0 8 act ++ k.use 0x82 0 1 0) (k.dst 4 1 act) && (hs.all fun r => r.bad.isNone) &&
       raceFree (s cap) k .read [] &&
       (match hs.head?, (s cap).memBegin k false true true hs with
        | some r, .ok s0 => ((ringOf (s0.laneRead k true r)).map fun h => (h.cap, h.head, h.tail, h.tlcen)) == some (cap, 0, 4, false) &&
            begins s0 k true true true (es ++ ts)
        | _, _ => false) &&
       plain (s cap) (es ++ ts) && apart (es ++ ts.take 1)) ∧
     has (determBed (s 8)) (fun k => k.l.determ && trp k) ∧
     (s 8).inst? 0 = none) := by decide +kernel

/-- RangeGrants: a free table and one whose 64 handles are taken; a conflict, also of a fragment that waits; and the close
of a grant of the wave and of another. -/
theorem met_RangeGrants :
    (let f := ru 0 0x85 0x82 0x83 0xC4 1
     let g : Grant := { handle := 0, cl := 0, wave := 0, base := 0x10040, stride := 0, count := 1, width := 4, write := true, part := 0 }
     let full := { rbed with grants := (List.range 64).map fun h => { g with handle := h, base := 0x20000, write := false, wave := 1 } }
     (Instr.rgOpen f).wf = true ∧ (Instr.rgClose (ru 0 0xFF 0xC0 0xFF 0xFF)).wf = true ∧
     grantFaulty 0x10040 0 1 4 = false ∧ grantFaulty (0x00FFFE0000000000 - 64) 64 1 64 = false ∧
     grantFaulty (0x00FFFE0000000000 - 63) 64 1 64 = true ∧ g.conflicts { g with base := 0x10043, write := false } = true ∧
     g.conflicts { g with base := 0x10044 } = false ∧
     ((List.range 64).all fun h => full.grants.any fun x => x.cl == 0 && x.handle == h) = true ∧
     has (wave fun v => (regs v).sput 3 (2 ^ 32)) (fun k => !k.l.checked && !k.l.determ && trp k &&
       clr k (k.use 0x82 0 1 0 ++ k.use 0x83 0 1 0 ++ k.use 0xC4 0 1 0) (k.dst 0x85 1 0) && k.scalSrc 0 none 64 0x83 == 2 ^ 32 &&
       k.scalSrc 0 none 64 0xC4 == 4 && clr k (k.use 0xC0 0 1 0) [])) := by decide +kernel

/-- Recovery domain 7 of partition 0, without a checkpoint. -/
def dom7 : Domain :=
  { part := 0, d := 7, logbase := 0x40000, logsize := 0x10000, rcp := 3, openCk := 0, state := 0, noundo := false, tornf := false,
    reason := 0, sealtime := 0, tornck := 0, req := 0, busy := false, tags := [], undo := [], seals := [], outlog := [],
    outlost := 0, outCount := 0 }

/-- CheckpointsAndWrites: checkpoint 4 is opened and sealed; 3 is not after the sealed one; without the grant; domain 8;
and a CK write that is the first of its line, and one behind another to its line. -/
theorem met_CheckpointsAndWrites :
    (let s := fun (x : Domain) => launch { rbed with domains := [x] } 401 1 1
     let b := ru 0 0xFF 0xC7 0xC4 0xFF
     let c := ru 0 0x85 0xC7 0xC4 0xFF
     (Instr.ckBegin b).wf = true ∧ (Instr.ckSeal c).wf = true ∧
     has (s dom7) (fun k => k.l.ckctl && !k.l.determ && trp k && k.scalSrc 0 none 64 0xC7 == 7 && k.scalSrc 0 none 64 0xC4 == 4 &&
       clr k (k.use 0xC7 0 1 0 ++ k.use 0xC4 0 1 0) [] && clr k (k.use 0xC7 0 1 0 ++ k.use 0xC4 0 1 0) (k.dst 0x85 1 0)) ∧
     (s dom7).domain? 0 7 = some dom7 ∧ (s { dom7 with openCk := 4 }).domain? 0 7 = some { dom7 with openCk := 4 } ∧
     (s dom7).ckOutstanding 0 = false ∧ (s dom7).persistDown = false ∧ has rbed fun k => !k.l.ckctl) ∧
    (let w : CkWrite := { part := 0, d := 7, line := 9, old := 5, wave := none }
     let s := { rbed with domains := [dom7], ckPend := [w, { w with line := 10 }, w] }
     s.ckPend[0]? = some w ∧ s.ckPend[2]? = some w ∧ s.ckPend[3]? = none ∧ s.domain? 0 7 = some dom7 ∧ ¬ (9 : Nat) ∈ dom7.tags ∧
     dom7.logbase % 64 = 0 ∧ s.persistDown = false ∧ (s.persistReads [9]).2 = true ∧ (s.persistReads []).2 = true ∧
     s.ckBuf.length + 2 ≤ 131072 ∧ ∀ r ∈ s.regs, r.held = [] ∧ r.slice = []) := by
  decide +kernel


/-! ### Engines -/

/-- The bed on core `core`, with a page of 1 GiB for its core, its cluster and the DMA agents, the layout table of 8 records
at 0x30000, a scratchpad of 64 KiB in bank 0, every format slot `fs`, and the lines that the commands read in the system cache. -/
def ebed (core fs : Nat) : State :=
  let page := fun (a : Nat) => ({ agent := a, part := 0, vbase := 0, size := 2 ^ 30, leaf := 0x91D } : TlbEntry)
  let s0 := launch (launch (launch (wave fun v => { regs v with core := core }) 1152 64 0x30000) 1216 24 8) 960 32 65536
  let s := (List.range 8).foldl (fun s i => launch s (128 + 32 * i) 32 fs) s0
  { s with
      tlb := [page core, page (256 + core / 4), page 418, page 419, page 420, page 422]
      sys := [0x40, 0x80, 0xC00, 0xC01, 0xC04].map fun n => { line := n, way := 0, part := 0, dirty := false, charge := none }
      launches := s.launches.map fun l => { l with gangs := l.gangs.map fun g => { g with cls := [core / 4] } }
      clusters := s.clusters.modify (core / 4) fun c =>
        { c with modes := c.modes.set 0 .scratch, regions := [{ launch := 0, wg := 0, wsb := 0, size := 65536, area := 0 }] } }
/-- A state with n bytes of v at an address of memory. -/
def put (s : State) (a n v : Nat) : State := { s with mem := Memory.write s.mem a (bytesOf n v) }
/-- A layout record (R236): element width code, scratch, PAD, base, dimensions with their allocation. -/
def layrec (ew : Nat) (scr : Bool) (pad base : Nat) (dims : List (Nat × Nat)) : Nat :=
  dims.length + ew * 2 ^ 4 + (if scr then 2 ^ 7 else 0) + pad * 2 ^ 16 + base * 2 ^ 64 +
  (dims.zipIdx.map fun p => p.1.1 * 2 ^ (128 + 40 * p.2) + p.1.2 * 2 ^ (148 + 40 * p.2)).sum
/-- The state with one more command: posting word, descriptor, its address, handles. -/
def addCmd (s : State) (i : Instr) (desc : Nat) (hb hc : Word64) : State :=
  match s.ctxOf 0 0 with
  | some k => { s with cmds := s.cmds ++ [Cmd.fresh k i (engineOf i).1 (s.cmds.length + 1) 1 (s.cmds.length + 1) desc 0x4000 hb hc] }
  | none => s
/-- The first command has the property. -/
def cmd0 (s : State) (p : Cmd → Bool) : Bool := match s.cmds with | c :: _ => p c | [] => false
/-- `Cmd.Unstarted`, computed. -/
def fresh (c : Cmd) : Bool :=
  c.st == .queued && !c.begun && !c.ran && c.prog == 0 && c.count == 0 && c.step == 0 && c.code == 0 && c.todo.isEmpty &&
  c.rows.isEmpty && c.out.isEmpty && !c.blocked
/-- An engine word: D = S6, A = S4. -/
def ew (dt : BitVec 3) (a b c : BitVec 8) (mod : BitVec 5 := 1) : RWord := ru dt 0x86 a b c mod
/-- A tile-sequencer record (R243): operation and fields, each a value and its bit. -/
def record (op : Nat) (l : List (Nat × Nat)) : Nat := op + (l.map fun p => p.1 * 2 ^ p.2).sum
/-- An `mm` record: M = N = 1, KSTEP 32, NSTEP 1, RING 1, slots at 0x1000 and 0x2000. -/
def mmRec (op : Nat) : Nat := record op [(1, 14), (1, 15), (32, 80), (1, 96), (1, 112), (64, 160), (64, 192), (0x1000, 224), (0x2000, 288)]

/-- EnginePosting: every posting word on its cluster, by issue and after a wait for room; one without room, one without the
engine, one at a misaligned address, one on a counter that a port drives; `mx.status` and `mx.cancel` on both kinds. -/
theorem met_EnginePosting :
    (let m := ebed 0 1
     let g := ebed 8 1
     let words : List (Bool × Instr) := [(true, .ceCopy (ew 0 0x84 0xC0 0xC1)), (true, .ceFill (ew 0 0x84 0xFF 0xC1)),
       (true, .ceGatherrows (ew 0 0x84 0xC0 0xC1)), (true, .mxPost (ew 2 0x84 0xFF 0xFF)),
       (false, .tvPair (ew 0 0x84 0xFF 0xFF)), (false, .tvBox (ew 0 0x84 0xFF 0xFF)), (false, .tvResume (ew 0 0x84 0xFF 0xFF)),
       (false, .rsTri (ew 0 0x84 0xFF 0xC1)), (false, .rsSplat (ew 0 0x84 0xFF 0xC1)), (false, .visFlow (ew 0 0x84 0xC0 0xC1)),
       (false, .visDisp (ew 0 0x84 0xC0 0xC1)), (false, .visRefine (ew 0 0x84 0xC0 0xC1))]
     (words.all fun x => let s := if x.1 then m else g
       x.2.wf && has s fun k => let e := engineOf x.2
         let rs := s.descRead k 0x10080 e.2
         hasEngine k.cl e.1 && k.l.tlcsrc 1 == 0 && s.engineRoom k x.2 && trp k && (rs.all fun r => r.bad.isNone) &&
         begins s k false false true rs && (e.1 != .tsq || !slotInvalid (k.l.slot 2)) &&
         clr k (k.use 0x84 0 1 0 ++ k.use 0xC0 0 1 0 ++ k.use 0xC1 0 1 0) (k.dst 0x86 1 0)) ∧
     (Instr.lrFlush (ew 0 0x84 0xFF 0xFF)).wf = true ∧ (engineOf (.lrFlush (ew 0 0x84 0xFF 0xFF))).2 = 0 ∧
     hasEngine 2 .tsq = false ∧ hasEngine 0 .tvu = false ∧ 0x10040 % 64 = 0 ∧ 9 % 64 ≠ 0 ∧
     (let full := (List.range 64).foldl (fun s _ => addCmd s (.ceFill (ew 0 0x84 0xFF 0xC1)) 0 0 0) m
      has full fun k => !full.engineRoom k (.ceFill (ew 0 0x84 0xFF 0xC1))) ∧
     (let f := ew 0 0x84 0xC0 0xC1
      let t := m.setWave 0 fun v => { v with frag0 := v.frag0.map fun x => { x with st := .unit (.ceCopy f) (.engine 0x10080 0 1) } }
      (t.waiter 0 0).any fun k => resumes k (k.use 0x84 0 1 0 ++ k.use 0xC0 0 1 0 ++ k.use 0xC1 0 1 0) (k.dst 0x86 1 0)) ∧
     has (determBed m) (fun k => k.l.determ && begins (determBed m) k false false true ((determBed m).descRead k 0x10080 2)) ∧
     has (launch m 1732 4 1) (fun k => k.l.tlcsrc 1 != 0) ∧
     (Instr.mxStatus (ru 0 0x86 0xC1 0xFF 0xFF)).wf = true ∧ (Instr.mxCancel (ru 0 0x86 0xC0 0xFF 0xFF)).wf = true ∧
     isG 2 = true ∧ isG 0 = false ∧
     (let s := addCmd m (.mxPost (ew 0 0x84 0xFF 0xFF)) (mmRec 1) 0 0
      has s fun k => clr k (k.use 0xC1 0 1 0) (k.dst 0x86 1 0) && cmd0 s fun c => c.isRecord && c.wave == k.w && c.seq == 1 && fresh c)) := by
  decide +kernel

/-- A state with the tensors of a copy: handle 0 is the n8 tensor of extents (4, 3) in memory at 0x1000 with PAD 0xEE and
element 10y + x, handle 1 one of extents (3, 2) with rows of 4 in the scratchpad at 16. -/
def copyBed : State :=
  let s := put (put (ebed 0 1) 0x30000 64 (layrec 3 false 0xEE 0x1000 [(4, 4), (3, 3)])) 0x30040 64 (layrec 3 true 0 16 [(3, 4), (2, 2)])
  put s 0x1000 12 (ofBytes [0, 1, 2, 3, 10, 11, 12, 13, 20, 21, 22, 23])
/-- What the second clause of CopyEngine asks of a copy from b to t, computed: the coordinates `src i` of destination
element i, the row a gather reads for it, and the value of every element inside the extents. -/
def copyReady (s : State) (i : Instr) (src : List Nat → List Int) (row : Nat → Option Nat) (count : Nat) : Bool :=
  cmd0 s fun c => fresh c && c.eng == .ce && isCopy c.word && s.canStart c && c.word == i && !s.engineStalled 0 &&
    s.granted.isEmpty &&
    match s.ceSetup c with
    | .ok (s1, .go ts touch) =>
      s1.lockFree 0 (lockWants touch) && !s.scratchOverlap 0 { c with touch := touch } &&
      (match ts.getLast? with
       | some t => t.g == some 0 && t.count == count && decide (0 < s.clusters.length) &&
          (List.range t.count).all fun n =>
            let cs := Tensor.coords t.ext n
            (match row n with
             | none => true
             | some r => (match s1.eRead c none (field c.desc.toNat 256 64 + 4 * cs.getLastD 0) 4 with
                | .ok bs => ofBytes bs == r | .error _ => false)) &&
            (match ts with
             | [b, _] => (src cs).length == cs.length &&
                (if (b.ext.zipIdx.all fun x => decide (0 ≤ (src cs).getD x.2 0) && decide ((src cs).getD x.2 0 < x.1)) then
                  (match s1.eltRead c b (b.lin ((src cs).map Int.toNat)) with | .ok _ => true | .error _ => false) else true)
             | _ => true)
       | none => false)
    | _ => false

/-- CopyEngine: a predecessor that has not retired, an earlier command of the engine, another that waits for its fault, a
wrong KIND, `lr.flush` of one record and of all; the copy of R241 with its permutation and origins, also in a deterministic
launch; a fill; and a gather with a row and a −1. -/
theorem met_CopyEngine :
    (let i := Instr.ceCopy (ew 0 0x84 0xC0 0xC1)
     let d := 1 + 2 * 2 ^ 256 + (2 ^ 32 - 1) * 2 ^ 288
     let two := addCmd (addCmd copyBed i d 0 1) i (d + 2 ^ 64) 0 1
     (two.cmds[1]?.any fun c => c.st == .queued && !c.blocked && c.preds.any (fun p => p != 0 && decide (p < c.seq)) &&
        !two.cmdDeterm c && two.cmds.any fun e => e.wave == c.wave && e.seq + 1 == c.seq && e.unfinished && e.eng == c.eng && !e.begun) ∧
     ({ two with cmds := two.cmds.mapIdx fun n c => { c with blocked := n == 0 } } : State).engineStalled 1 = true ∧
     cmd0 (addCmd copyBed i 2 0 1) (fun c => fresh c && copyBed.canStart c && !c.isRecord && c.desc.toNat % 256 != kindOf c.word) ∧
     (let s := addCmd copyBed (.lrFlush (ew 0 0x84 0xFF 0xFF)) 0 0 0
      s.engineStalled 0 = false ∧ cmd0 s fun c => fresh c && s.canStart c && !c.isRecord && (s.clusters[c.cl]?).isSome) ∧
     copyReady (addCmd copyBed i d 0 1) i (fun cs => [2 + (cs.getD 0 0 : Int), -1 + (cs.getD 1 0 : Int)]) (fun _ => none) 6 ∧
     copyReady (addCmd copyBed (.ceFill (ew 0 0x84 0xFF 0xC1)) (2 + 7 * 2 ^ 256) 0 1) (.ceFill (ew 0 0x84 0xFF 0xC1)) (fun _ => [])
       (fun _ => none) 6 ∧
     copyReady (addCmd (put copyBed 0x30100 8 (2 + (2 ^ 32 - 1) * 2 ^ 32)) (.ceGatherrows (ew 0 0x84 0xC0 0xC1)) (3 + 0x30100 * 2 ^ 256) 0 1)
       (.ceGatherrows (ew 0 0x84 0xC0 0xC1)) (fun cs => [(cs.getD 0 0 : Int), if cs.getD 1 0 = 0 then 2 else -1])
       (fun n => some (if n < 3 then 2 else 2 ^ 32 - 1)) 6) := by decide +kernel
/-- CopyEngine, in a deterministic launch. -/
theorem met_CopyEngine_determ :
    (let i := Instr.ceFill (ew 0 0x84 0xFF 0xC1)
     copyReady (addCmd (determBed copyBed) i (2 + 7 * 2 ^ 256) 0 1) i (fun _ => []) (fun _ => none) 6) = true := by decide +kernel

/-- RetirementAndFaults: a command that is done and one that is not; its STATUS in plain memory, in a deterministic launch
too; a record without STATUS; a pending token and one that is not pending, of a command that runs, of a traversal that has
written records, of one that writes STATUS, and of records. -/
theorem met_RetirementAndFaults :
    (let s := fun (i : Instr) (f : Cmd → Cmd) => let t := addCmd copyBed i 1 0 1
       { t with cmds := t.cmds.map fun c => f { c with st := .started, begun := true },
                parts := t.parts.modify 0 fun p => { p with faults := [{ token := 5, cmd := 0 }] } }
     let copy := Instr.ceCopy (ew 0 0x84 0xC0 0xC1)
     let rec_ := Instr.mxPost (ew 2 0x84 0xFF 0xFF)
     let done := s copy fun c => { c with ran := true }
     ([done, determBed done].all fun st => !st.engineStalled 0 && cmd0 st fun c =>
       c.st == .started && c.ran && c.todo.isEmpty && !c.blocked && c.hasStatus && c.daddr % 64 == 0 &&
       (match st.access 0 (clusterAgents c.cl) .write false (c.daddr + 16) 8 with
        | .ok pa leaf _ _ => !outbound pa && !leafCK leaf && (st.engineHold c true (c.daddr + 16) pa 8 leaf).isNone
        | .fault _ _ => false)) ∧
     done.domains = [] ∧ done.poison = [] ∧ (done.clusters.all fun c => c.spoison.isEmpty) = true ∧
     (done.launches[0]?.any fun l => !l.determ) ∧ ((determBed done).launches[0]?.any fun l => l.determ) ∧
     (done.cmds.all fun d => d.st != .finished) ∧
     cmd0 (s rec_ fun c => { c with ran := true }) (fun c => !c.hasStatus && c.ran) ∧
     cmd0 (s copy id) (fun c => !c.ran && !c.blocked) ∧
     (done.parts[0]?.any fun p => (p.faults.find? fun e => e.token == 5) == some { token := 5, cmd := 0 } &&
        (p.faults.all fun e => e.token != 6)) ∧
     cmd0 (s copy fun c => { c with wstat := true }) (fun c => c.wstat) ∧
     cmd0 (s rec_ fun c => { c with desc := BitVec.ofNat 1024 (mmRec 5) }) (fun c => c.isRecord && c.op == 5 && !c.ran && c.tv.isNone) ∧
     cmd0 (s rec_ fun c => { c with desc := BitVec.ofNat 1024 (mmRec 4) }) (fun c => c.isRecord && c.op == 4 && !c.ran)) := by
  decide +kernel

/-- A record in the queue of an M-cluster whose slots are `fs`. -/
def recBed (fs d : Nat) : State := addCmd (ebed 0 fs) (.mxPost (ew 2 0x84 0xFF 0xFF)) d 0 0
/-- An `rsum` record on a slot of 64 bytes at 0x1000 of the scratchpad. -/
def sumRec : Nat := record 5 [(32, 80), (1, 96), (1, 112), (64, 160), (0x1000, 224)]
/-- A job card: fields, each a value and its bit (R361). -/
def card (l : List (Nat × Nat)) : BitVec 1024 := BitVec.ofNat 1024 (l.map fun p => p.1 * 2 ^ p.2).sum
/-- A running instance of job 0 on queue 0 that owns entries 0 and 1: released at 0, due at 5,000. -/
def inst0 (c : BitVec 1024) : Instance :=
  { job := 0, st := .running, release := 0, deadline := 5000, card := c, lo := 0, hi := 2, next := 0, done := 0, wgDone := 0,
    wgTotal := 0, recesses := 0, reqTime := none, bound := 0, cause := none, progress := 0, elapsed := 0, missed := false,
    spawned := [] }
/-- The state in which the launches' job has been asked to recess under DECLARED. -/
def asked (s : State) : State := { launch s 386 2 0 with insts := [{ inst0 0 with st := .recessing }] }
/-- RecordStart: a record that may start of each operation; slots that fault; a reserved operation; `rckpt` with and without a
recess under DECLARED; `rwait` on a counter that has and one that has not reached its base. -/
theorem met_RecordStart :
    (let ok := fun (s : State) (op : Nat) => cmd0 s fun c => c.isRecord && fresh c && s.canStart c && !s.cmdDeterm c &&
       !s.slotsFault c && !s.recFaulty c && c.op == op && c.word == .mxPost (ew 2 0x84 0xFF 0xFF)
     ok (recBed 2 (mmRec 1)) 1 ∧ ok (recBed 2 (mmRec 2)) 2 ∧
     ok (recBed 41 sumRec) 5 ∧
     ok (recBed 2 6) 6 ∧ cmd0 (recBed 2 6) (fun c => !(recBed 2 6).rckptStops c) ∧
     ok (asked (recBed 2 6)) 6 ∧ cmd0 (asked (recBed 2 6)) (fun c => (asked (recBed 2 6)).rckptStops c) ∧
     ok (recBed 2 7) 7 ∧ (recBed 2 7).tlcVal 0 0 = 0 ∧
     cmd0 (recBed 2 7) (fun c => recWbase c.desc.toNat == 0 && field c.desc.toNat 20 4 == 0) ∧
     cmd0 (recBed 31 (mmRec 1)) (fun c => (recBed 31 (mmRec 1)).slotsFault c) ∧
     (let s := recBed 2 (mmRec 8)
      cmd0 s fun c => !s.slotsFault c && s.recFaulty c) ∧ (recBed 31 (mmRec 1)).waves.length = 1) := by decide +kernel

/-- RecessTrapAndOk: a recess request that waits for a record that runs. -/
theorem met_RecessTrapAndOk_records :
    (let s := recBed 2 (mmRec 1)
     let t := launch { s with cmds := s.cmds.map fun c => { c with st := .started, begun := true }
                              waves := s.waves.map fun v => { v with recess := true } } 386 2 1
     has t fun k => trp k && k.recessDue && !k.l.checked && t.recordsRun k.l.job k.cl (recessDeclared k.l)) = true := by decide +kernel

/-- MatrixAndElementwise: steps of `mm` and `rsum` whose rows are gathered, one that waits for its counter; BIAS, RELU, SCALE;
CONVERT and `cvacc` with their outputs in the scratchpad. -/
theorem met_MatrixAndElementwise :
    (let started := fun (s : State) => { s with cmds := s.cmds.map fun c => { c with st := .started, begun := true } }
     let steps := fun (s : State) (op n : Nat) => cmd0 s fun c => c.isRecord && c.op == op && c.st == .started && c.begun && !c.ran &&
       c.todo.isEmpty && c.rows.isEmpty && !s.cmdDeterm c && s.stepDue c && s.lockFree 0 (s.stepLocks c) && c.stepRows.length == n &&
       c.stepRows.all fun r => match s.gatherRow c r with | .ok _ => true | .error _ => false
     steps (started (recBed 2 (mmRec 1))) 1 2 ∧ steps (started (recBed 2 (mmRec 2))) 2 2 ∧
     steps (started (recBed 41 sumRec)) 5 1 ∧
     (let s := started (recBed 41 sumRec)
      cmd0 s fun c => slotSmode (s.recSlots c).1 == 2 && s.slotPlace c false == some (some 0, 0x1000) && s.clusters.all fun x => x.spoison.isEmpty) ∧
     (let s := started (recBed 2 (mmRec 1 + 2 ^ 24 + 2 ^ 352))
      cmd0 s fun c => !s.stepDue c && s.tlcVal c.launch 0 == 0 && recWbase c.desc.toNat == 1)) ∧
    (let ok := fun (s : State) (op func : Nat) => cmd0 s fun c => c.isRecord && fresh c && s.canStart c && !s.cmdDeterm c &&
       c.op == op && recFunc c.desc.toNat == func && !s.slotsFault c && !s.recFaulty c && decide (c.cl < s.clusters.length) &&
       s.lockFree 0 (lockWants (s.recTouch c)) && s.clusters.all fun x => x.spoison.isEmpty
     let bias := recBed 2 (record 4 [(1, 120), (0x1000, 224), (1, 14)])
     ok bias 4 1 ∧ cmd0 bias (fun c => match bias.ePlace c true 0x1000 4 with
       | some (g, a) => (match bias.eRead c g a 4 with | .ok bs => ofBytes bs == 0 | .error _ => false) | none => false) ∧
     ok (recBed 2 (record 4 [(2, 120)])) 4 2 ∧ ok (recBed 2 (record 4 [(3, 120), (0x3F800000, 416)])) 4 3 ∧
     (let s := recBed 2 (record 4 [(0x1000, 224), (0x1100, 288)])
      ok s 4 0 ∧ cmd0 s fun c => s.ePlace c false 0x1000 2 == some (some 0, 0x1000) && s.ePlace c false 0x1100 2 == some (some 0, 0x1100) &&
        recM c.desc.toNat == 1 && (match s.eRead c (some 0) 0x1000 2 with | .ok bs => ofBytes bs == 0 | .error _ => false)) ∧
     (let s := recBed 2 (record 3 [(1, 17), (0x1100, 288)])
      ok s 3 0 ∧ cmd0 s fun c => s.ePlace c false 0x1100 2 == some (some 0, 0x1100) && bitOf c.desc.toNat 17)) := by decide +kernel


/-! ### The Timetable and the management range -/

/-- The bed with partition 0 enabled, which owns queue 0: a header at 0x10040 of a ring of 4 entries at 0x10400, with HEAD 1
and the TAIL given. -/
def tbed (tail : Nat) : State :=
  let s := put (ebed 0 1) 0x10040 64 (0x10400 + 4 * 2 ^ 64 + 1 * 2 ^ 128 + tail * 2 ^ 192)
  { s with parts := s.parts.modify 0 fun p => { p with en := true, qmask := 1, jtbase := 0x20000 }
           qtab := s.qtab.modify 0 fun q => { q with hdr := 0x10040, head := 1, tail := 1 } }
/-- Queue 0 is enabled. -/
def enabled (s : State) : State := { s with qtab := s.qtab.modify 0 fun q => { q with en := true } }
/-- A card of job 0 on queue 0 in order: DEADLINE 5,000, WINDOW and WDOG 10,000, MAXSP 100 under DECLARED. -/
def fields0 : List (Nat × Nat) := [(1, 23), (100, 32), (5000, 128), (10000, 320), (10000, 384), (1, 448)]
/-- A loaded job with a card. -/
def job0 (c : BitVec 1024) : Job :=
  { card := c, loaded := true, loadTime := 0, nextRel := 0, skipNext := false, skipTail := 0, deferred := [], hold := [], overflow := false, lastCkctl := false }
/-- The state with job 0. -/
def withJob (s : State) (j : Job) : State := { s with jobs := [(0, j)] }

/-- `State.QuietBut`, computed. -/
def quiet (s : State) (j : Nat) : Bool :=
  !s.ttDown && ((s.deadlines ++ s.insts.filterMap s.boundAt ++ s.insts.filterMap s.watchAt ++ s.parts.filterMap Part.killAt).all
    fun t => decide (s.now < t)) &&
  (s.jobs.all fun e => e.1 == j || (!s.eventDue e && e.2.releaseAt.all fun t => decide (s.now < t))) && decide ((s.jobs.map (·.1)).Nodup)
/-- `State.QueueReads` with a tail, computed. -/
def readsTo (s : State) (q tail : Nat) : Bool :=
  let qe := s.qtab.getD q QEntry.reset
  (s.queuePart q).any fun p => (s.ring p qe.hdr.toNat).any fun r => r.tail == tail && decide (r.tail ≤ qe.head + r.cap)
/-- The state with tokens of a line at the Timetable. -/
def watching (s : State) (line : Nat) : State :=
  { s with tokens := [{ line := line, holder := .timetable, n := 1, owner := false, way := 0 }] }

/-- Queues: a launch queue in order, one with a header that is not aligned, one whose BASE is not aligned; a TASK queue with
its template; an enabled queue; TAIL recalled, and its line still watched; and the releases of an event-released job whose queue
holds an entry, one of them skipped. -/
theorem met_Queues :
    (let s := tbed 3
     let j := withJob (enabled s) (job0 (card fields0))
     let pending := (s.qtab.getD 0 QEntry.reset).en == false && s.queuePart 0 == some 0
     let r := s.ring 0 0x10040
     pending ∧ (r.map fun x => (x.base, x.cap, x.head, x.tail)) = some (0x10400, 4, 1, 3) ∧ 0x10400 % 256 = 0 ∧
     s.queueTemplate 0 0 (s.qtab.getD 0 QEntry.reset) = some 0 ∧ 0x10041 % 64 ≠ 0 ∧ s.ring 0 0x10080 = none ∧
     (enabled s).qtab.length = 64 ∧ ((enabled s).qtab.getD 0 QEntry.reset).en = true ∧ (3 + 2 ^ 64 - 1) % 2 ^ 64 ≤ 4 ∧
     s.queueJob 0 = none ∧ j.queueJob 0 = some 0 ∧ (j.job? 0).map (·.deferred) = some [] ∧ cardQueue (card fields0) = 0 ∧
     j.inst? 0 = none ∧ j.ttDown = false ∧ j.watches 0 (0x10040 + 24) = false ∧ (watching j 0x401).watches 0 (0x10040 + 24) = true ∧
     readsTo j 0 3) ∧
    (let e := fun (skip : Bool) =>
       let s := withJob (enabled (tbed 3)) { job0 (card fields0) with skipNext := skip }
       { s with qtab := s.qtab.modify 0 fun q => { q with tail := 3 } }
     ([true, false].all fun skip => quiet (e skip) 0 && ((e skip).job? 0).any fun b => b.skipNext == skip && (e skip).eventDue (0, b) &&
        ((e skip).settle.job? 0 == some b) && ((e skip).settle.inst? 0).isNone) ∧
     readsTo (e false).settle 0 3 ∧ ((e false).settle.qtab.getD 0 QEntry.reset).head < 3 ∧
     ((e false).settle.qtab.getD 0 QEntry.reset).en = true) ∧
    (let t := put (tbed 3) 0x20000 256 placedRecord.toNat
     let k := withJob { t with qtab := t.qtab.modify 0 fun q => { q with kind := true, template := 0x20000 } }
       (job0 (card [(1, 23), (2, 16), (5000, 128), (10000, 320), (10000, 384), (1, 448)]))
     (k.queueTemplate 0 0 (k.qtab.getD 0 QEntry.reset)).isSome = true ∧ 0x10400 % 32 = 0) := by decide +kernel

/-- JobsAndReleases: a card in order, one with VALID = 0, one whose first word is faulty and one that cannot be read; a
periodic release that is due, early, without entries, while an instance of the job remains, and in a drain. -/
theorem met_JobsAndReleases :
    (let s := fun (c : BitVec 1024) => put (tbed 3) 0x20000 128 c.toNat
     let good := card fields0
     let bad := card ((1, 14) :: fields0)
     (match (s good).readVA 0 dmaAgents true (0x20000 + 128 * 0) 128 with
      | .ok bs => bs == bytesOf 128 good.toNat | .error _ => false) = true ∧ bitOf good.toNat 23 = true ∧
     ((s good).cardFaults 0 0 good).all (fun f => !f.2) ∧ ((s good).qtab.getD (cardQueue good) QEntry.reset).en = false ∧
     bitOf (card []).toNat 23 = false ∧ ((s bad).cardFaults 0 0 bad).find? (fun f => f.2) = some (0, true) ∧
     (match ({ tbed 3 with tlb := [] } : State).readVA 0 dmaAgents true 0x20000 128 with
      | .ok _ => false | .error _ => true) = true ∧
     (let c := card ((20000, 64) :: fields0)
      let p := fun (tail : Nat) => enabled (withJob (put (tbed tail) 0x20000 128 c.toNat) (job0 c))
      let q := { p 3 with insts := [inst0 c] }
      ((s c).cardFaults 0 0 c).all (fun f => !f.2) ∧ cardPeriod c = 20000 ∧ (p 3).now < 1 ∧
      ([p 3, p 1, q].all fun s => quiet s 0 && s.job? 0 == some (job0 c) && s.settle.job? 0 == some (job0 c) &&
        (s.settle.parts[0]?.any fun x => !x.fenced) && (s.settle.qtab.getD 0 QEntry.reset).en &&
        (s.settle.qtab.getD 0 QEntry.reset).head == 1) ∧
      (job0 c).loaded = true ∧ (job0 c).nextRel = (p 3).now ∧ readsTo (p 3).settle 0 3 ∧ readsTo (p 1).settle 0 1 ∧
      (p 3).settle.inst? 0 = none ∧ (p 1).settle.inst? 0 = none ∧ (q.settle.inst? 0).isSome ∧
      (let f := { p 3 with parts := (p 3).parts.modify 0 fun x => { x with fenced := true } }
       quiet f 0 ∧ f.settle.job? 0 = some (job0 c) ∧ f.settle.parts[0]?.map (·.fenced) = some true))) := by decide +kernel

/-- MissesAndHeldRecords: an instance at its deadline under each MISS and one before it; a held record with room in EXQ and
without. -/
theorem met_MissesAndHeldRecords :
    (let c := fun (miss : Nat) => card ((miss, 19) :: (20000, 64) :: (0x11000, 512) :: fields0)
     let s := fun (miss t : Nat) => ({ withJob (tbed 3) (job0 (c miss)) with
       insts := [inst0 (c miss)], clock := { Clock.reset with time := t } } : State)
     ((s 0 5000).inst? 0 = some (inst0 (c 0)) ∧ (inst0 (c 0)).deadline ≤ (s 0 5000).now ∧ (s 0 4999).now < (inst0 (c 0)).deadline) ∧
     (cardMiss (c 0) = 0 ∧ cardMiss (c 1) = 1 ∧ cardMiss (c 2) = 2 ∧ cardPeriod (c 2) ≠ 0 ∧ (job0 (c 2)).deferred = []) ∧
     (let h := fun (tail : Nat) => put (withJob (s 0 0) { job0 (c 0) with hold := [(7 : BitVec 512)] }) 0x11000 64 (0x12000 + 4 * 2 ^ 64 + tail * 2 ^ 192)
      (match State.append (h 3) 0 0x11000 (recBytes (7 : BitVec 512)) with | .done _ => true | _ => false) = true ∧
      (match State.append (h 4) 0 0x11000 (recBytes (7 : BitVec 512)) with | .full => true | _ => false) = true ∧
      cardExq (c 0) = 0x11000 ∧ ((h 3).job? 0).map (·.hold) = some [7] ∧ (h 3).watches 0 (0x11000 + 16) = false ∧
      (watching (h 3) 0x440).watches 0 (0x11000 + 16) = true ∧ (h 3).ttDown = false)) := by decide +kernel

/-- BoundsWatchdogsAndDrains: a recessing instance 2,000 ns before its bound and before that; a running one whose watchdog
has run out and one nanosecond earlier; and each step of a drain at its time. -/
theorem met_BoundsWatchdogsAndDrains :
    (let c := card ((1, 22) :: fields0)
     let i : Instance := { inst0 c with st := .recessing, reqTime := some 10, bound := 3000 }
     let s := fun (i : Instance) (t : Nat) => ({ withJob (tbed 3) (job0 c) with insts := [i], clock := { Clock.reset with time := t } } : State)
     10 + 3000 ≤ (s i 1010).now + 2000 ∧ (s i 1009).now + 2000 < 10 + 3000 ∧ (s i 1010).inst? 0 = some i ∧
     (s i 1010).jobGangs 0 = [(0, 0)] ∧ relaunchAllowed false (cardReplay c) true 2 = true ∧
     ((s (inst0 c) 10000).insts.find? fun i => cardQueue i.card == 0 && ((s (inst0 c) 10000).watchAt i).isSome) = some (inst0 c) ∧
     (inst0 c).progress + (cardWdog c - (inst0 c).elapsed) = 10000 ∧ (s i 0).ttDown = false ∧ ((s i 0).insts.map (·.job)).Nodup ∧
     ((s i 0).parts[0]?.any fun p => !p.fenced) ∧
     (let d := fun (n : Nat) => { s (inst0 c) 500 with parts := (s (inst0 c) 500).parts.modify 0 fun p => { p with fenced := true, drain := some (n, 0, 500) } }
      [1, 2, 3].all fun n => (d n).parts[0]?.any fun p => p.drain == some (n, 0, 500) && p.fenced && decide (500 ≤ (d n).now))) := by
  decide +kernel

/-- Placement: a gang that waits on a cluster of its job, one without a cluster, and a recessed gang. -/
theorem met_Placement :
    (let c := card fields0
     let s := fun (job : Option Nat) (rec_ : Bool) =>
       let t : State := launch (enabled (withJob (tbed 3) (job0 c))) 384 2 1
       { t with
         insts := [inst0 c],
         launches := t.launches.map fun (l : Launch) =>
           { l with gangs := l.gangs.map fun (g : Gang) => { g with placed := false, recessed := rec_, cls := [] } },
         waves := if rec_ then t.waves.map fun (v : Wave) => { v with status := .recessed } else [],
         clusters := t.clusters.modify 0 fun (x : Cluster) =>
           { x with job := job, joined := true, power := .active, selfTest := true, regions := [] } }
     (∀ b : Bool, ((s (some 0) b).placeOne 0 0).isSome) ∧ (s none false).placeOne 0 0 = none ∧ (s (some 0) false).gangReady 0 = true ∧
     ((s (some 0) false).launches[0]?.any fun l => l.serial.isNone && l.num 384 2 != 0 && l.gangs.length == 1 && l.wgCount == 1 && l.waveCount == 1) ∧
     ((s (some 0) true).waves.all fun v => v.status == .recessed && v.launch == 0 && v.gang == 0 && v.hslot == 0 && v.wg == 0)) := by
  decide +kernel


/-- ManagementRegisters: every table word on an entry, EN = 1 and EN = 0 with an enabled queue; a free and a busy cluster and
codes a kind does not allow; registers at their offsets with the queue of the window off and on; a class whose WINDOW is
in range and one whose is not. -/
theorem met_ManagementRegisters :
    ((tbed 3).parts[0]?).isSome ∧ (tbed 3).regs = [] ∧ ((enabled (tbed 3)).qtab.getD 0 QEntry.reset).en = true ∧
    (((tbed 3).parts[0]?).any fun p => p.qmask.getLsbD 0 && !p.qmask.getLsbD 63) ∧
    (let c := bed.clusters[63]?
     (c.any fun x => x.job.isNone && x.drain.isNone) ∧ bed.clusterBusy 63 = false ∧ bed.clusterBusy 0 = true ∧
     isG 2 = true ∧ isG 63 = false) ∧
    0x18 % 32 = 24 ∧ 0x7E0 / 32 = 63 ∧ (0x1000 + 16 * 255) % 8 = 0 ∧ 0x1000 + 16 * 255 < 0x10000 ∧ 0xFFF8 % 8 = 0 ∧
    (let s := withJob (tbed 3) (job0 (card fields0))
     ((s.job? 0).map fun j => cardPart j.card) = some 0) ∧
    (State.reset.classes[3]?).map (·.window) = some 10000 ∧ 10000 ≤ 10000000 := by decide +kernel

/-- RegulatorsAndInvalidations: a party with budget 1,024 in a window of 10,000 (R404) whose count is below it, at it, and of
the window before; a budget of 0; an invalidation of each kind, idle and in progress. -/
theorem met_RegulatorsAndInvalidations :
    (let c := card ((1024, 256) :: fields0)
     let s := fun (n t : Nat) => ({ withJob (tbed 3) (job0 c) with
       regs := [{ g := 4, c := .job 0, window := 0, count := n, held := [{ who := .request 1, line := 0 }],
                  slice := [{ who := .frag 0 0, line := 9 }] }], clock := { Clock.reset with time := t } } : State)
     (s 960 9999).budgetOf (.job 0) = (1024, 10000) ∧ windowStart 10000 9999 = 0 ∧ windowStart 10000 10000 = 10000 ∧
     ((s 960 0).regCount 4 (.job 0)).window = 0 ∧ ((s 960 0).regCount 4 (.job 0)).count < 1024 ∧
     1024 ≤ ((s 1024 0).regCount 4 (.job 0)).count ∧ ((s 0 0).budgetOf .app).1 = 0 ∧ ((s 0 0).regStat 0).win = none ∧
     cardOvr ((s 0 0).cardOf 0) = false) ∧
    (let s := fun (k : Nat) => ({ tbed 3 with parts := (tbed 3).parts.modify 63 fun p => { p with inval := some (k, 0x1000, 0x1000) } } : State)
     ((s 0).parts[0]?.any fun p => p.inval.isNone) ∧
     [0, 1, 2].all fun k => (s k).parts[63]?.any fun p => p.inval == some (k, 0x1000, 0x1000)) := by decide +kernel

/-- A configuration record in order but for its signature: 64 bytes of image, 12 unbound ports, the classes at reset, CSI-2 port 0
on channel 2 with RAW8, Ethernet port 3 with a filter for a MAC address and one for every frame, port 1 under 802.1AS. -/
def cfg : ConfigRec :=
  { image := bytesOf 64 (0x43464721 + 2 ^ 32 + 2 ^ 48 + 64 * 2 ^ 64), sig := [], svn := 0, wf := true, parts := [(3, true, 1, 0x40000, 2)],
    pools := [], classes := State.reset.classes, owners := List.replicate 12 (0, false), rootPort := false, rootPart := 0, fns := [],
    csi := { phy := .dphy 4, chan := 2, types := [.raw8] } :: List.replicate 7 { phy := .dphy 1, chan := 0, types := [] },
    filters := [[], [], [], [{ mac := some 5, vlan := none, etype := none }, { mac := none, vlan := none, etype := none }]],
    rings := [], timed := [1], p1588 := false, gmOk := true, sysLevels := [.m], pwLevels := [], pwFn := none, domains := [],
    pairs := 0, pcap := 60000 }
/-- Port `n` of partition 0: two slots of 64 bytes at 0x11000, descriptors at 0x12000, PROD and CONS as given. -/
def port (n : Nat) (en : Bool) (prod cons : Word64) (fr : Option FrameLanding) : State :=
  { tbed 3 with
    streams := (tbed 3).streams.modify n fun x =>
      { x with ownen := true, en := en, nslot := 2, slotb := 64, sbase := 0x11000, dbase := 0x12000, prod := prod, cons := cons,
               frame := fr, rings := [0, 0x13000] }
    proctor := { (tbed 3).proctor with config := some cfg } }
/-- StreamsAndTransmission: a port that may be enabled and one that may not; of a frame the packets of the port's channel and
type, a frame of another channel, one of an Ethernet port that its second filter accepts, and one that is too short; a free
slot and none, also where CONS is past PROD; its end; a ring with an entry behind a ring without one, and an entry that
breaks its table. -/
theorem met_StreamsAndTransmission :
    (let lands : State → Nat → Nat → Nat → Nat → Bool := fun s n va k len =>
       match s.landAt n 0 va k (List.replicate len 7) with | (_, false, none) => true | _ => false
     let idle := fun (s : State) (n : Nat) => s.streams[n]?.any fun x => x.en && x.ownen && x.frame.isNone && x.stalled.isNone
     ((port 0 false 0 0 none).streams[0]?.any fun x => !x.en && x.ownen && x.nslot != 0 && x.slotb.toNat % 64 == 0 && x.slotb != 0) ∧
     ((tbed 3).streams[11]?.any fun x => !x.ownen && x.stalled.isNone) ∧
     idle (port 0 true 2 0 none) 0 ∧ idle (port 11 true 2 0 none) 11 ∧ 2 + 0 ≤ 2 ∧ 0 < 2 + 5 ∧
     idle (port 0 true 0 5 none) 0 ∧ lands (port 0 true 0 5 none) 0 0x11000 0 64 ∧
     idle (port 11 true 3 2 none) 11 ∧ lands (port 11 true 3 2 none) 11 0x11040 3 64 ∧
     (cfg.csi[0]?.any fun y => y.chan == 2 && y.types.contains .raw8 && !y.types.contains .raw10) ∧
     (cfg.filters[3]?.any fun fs => fs.map (fun y => y.accepts (List.replicate 64 0)) == [false, true]) ∧
     cfg.filters[0]? = some [] ∧
     (let f : FrameLanding := { tstart := 3, bytes := 64, fnum := 1, chan := 2, trunc := true, err := false }
      (port 0 true 1 0 (some f)).streams[0]?.any (fun x => x.frame == some f) ∧ lands (port 0 true 1 0 (some f)) 0 0x12020 1 32)) ∧
    (let s := fun (len : Nat) => put (put (put (port 8 true 0 0 none) 0x13000 64 (0x14000 + 4 * 2 ^ 64 + 1 * 2 ^ 192)) 0x14000 32
       (0x15000 + len * 2 ^ 64 + 2 ^ 78)) 0x15000 1 9
     ([64, 63].all fun len => (s len).streams[8]?.any fun x => x.ownen && ((s len).txRing x 0).isNone &&
       (match (s len).txRing x 1 with | some (hdr, h) => hdr == 0x13000 && h.base == 0x14000 && h.head == 0 && h.cap == 4 | none => false) &&
       (match (s len).readVA 0 (ioAgents 99) false 0x14000 32 with | .ok _ => true | .error _ => false) &&
       (match (s len).readVA 0 (ioAgents 99) false 0x15000 len with | .ok b => b.length == len | .error _ => false) &&
       ((s len).peerBegin (.agent 99) none .sensor 0 (ioAgents 99) false
          (((s len).xlateSpan 0 (ioAgents 99) .read false 0x14000 32).1 ++ ((s len).xlateSpan 0 (ioAgents 99) .read false 0x15000 len).1)).2 &&
       (match (s len).writeVA 0 (ioAgents 99) false none (some .sensor) 0x14010 (bytesOf 8 0) with
        | .ok t => (match t.writeVA 0 (ioAgents 99) false none (some .sensor) 0x13010 (bytesOf 8 1) with | .ok _ => true | .error _ => false)
        | .error _ => false))) := by decide +kernel

/-- TimeAndJournal: a step forward of 1,000,001 ns with STEPEN and one of 1,000,000 ns; a near sync after fifteen; a new
grandmaster; a message at a port that is timed, of a better and of a worse master; an entry 2,000 ns after its stamp and before, with room, without it, and without a header. -/
theorem met_TimeAndJournal :
    (let s := { bed with clock := { Clock.reset with stepen := true, good := 15, gm := some 4 } }
     s.clock.stepth.toNat < (-1000001 : Int).natAbs ∧ ¬ s.clock.stepth.toNat < (-1000000 : Int).natAbs ∧
     (999 : Int).natAbs < 1000 ∧ ¬ (-1000 : Int).natAbs < 1000 ∧ s.clock.gm = some 4 ∧ (4 : Nat) ≠ 5 ∧
     cfg.timed = [1] ∧ (port 0 true 0 0 none).proctor.config = some cfg ∧ cfg.p1588 = false ∧ cfg.gmOk = true ∧ s.clock.masters = []) ∧
    (let worse : Nat × Nat → Nat × Nat → Bool := fun m e => decide (m.2 < e.2) || m.2 == e.2 && decide (m.1 < e.1)
     worse (1, 3) (2, 4) ∧ worse (1, 3) (2, 3) ∧ worse (1, 3) (0, 3) = false) ∧
    (let e : JEvent := { time := 10, agent := 98, kind := 9, payload := 0 }
     let s := fun (tail : Nat) (h : Word64) (t : Nat) => ({ put (tbed 3) 0x16000 64 (0x17000 + 4 * 2 ^ 64 + tail * 2 ^ 192) with
       parts := (tbed 3).parts.modify 0 fun p => { p with jhdr := h, jq := [{ e with time := 11 }, e, e] }, clock := { Clock.reset with time := t } } : State)
     ((s 3 0x16000 2010).parts[0]?.any fun p => p.jq[1]? == some e && (p.jq[2]? == some e) && p.jhdr != 0) ∧
     e.time + 2000 ≤ (s 3 0x16000 2010).now ∧ (s 3 0x16000 2009).now < e.time + 2000 ∧
     (match State.append (s 3 0x16000 2010) 0 0x16000 (bytesOf 128 1) with | .done _ => true | _ => false) = true ∧
     (match State.append (s 4 0x16000 2010) 0 0x16000 (bytesOf 128 1) with | .full => true | _ => false) = true ∧
     ((tbed 3).parts[63]?.any fun p => p.jq.isEmpty && p.jhdr == 0)) := by decide +kernel

/-- Function 3 of partition 0 with a BAR 2 of 1 GiB at 0, function 0 with the system window; the link is up; core 15 of pair 7
runs the partition's tables. -/
def hbed : State :=
  { tbed 3 with
    pcie := { (tbed 3).pcie with up := true, fns := [⟨3, 0, false, 0, 30, false, 0, 0⟩, ⟨0, 1, true, 0, 30, false, 0, 0⟩] }
    proctor := { (tbed 3).proctor with config := some { cfg with pairs := 0x80 } }
    tlb := (tbed 3).tlb ++ [{ agent := 512 + 15, part := 0, vbase := 0, size := 2 ^ 30, leaf := 0x91D }]
    cores := (tbed 3).cores.set 15 { AppCore.reset with level := .u, satp := (.part, 0), resv := some (0x11FFC / 64), eip := 6, eie := 4 } }
/-- The pieces are one, the n bytes at va, in plain memory below the outbound range, and a turn can be taken at once. -/
def whole1 (va n : Nat) (xs : List (Nat × Nat × Nat × Word64)) (ok : Bool) : Bool :=
  ok && match xs with
  | [(va2, n2, pa, leaf)] => va2 == va && n2 == n && pa < 0x0008000000000000 && !leafCK leaf
  | _ => false
/-- An access of the host that is complete at once. -/
def hostReaches (s : State) (o : Option Nat) (kind : Acc) (va n : Nat) : Bool :=
  match s.hostSpan 0 o kind va n with
  | .ok xs => whole1 va n xs (s.peerBegin (.agent 98) none .host 0 (ioAgents 98) (kind == .write) xs).2
  | .error _ => false
/-- An access of core 15 that is complete at once. -/
def coreReaches (s : State) (kind : Acc) (va n : Nat) : Bool :=
  match s.cores[15]?.bind fun c => s.appSpan 15 c kind va n with
  | some xs => whole1 va n xs (s.peerBegin (.agent (512 + 15)) (if s.joinedIn (.pair 7) then some (.pair 7) else none) .app 0 (appAgents 15)
      (kind == .write || kind == .atomic) xs).2
  | none => false

/-- HostAndLink: offsets at the end of BAR 0 and past it, of the system window, and at the end of BAR 2 and past it; accesses
that are complete, of a function and, in the root-port role, of the attached endpoint; one that waits for tokens; one that
does not translate; the link down, up, and held by a domain restart. -/
theorem met_HostAndLink :
    (hbed.pcie.fns.find? fun x => x.fn == 3).any (fun f => !f.sysWin && f.part == 0 && f.hbits == 30) ∧
    (hbed.pcie.fns.find? fun x => x.fn == 0).any (fun f => f.sysWin) ∧ hbed.pcie.up = true ∧ hbed.pcie.rootPort = false ∧
    0xFFF8 + 8 ≤ 0x10000 ∧ 0x1FFF8 + 8 ≤ 0x20000 ∧ 0x11FFC + 4 ≤ 2 ^ 30 ∧ 2 ^ 30 < 2 ^ 30 - 4 + 5 ∧
    (∀ r ∈ hbed.regs, r.held = [] ∧ r.slice = []) ∧ hbed.domains = [] ∧ hbed.poison = [] ∧
    hostReaches hbed (some 3) .read 0x11FFC 4 ∧ hostReaches hbed (some 3) .write 0x11FFC 4 ∧
    (let r := { hbed with pcie := { hbed.pcie with rootPort := true } }
     hostReaches r none .read 0x11FFC 4 ∧ r.pcie.rootPart = 0) ∧
    (let far := { hbed with tlb := [] }
     (match far.hostSpan 0 (some 3) .read 0x11FFC 4 with | .error e => (far.hostFault 0 0 e).isSome | .ok _ => false) = true) ∧
    (let held := { hbed with tokens := [{ line := 0x11FFC / 64, holder := .cluster 0, n := 128, owner := true, way := 0 }] }
     hostReaches held (some 3) .read 0x11FFC 4 ∧ held.tokMsgs = []) ∧
    (let away := { hbed with tokMsgs := [.response (0x11FFC / 64) (some (.cluster 1)) 128 true 0] }
     hostReaches away (some 3) .read 0x11FFC 4 = false) ∧
    hbed.parts.length = 64 ∧ hbed.proctor.resets = [] ∧
    (withJob hbed (job0 (card fields0))).jobs.length = 1 ∧ bed.pcie.up = false ∧ bed.pcie.downAt = none ∧ bed.now < 2 ^ 64 ∧
    98 ∈ ({ bed.proctor with resets := [98] } : Proctor).resets := by decide +kernel

/-- ApplicationCores: core 15, whose pair runs, in MODE 24 at level U; its accesses of each kind, one misaligned, and an
address that does not translate; an identity pending and enabled above one that is pending alone; a line reserved and
another. -/
theorem met_ApplicationCores :
    (let s := hbed
     s.pairRuns 7 = true ∧ s.cores[2 * 7 + 1]?.any (fun c => c.level == .u && c.satp.1 == .part && c.part == 0 &&
       c.eip.getLsbD 1 && !c.eie.getLsbD 1 && c.eip.getLsbD 2 && c.eie.getLsbD 2 && c.resv == some (0x11FFC / 64) &&
       (s.appSpan 15 c .read (2 ^ 30) 4).isNone && (s.appSpan 15 c .write (2 ^ 30) 4).isNone && (s.appSpan 15 c .atomic (2 ^ 30) 4).isNone) ∧
     coreReaches s .read 0x11FFC 4 ∧ coreReaches s .write 0x11FFF 1 ∧ coreReaches s .write 0x11FC0 64 ∧
     coreReaches s .atomic 0x11FF8 8 ∧ coreReaches s .atomic 0x11FFC 4 ∧ coreReaches s .write 0x11FFC 4 ∧ coreReaches s .read 0x11FFC 1 ∧
     0x11FFC % 8 ≠ 0 ∧ s.poison = [] ∧ s.domains = [] ∧ s.copies = [] ∧ (∀ r ∈ s.regs, r.held = [] ∧ r.slice = []) ∧
     (match s.access 0 (appAgents 15) .read true 0x11FFC 4 with | .ok pa _ _ _ => !management pa && pa / 64 == 0x11FFC / 64 | .fault _ _ => false) = true ∧
     (let away := { s with tokMsgs := [.response (0x11FFC / 64) (some (.cluster 1)) 128 true 0] }
      coreReaches away .read 0x11FFC 4 = false ∧ coreReaches away .write 0x11FFC 4 = false)) := by decide +kernel

/-- A state with the clusters joined and its tokens, requests and messages. -/
def tokBed (ts : List TokenHold) (rs : List TokReq) (ms : List TokMsg) : State :=
  { bed with clusters := bed.clusters.map fun c => { c with joined := true, selfTest := true, power := .active }, tokens := ts, tokReqs := rs, tokMsgs := ms }
/-- CoherenceTokens: a holder without tokens, with one, with all; a read and a write that reach an owner of two, of one, a
holder that does not own, and one without tokens; answers of this and an earlier generation; a request 1,280 ns old after
three and after four failures; a persistent request; its end; 128 tokens. -/
theorem met_CoherenceTokens :
    (let a : Holder := .cluster 0
     let b : Holder := .pair 7
     let own := fun (n : Nat) (o : Bool) => ({ line := 5, holder := a, n := n, owner := o, way := 0 } : TokenHold)
     let req := fun (st f : Nat) => ({ holder := b, line := 5, write := true, sent := 0, last := 0, failures := f, stage := st } : TokReq)
     let s := tokBed [own 2 true] [] [.forward 5 a b false 0, .forward 5 a b true 0, .forward 5 a b true 1, .response 5 (some b) 3 false 0,
                                      .response 5 (some b) 3 false 9]
     (s.tokensAt a 5 = 2 ∧ s.ownsAt a 5 = true ∧ s.tokensAt b 5 = 0 ∧ s.joinedIn a = true ∧ s.joinedIn b = true ∧ s.activeReq 5 = none ∧
      s.gen 5 = 0 ∧ 0 < s.homeTokens 5 ∧ s.lineTokens 5 ≤ 128 ∧ s.joinedHolders.contains b) ∧
     (tokBed [own 1 true] [] []).ownsAt a 5 = true ∧ (tokBed [own 1 false] [] []).ownsAt a 5 = false ∧
     (tokBed [own 128 true] [] []).tokensAt a 5 = 128 ∧ (tokBed [own 128 true] [] []).lineTokens 5 = 128 ∧ bed.joinedIn a = false ∧
     ([2, 3].all fun f => ((tokBed [] [req 0 f] []).tokReqs.find? fun r => r.line == 5 && decide (r.holder = b)) == some (req 0 f)) ∧
     ((1280 : Nat) = 0 + 1280) ∧ (tokBed [own 2 true] [req 1 4] []).tokReqs = [req 1 4] ∧
     (s.joinedHolders.all fun x => !s.cutOff x) ∧ s.links = [] ∧ s.homeStopped (some a) = false ∧ (s.roomFor a 5).2 = none ∧
     (s.joinedHolders.all fun x => !(tokBed [own 2 true] [req 1 4] []).cutOff x) ∧
     (tokBed [] [req 3 4] []).activeReq 5 = some (req 3 4) ∧
     (tokBed [{ line := 5, holder := b, n := 128, owner := true, way := 0 }] [req 3 4] []).tokensAt b 5 = 128) := by decide +kernel

/-- LeaveAndJoin: a joined cluster that is to leave, one that may join, a pair under restart and one that is not; tokens lost
at a cluster without gangs, with dirty data of the line. -/
theorem met_LeaveAndJoin :
    (let s := tokBed [] [] []
     let iso := { s with clusters := s.clusters.modify 63 fun c => { c with isolated := true } }
     iso.joinedIn (.cluster 63) = true ∧ iso.leaveDue (.cluster 63) = true ∧ s.leaveDue (.cluster 63) = false ∧ s.clusters.length = 64 ∧
     ((s.clusters[63]?).map (·.selfTest)) = some true ∧
     (let t := { s with clusters := s.clusters.modify 63 fun c => { c with joined := false } }
      t.joinedIn (.cluster 63) = false ∧ t.leaveDue (.cluster 63) = false) ∧
     (let p := { s with proctor := { s.proctor with resets := [71] } }
      p.leaveDue (.pair 7) = true ∧ p.joinedIn (.pair 7) = true ∧ ({ s with left := [.pair 7] } : State).joinedIn (.pair 7) = false) ∧
     s.gangsOn 63 = [] ∧
     (({ s with dirty := [{ line := 5, holder := .cluster 63, home := 3, charge := none }] } : State).dirty.find? fun d => d.line == 5) =
       some { line := 5, holder := .cluster 63, home := 3, charge := none }) := by decide +kernel

/-- RestoresAndErrors: a restore requested on an open checkpoint with and without NOUNDO, and after a seal whose digest holds,
does not, and whose tags are fewer than its COUNT; the 16th and 17th lane of a direction; neighbours and others. -/
theorem met_RestoresAndErrors :
    (let s := fun (x : Domain) => { bed with domains := [x] }
     let open_ := fun (nu : Bool) => { dom7 with busy := true, openCk := 4, state := 1, rcp := 0, noundo := nu, tags := [9], undo := [(9, 5)] }
     let sl : Seal := { n := 3, count := 0, time := 0, digest := bed.lineDigest [], prev := 0, tags := [], undo := [], hasUndo := false, noundo := false }
     let sealed := fun (f : Seal → Seal) => { dom7 with busy := true, seals := [f sl] }
     ([true, false].all fun nu => (s (open_ nu)).domain? 0 7 == some (open_ nu)) ∧ ((open_ true).undo.map (·.1)).Nodup ∧
     (sealed id).seals.find? (fun y => y.n == dom7.rcp) = some sl ∧ dom7.rcp ≠ 0 ∧ sl.count = sl.tags.length ∧
     bed.lineDigest sl.tags = sl.digest ∧ bed.lineDigest [] ≠ [] ∧
     (sealed fun y => { y with count := 1 }).seals.length = 1 ∧ bed.jobs = [] ∧ bed.ckPend = [] ∧ bed.persistDown = false ∧
     (∀ r ∈ bed.regs, r.held = [] ∧ r.slice = []) ∧ ({ bed.proctor with resets := [97] } : Proctor).resets.contains 97 = true ∧
     ([open_ true, open_ false, sealed id, sealed fun y => { y with count := 1 }, sealed fun y => { y with hasUndo := true, undo := [(9, 5)] }].all
       fun x => ((s x).persistReads (x.digestLines ((s x).restored x))).2) ∧
     (sealed fun y => { y with tags := [9], count := 1 }).seals.any (fun y => (s dom7).lineDigest y.tags != y.digest)) ∧
    (let s := fun (n : Nat) => { bed with lanes := (List.range n).map fun l => (1, l) }
     ((s 15).lanes.filter fun l => l.1 == 1).length + 1 ≤ 16 ∧ 16 < ((s 16).lanes.filter fun l => l.1 == 1).length + 1 ∧
     ¬ (1, 63) ∈ (s 16).lanes ∧ bed.clusters.length = 64) ∧
    (62 / 8 = 63 / 8 ∧ 62 + 1 = 63) ∧ 7 / 8 ≠ 8 / 8 ∧ 55 + 8 = 63 := by decide +kernel

/-- BootAndRestart: no firmware; a restart under way, requested and refused. -/
theorem met_BootAndRestart :
    State.reset.proctor.booted = false ∧ State.reset.proctor.pickSlot = none ∧
    (let p := { bed.proctor with booted := true }
     p.restarting = none ∧ ({ p with restarting := some 3 } : Proctor).restarting = some 3 ∧ p.waiting = none ∧
     ((bed.parts[63]?).any fun x => x.jq.isEmpty)) := by decide +kernel

/-- BootAndRestart: whether a signature verifies and which root key the ROM holds are no values of the model (log entry 9); for
keys and signatures that verify, a firmware slot and a record meet the hypotheses of the boot that completes. -/
theorem met_BootAndRestart_boot (key : List Byte) (hk : sha3_512 key = Config.rootKeyDigest)
    (hv : ∀ k m s, Config.mldsaVerify k m s = true) :
    (let x : FwSlot := { image := [], sig := [], key := key, svn := 0, owners := [[]] }
     let p := { State.reset.proctor with slotB := some x, config := some cfg }
     p.pickSlot = some (true, x) ∧ configFault p x.owners = 0 ∧ p.memOk = true ∧ p.linkOk = true ∧ p.portOk = true ∧ p.pairOk = true ∧
     p.storeOk = true ∧ (cfg.parts.map (·.1)).Nodup) := by
  have h : cfg.headerOk 0 = true ∧ cfg.wf = true ∧ cfg.inRange = true := by decide +kernel
  refine ⟨?_, ?_, rfl, rfl, rfl, rfl, rfl, by decide +kernel⟩
  · simp [Proctor.pickSlot, FwSlot.valid, hk, hv, Proctor.reset, State.reset]
  · simp [configFault, hv, Proctor.reset, State.reset, h]

/-- DomainRestarts: a domain of each kind, a third miss, a pair with its HBPAIR bit, with HBEN, and with neither; a restart
taken, refused and waiting; and its end. -/
theorem met_DomainRestarts :
    (let p := { bed.proctor with booted := true }
     p.restarting = none ∧ p.resets = [] ∧ p.halted = false ∧ bed.lanesShort = false ∧
     ({ bed with lanes := (List.range 17).map fun l => (0, l) } : State).lanesShort = true ∧ bed.dueTimes = [] ∧ (({ p with missed := [(102, 2)] } : Proctor).missed.lookup 102).getD 0 = 2 ∧
     ({ p with hbpair := 0x80 } : Proctor).hbpair.getLsbD (71 - 64) = true ∧ p.hbpair.getLsbD (71 - 64) = false ∧
     ({ p with hben := 0x80 } : Proctor).hben.getLsbD (71 - 64) = true ∧ p.hben.getLsbD (71 - 64) = false ∧
     ({ p with resets := [63] } : Proctor).resets.contains 63 = true ∧ (bed.clusters[63]?).isSome ∧
     ({ p with restarting := some 1 } : Proctor).restarting.isSome) := by decide +kernel

/-- QuotesAndPower: a booted Proctor; an idle cluster whose tolerance reaches each state; samples above PCAP, at it, at 95 % of
it and below, with and without a cluster that may be withheld or returned. -/
theorem met_QuotesAndPower :
    (let s := tokBed [] [] []
     (s.idleCluster 63 = true ∧ (s.clusters[63]?).map (·.power) = some .active ∧ s.pool[63]? = some 3 ∧ s.idleCluster 0 = false) ∧
     (let t := { s with pool := s.pool.set 63 2, proctor := { s.proctor with tols := 2000000, booted := true } }
      t.pool[63]? = some 2 ∧ 2000000 ≤ t.proctor.tols.toNat ∧ Power.active.depth < Power.off.depth ∧ t.proctor.restarting = none ∧
      t.proctor.samples = [] ∧ t.proctor.pcap = 240000 ∧
      ((t.clusters[63]?).map (·.withheld)) = some false ∧ 240000 * 1 < [240001].sum ∧ [240000].sum ≤ 240000 * 1 ∧
      95 * (240000 * 1) ≤ 100 * [228000].sum ∧ 100 * [227999].sum < 95 * (240000 * 1)) ∧
     (let w := { s with clusters := s.clusters.modify 63 fun c => { c with withheld := true } }
      (w.clusters[63]?).map (·.withheld) = some true ∧ ((List.range 63).all fun n => (w.clusters[n]?).map (·.withheld) == some false))) := by
  decide +kernel

/-! ### Placed words and the engines, stepped -/

/-- The example of R241: the copy writes EE EE EE 55 02 03 EE 55 and counts 6 elements. -/
theorem test_copy_engine :
    (let s := { copyBed with clusters := copyBed.clusters.modify 0 fun c => { c with scratch := Memory.write c.scratch 16 (List.replicate 8 0x55) } }
     match exec (.commandStart 0) (addCmd s (.ceCopy (ew 0 0x84 0xC0 0xC1)) (1 + 2 * 2 ^ 256 + (2 ^ 32 - 1) * 2 ^ 288) 0 1) with
     | .next t => (t.clusters[0]?.any fun c => (c.scratch.map fun x => (x.1, x.2)) ==
           [(16, 0xEE), (17, 0xEE), (18, 0xEE), (19, 0x55), (20, 2), (21, 3), (22, 0xEE), (23, 0x55)]) && cmd0 t fun c => c.count == 6
     | _ => false) = true := by decide +kernel

/-- DecodeEncode and StepRunsDecoded: the word of `vfma.fp32.rn V6, V1, V2, V3` placed where the next step fetches it is read,
decodes, and meets the hypotheses; its step gives a next state. -/
theorem met_StepRunsDecoded :
    (Instr.fma (rv 0 6 1 2 3)).wf = true ∧ encode (.fma (rv 0 6 1 2 3)) = some (0x2030003008040180, none) ∧
    (let s := State.reset.withFetchWord 64 0x2030003008040180
     s.agenda = [.issue 0 0] ∧ s.proctor.halted = false ∧
     (s.ctxOf 0 0).any (fun k => k.wv.status == .resident && !k.fr.held && !k.wv.hmode && k.wv.pendTrap.isNone && k.wv.deferred.isEmpty &&
       !k.wv.recess && k.fr.st == .ready && !s.serialHolds k && !s.turnHeld k && (k.wv.pend.all fun p => p.poison.isNone) && !wordL 0x2030003008040180 &&
       match s.fetchWord k.part k.wv.core k.fr.pc.toNat with | .ok x => x == 0x2030003008040180 | .error _ => false) = true ∧
     (match decode 0x2030003008040180 none with | .ok i => i == .fma (rv 0 6 1 2 3) | .error _ => false) = true ∧
     (match step s with | .next t => t.waves[0]?.any fun v => v.frag0.any fun f => f.pc == 0x10008 | _ => false) = true) ∧
    (let s := { State.reset with agenda := [.event (.heartbeat 0)] }
     s.agenda = .event (.heartbeat 0) :: [] ∧ encode (.heartbeat 0) = none) := by decide +kernel

/-- StepKeepsMemoryCanonical: a state with a byte in memory, canonical, whose step answers. -/
theorem met_StepKeepsMemoryCanonical :
    (let s := State.reset.withFetchWord 64 0x2030003008040180
     Memory.wf s.mem && !s.mem.isEmpty && match step s with | .next _ => true | _ => false) = true := by decide +kernel

end Sys2Proof.Tests
end

section
/-!
SUPPORT. A lane's access to the global space: what the checks of R180 answer, and what a lane reads in plain memory.
-/

namespace Sys2Proof.Machine

/-- A factor common to all terms of a sum. -/
theorem sum_map_mul {α : Type} (l : List α) (c : Nat) (f : α → Nat) : (l.map fun x => c * f x).sum = c * (l.map f).sum := by
  induction l with
  | nil => rfl
  | cons x l ih => rw [List.map_cons, List.map_cons, List.sum_cons, List.sum_cons, ih, Nat.mul_add]

/-- A byte list as a sum over its places (R4). -/
theorem ofBytes_map_range (f : Nat → Byte) (n : Nat) :
    ofBytes ((List.range n).map f) = ((List.range n).map fun j => (f j).toNat * 256 ^ j).sum := by
  induction n generalizing f with
  | zero => rfl
  | succ n ih =>
    have next : ∀ j, (f (j + 1)).toNat * 256 ^ (j + 1) = 256 * ((f (j + 1)).toNat * 256 ^ j) := fun j => by
      rw [Nat.pow_succ', Nat.mul_left_comm]
    rw [List.range_succ_eq_map, List.map_cons, List.map_cons, List.map_map, List.map_map, ofBytes, ih, List.sum_cons,
      Nat.pow_zero, Nat.mul_one]
    simp only [Function.comp_def, Nat.succ_eq_add_one, next, sum_map_mul]

/-! ## Translation of one piece -/

/-- Checks 3 and 4 of R180: a page that is mapped and permits the access. -/
theorem State.access_permitted {s : State} {p : Nat} {agents : List Nat} {kind : Acc} {core : Bool} {va n pa vb sz : Nat}
    {leaf : Word64} (hx : s.xlate p agents va = .ok pa leaf vb sz) (hp : s.permitted p kind core leaf pa n = true) :
    s.access p agents kind core va n = .ok pa leaf vb sz := by
  simp only [State.access, hx, hp, if_true]

/-- A page that does not permit it: PROTECTION. -/
theorem State.access_barred {s : State} {p : Nat} {agents : List Nat} {kind : Acc} {core : Bool} {va n pa vb sz : Nat}
    {leaf : Word64} (hx : s.xlate p agents va = .ok pa leaf vb sz) (hp : s.permitted p kind core leaf pa n = false) :
    s.access p agents kind core va n = .fault 0x0A false := by
  simp only [State.access, hx, hp, Bool.false_eq_true, if_false]

/-- An address that does not translate: the walk's cause. -/
theorem State.access_fault {s : State} {p : Nat} {agents : List Nat} {kind : Acc} {core : Bool} {va n c : Nat} {malf : Bool}
    (hx : s.xlate p agents va = .fault c malf) : s.access p agents kind core va n = .fault c malf := by
  simp only [State.access, hx]

section
variable (s : State) (k : Ctx) (kind : Acc) (lane addr : Nat) (priv : Bool) {va n : Nat}

/-- One piece that passes checks 3 and 4 gives one span. -/
theorem State.translateAll_ok {pa vb sz : Nat} {leaf : Word64}
    (h : s.access k.part (coreAgents k.wv.core) kind false va n = .ok pa leaf vb sz) :
    s.translateAll k kind lane addr priv [(va, n)] =
      { lane := lane, addr := addr, spans := [{ place := .phys pa leaf priv, va := va, n := n }], bad := none } := by
  simp [State.translateAll, h]

/-- One piece that fails gives its cause and no span. -/
theorem State.translateAll_fault {c : Nat} {malf : Bool}
    (h : s.access k.part (coreAgents k.wv.core) kind false va n = .fault c malf) :
    s.translateAll k kind lane addr priv [(va, n)] = LaneRes.fail lane addr c malf := by
  by_cases hc : c = 0x0A <;> simp [State.translateAll, h, hc]

end

/-! ## The lane -/

section
variable (s : State) (k : Ctx) (kind : Acc) (win : Windows) (n lane : Nat) {addr : Nat}

/-- R180, check 1: an address of 2^56 or more. -/
theorem State.laneGlobal_out_of_range (h : 2 ^ 56 ≤ addr) :
    s.laneGlobal k kind win n lane addr = LaneRes.fail lane addr 0x08 := if_pos h

/-- Below the windows alignment (check 2) and translation are left (R176, R180). -/
theorem State.laneGlobal_below_windows (h : addr < 0xFFFE0000000000) :
    s.laneGlobal k kind win n lane addr =
      if addr % n ≠ 0 then LaneRes.fail lane addr 0x07 else s.translateAll k kind lane addr false [(addr, n)] := by
  have hf : field addr 40 16 < 0xFFFE := by
    rw [field, Nat.shiftRight_eq_div_pow]
    omega
  rw [State.laneGlobal, if_neg (by omega), if_neg (by omega), if_neg (by omega)]

theorem State.laneGlobal_misaligned (h : addr < 0xFFFE0000000000) (ha : addr % n ≠ 0) :
    s.laneGlobal k kind win n lane addr = LaneRes.fail lane addr 0x07 := by
  rw [State.laneGlobal_below_windows s k kind win n lane h, if_pos ha]

theorem State.laneGlobal_aligned (h : addr < 0xFFFE0000000000) (ha : addr % n = 0) :
    s.laneGlobal k kind win n lane addr = s.translateAll k kind lane addr false [(addr, n)] := by
  rw [State.laneGlobal_below_windows s k kind win n lane h, if_neg fun h => h ha]

end

/-! ## What a lane reads -/

/-- Without copies that discards have left, a holder reads memory (R322). -/
theorem State.readPA_of_no_copies {s : State} (h : s.copies = []) (o : Option Holder) (pa n : Nat) :
    s.readPA o pa n = Memory.read s.mem pa n := by
  cases o with
  | none => rfl
  | some x => simp [State.readPA, h]

/-- In plain memory, with no cached copies, a wave of a launch that is not deterministic reads memory (R322, R324). -/
theorem State.spanRead_plain {s : State} {k : Ctx} {pa : Nat} (ho : outbound pa = false) (hd : k.l.determ = false)
    (hl : s.l1 = []) (hc : s.copies = []) (fresh : Bool) (leaf : Word64) (priv : Bool) (va n : Nat) :
    s.spanRead k fresh { place := .phys pa leaf priv, va := va, n := n } = Memory.read s.mem pa n := by
  have hl1 : ∀ core h, s.readL1 core h pa n = s.readPA h pa n := fun core h => by simp [State.readL1, hl]
  simp only [State.spanRead, ho, hd, hl1, State.readPA_of_no_copies hc, Bool.false_and, Bool.false_eq_true, if_false, ite_self]

/-- Settles O28: an access below the windows comes to one translated piece, and each check that fails names its cause. -/
theorem addressChecks : Obligations.AddressChecks := by
  refine ⟨fun s k kind win n lane addr pa leaf vb sz _ hw ha hx hp => ?_, fun s k kind win n lane addr _ => ?_⟩
  · have one := (s.laneGlobal_aligned k kind win n lane hw ha).trans
      (s.translateAll_ok k kind lane addr false (State.access_permitted hx hp))
    refine ⟨one, fun ho hd hl hc fresh => ?_⟩
    rw [one, State.laneRead, List.flatMap_singleton, State.spanRead_plain ho hd hl hc, Memory.read, ofBytes_map_range]
  · refine ⟨s.laneGlobal_out_of_range k kind win n lane, s.laneGlobal_misaligned k kind win n lane,
      fun hw ha c malf hx => ?_, fun hw ha pa leaf vb sz hx hp => ?_⟩
    · exact (s.laneGlobal_aligned k kind win n lane hw ha).trans
        (s.translateAll_fault k kind lane addr false (State.access_fault hx))
    · exact (s.laneGlobal_aligned k kind win n lane hw ha).trans
        (s.translateAll_fault k kind lane addr false (State.access_barred hx hp))

end Sys2Proof.Machine
end

section
/-!
SUPPORT. The management range: bytes written to it word by word, and what a write of one word does.
-/

namespace Sys2Proof.Machine

/-- Changing the element that stands at an index is setting it. -/
theorem modify_eq_set {α : Type} {l : List α} {i : Nat} {x : α} (h : l[i]? = some x) (f : α → α) :
    l.modify i f = l.set i (f x) := by
  induction l generalizing i with
  | nil => cases h
  | cons y l ih =>
    cases i with
    | zero => cases h; rfl
    | succ i => exact congrArg (y :: ·) (ih h)

/-! ## Words -/

/-- A write of all bits puts the written word. -/
@[simp] theorem putBits_allOnes (old v : Word64) : putBits old v (BitVec.allOnes 64) = v := by
  rw [putBits, BitVec.and_allOnes, BitVec.not_allOnes, BitVec.and_zero, BitVec.zero_or]

/-- The low half of a word. -/
theorem extractLsb'_low (v : Word64) : v.extractLsb' 0 32 = v.setWidth 32 :=
  BitVec.eq_of_toNat_eq (by simp)

/-- The word with the bits b below n. -/
def bitSum (b : Nat → Bool) (n : Nat) : Nat := ((List.range n).map fun q => if b q then 2 ^ q else 0).foldl (· + ·) 0

theorem bitSum_succ (b : Nat → Bool) (n : Nat) : bitSum b (n + 1) = bitSum b n + if b n then 2 ^ n else 0 := by
  simp [bitSum, List.range_succ]

theorem bitSum_lt (b : Nat → Bool) (n : Nat) : bitSum b n < 2 ^ n := by
  induction n with
  | zero => exact Nat.one_pos
  | succ n ih =>
    rw [bitSum_succ, Nat.pow_succ]
    split <;> omega

/-- Bit i of the word is b i. -/
theorem testBit_bitSum (b : Nat → Bool) (n i : Nat) (h : i < n) : (bitSum b n).testBit i = b i := by
  induction n with
  | zero => omega
  | succ n ih =>
    have hl := bitSum_lt b n
    rw [bitSum_succ]
    by_cases hi : i = n
    · subst hi
      cases hb : b i
      · simpa using Nat.testBit_lt_two_pow hl
      · simp [Nat.add_comm, Nat.testBit_two_pow_add_eq, Nat.testBit_lt_two_pow hl]
    · have hi : i < n := by omega
      cases hb : b n
      · simpa using ih hi
      · simp [Nat.add_comm _ (2 ^ n), Nat.testBit_two_pow_add_gt hi, ih hi]

/-- Bytes put at their places are the number they make (R4). -/
theorem putAt_bytes (bs : List Byte) :
    ((List.range bs.length).map fun i => putAt (bs.getD i 0).toNat (8 * i)).foldl (· + ·) 0 = ofBytes bs := by
  rw [← List.sum_eq_foldl]
  induction bs with
  | nil => rfl
  | cons b bs ih =>
    have tail : ∀ i, putAt ((b :: bs).getD (i + 1) 0).toNat (8 * (i + 1)) = 256 * putAt (bs.getD i 0).toNat (8 * i) := by
      intro i
      rw [List.getD_cons_succ, putAt, putAt, Nat.mul_succ, Nat.shiftLeft_add, Nat.shiftLeft_eq _ 8, Nat.mul_comm]
    rw [List.length_cons, List.range_succ_eq_map, List.map_cons, List.sum_cons, List.map_map]
    simp only [Function.comp_def, Nat.succ_eq_add_one, tail, sum_map_mul, ih]
    simp [putAt, ofBytes]

/-- Eight bytes written to an aligned address are one write of the word, of all its bits (R5). -/
theorem State.writeRegs_word (s : State) (w : Nat) (v : Word64) :
    s.writeRegs (8 * w) (bytesOf 8 v.toNat) = s.writeReg (8 * w) v (BitVec.allOnes 64) := by
  have hw : (8 * w + 8 - 1) / 8 - w + 1 = 1 := by omega
  have hd : 8 * w / 8 = w := by omega
  have has : ∀ i ∈ List.range 8, (decide (8 * w ≤ 8 * w + i) && decide (8 * w + i < 8 * w + 8)) = true := by
    intro i hi
    have := List.mem_range.1 hi
    simp only [Bool.and_eq_true, decide_eq_true_eq]; omega
  have hv : v.toNat % 256 ^ 8 = v.toNat := Nat.mod_eq_of_lt v.isLt
  have ones : BitVec.ofNat 64 (((List.range 8).map fun i => putAt 0xFF (8 * i)).foldl (· + ·) 0) = BitVec.allOnes 64 := by decide
  have sum := putAt_bytes (bytesOf 8 v.toNat)
  rw [bytesOf_length, ofBytes_bytesOf] at sum
  unfold State.writeRegs
  dsimp only
  rw [bytesOf_length, hd, hw, if_neg (by decide), List.range_one, List.map_singleton, List.foldl_cons, List.foldl_nil,
    Nat.zero_add]
  rw [List.map_congr_left (g := fun i => putAt ((bytesOf 8 v.toNat).getD i 0).toNat (8 * i)) fun i hi => by
      rw [if_pos (has i hi), Nat.add_sub_cancel_left],
    List.map_congr_left (g := fun i => putAt 0xFF (8 * i)) fun i hi => if_pos (has i hi),
    sum, hv, ones, BitVec.ofNat_toNat, BitVec.setWidth_eq]

/-- REGISTER_WRITE at an aligned address of the management range writes that word (R5, R386). -/
theorem exec_registerWrite (s : State) (pa : Nat) (v : Word64) (hm : management pa = true) (h8 : pa % 8 = 0) :
    exec (.registerWrite pa v) s = .next (s.writeReg pa v (BitVec.allOnes 64)) := by
  have hp : pa = 8 * (pa / 8) := by omega
  have e : exec (.registerWrite pa v) s = .next (if management pa then s.writeRegs pa (bytesOf 8 v.toNat) else s) := rfl
  rw [e, if_pos hm, hp, State.writeRegs_word]

/-- REGISTER_WRITE at an offset of a partition's window (R391). -/
theorem exec_registerWrite_window (s : State) (p off : Nat) (v : Word64) (hp : p < 64) (h8 : off % 8 = 0) (ho : off < 0x10000) :
    exec (.registerWrite (0x000FFF0000100000 + 0x10000 * p + off) v) s =
      .next (s.writeWindow p off v (BitVec.allOnes 64)) := by
  have e : 0x000FFF0000100000 + 0x10000 * p + off - 0x000FFF0000000000 = 0x100000 + 0x10000 * p + off := by omega
  have hq : (0x100000 + 0x10000 * p + off - 0x100000) / 0x10000 = p := by omega
  have hr : (0x100000 + 0x10000 * p + off) % 0x10000 = off := by omega
  rw [exec_registerWrite _ _ _ (by simp only [management, Bool.and_eq_true, decide_eq_true_eq]; omega) (by omega), State.writeReg, e]
  simp only [hq, hr]
  rw [if_neg (by omega), if_neg (by omega), if_pos (by omega)]

/-! ## A partition's window -/

section
variable (s : State) (p : Nat) (v : Word64) {x : Part} (hx : s.parts[p]? = some x)
include hx

/-- A queue-table entry in the window: of a queue of the partition alone (R391). -/
theorem State.writeWindow_queue {off : Nat} (h : off < 0x800) (m : Word64) :
    s.writeWindow p off v m = if x.qmask.getLsbD (off / 32) then s.writeQueue (off / 32) (off % 32 / 8) v m else s := by
  simp only [State.writeWindow, hx, h, if_true, State.ownsQueue]

/-- The registers of the window that a write replaces as a whole (R360, R391, R416). -/
theorem State.writeWindow_registers :
    s.writeWindow p 0x800 v (BitVec.allOnes 64) = s.setPart p (fun y => { y with jtbase := v }) ∧
    s.writeWindow p 0x840 v (BitVec.allOnes 64) = s.setPart p (fun y => { y with fqhdr := v }) ∧
    s.writeWindow p 0x850 v (BitVec.allOnes 64) = s.setPart p (fun y => { y with jhdr := v }) ∧
    s.writeWindow p 0x880 v (BitVec.allOnes 64) = s.setPart p (fun y => { y with iaddr := v }) ∧
    s.writeWindow p 0x888 v (BitVec.allOnes 64) = s.setPart p (fun y => { y with ilen := v }) := by
  simp [State.writeWindow, hx, -BitVec.reduceAllOnes]

/-- Reserved places and read-only registers of the window keep what they hold (R391). -/
theorem State.writeWindow_reserved {off : Nat} (h : (0x898 ≤ off ∧ off < 0x1000) ∨ 0x2300 ≤ off) (m : Word64) :
    s.writeWindow p off v m = s := by
  simp only [State.writeWindow, hx]
  repeat rw [if_neg (by omega)]

/-- The regulator status of a job in the window (R404). -/
theorem State.writeWindow_status {j : Nat} (h : j < 256) (m : Word64) :
    s.writeWindow p (0x1000 + 16 * j) v m = s.clearStatus p j 0 v m := by
  have hj : (0x1000 + 16 * j - 0x1000) / 16 = j := by omega
  have hw : (0x1000 + 16 * j) % 16 / 8 = 0 := by omega
  simp only [State.writeWindow, hx, hj, hw]
  rw [if_neg (by omega), if_neg (by omega), if_neg (by omega), if_neg (by omega), if_neg (by omega), if_neg (by omega),
    if_neg (by omega), if_neg (by omega), if_neg (by omega), if_pos (by omega)]

end

/-- A queue's HDR and TEMPLATE are written only while EN = 0; DONE is read-only (R358). -/
theorem State.writeQueue_words (s : State) (q : Nat) (v : Word64) :
    s.writeQueue q 3 v (BitVec.allOnes 64) = s ∧
    ((s.qtab.getD q QEntry.reset).en = true → ∀ m, s.writeQueue q 0 v m = s ∧ s.writeQueue q 2 v m = s) ∧
    ((s.qtab.getD q QEntry.reset).en = false →
      s.writeQueue q 0 v (BitVec.allOnes 64) = s.setQ q (fun y => { y with hdr := v }) ∧
      s.writeQueue q 2 v (BitVec.allOnes 64) = s.setQ q (fun y => { y with template := v })) := by
  refine ⟨rfl, fun he m => ?_, fun he => ?_⟩ <;>
    simp only [State.writeQueue, he, if_true, Bool.false_eq_true, if_false, putBits_allOnes, and_self]

/-! ## The status of a regulator -/

@[simp] theorem State.regStat_job (s : State) (j : Nat) : (s.regStat j).job = j := by
  unfold State.regStat
  cases h : s.regStats.find? fun r => r.job == j with
  | none => rfl
  | some r => simpa using List.find?_some h

/-- The status of a job after that of r's job has been set. -/
theorem State.regStat_setRegStat (s : State) (r : RegStat) (n : Nat) :
    (s.setRegStat r).regStat n = if n = r.job then r else s.regStat n := by
  unfold State.setRegStat State.regStat
  by_cases h : n = r.job
  · simp [h]
  · have hb : (r.job == n) = false := by simpa using fun e => h e.symm
    simp only [List.find?_cons, hb, if_neg h, List.find?_filter]
    congr 2
    funext y
    by_cases hy : y.job = n
    · simp [hy, h]
    · simp [hy]

/-- A 1 written to a bit of OVCNT clears it (R5, R404). -/
theorem State.clearStatus_own {s : State} {p j : Nat} {jb : Job} (hj : s.job? j = some jb) (hp : cardPart jb.card = p)
    (v : Word64) :
    s.clearStatus p j 0 v (BitVec.allOnes 64) =
      s.setRegStat { s.regStat j with ovcnt := (s.regStat j).ovcnt &&& ~~~(v.setWidth 32) } := by
  have e : (v &&& BitVec.allOnes 64).extractLsb' 0 32 = v.setWidth 32 := by
    rw [BitVec.and_allOnes, extractLsb'_low]
  simp only [State.clearStatus, hj, hp, e]
  simp

/-! ## The system window -/

/-- A word of a class budget: BUDGET, and WINDOW where it is in its range (R403). -/
theorem ClassBudget.write_allOnes (c : ClassBudget) (v : Word64) :
    c.write v (BitVec.allOnes 64) =
      { budget := v.setWidth 32
        window := if 10000 ≤ v.toNat / 2 ^ 32 ∧ v.toNat / 2 ^ 32 ≤ 10000000 then BitVec.ofNat 32 (v.toNat / 2 ^ 32)
          else c.window } := by
  have hw : bits v 32 32 = v.toNat / 2 ^ 32 := by
    have := v.isLt
    rw [bits, field, Nat.shiftRight_eq_div_pow]
    omega
  rw [ClassBudget.write]
  simp only [putBits_allOnes, hw, extractLsb'_low]

/-- REGISTER_WRITE of a class budget (R403). -/
theorem exec_registerWrite_class {s : State} {n : Nat} {c : ClassBudget} (hn : n < 4) (hc : s.classes[n]? = some c) (v : Word64) :
    exec (.registerWrite (0x000FFF0000001100 + 16 * n) v) s =
      .next { s with classes := s.classes.set n (c.write v (BitVec.allOnes 64)) } := by
  have e : 0x000FFF0000001100 + 16 * n - 0x000FFF0000000000 = 0x1100 + 16 * n := by omega
  have hi : (0x1100 + 16 * n - 0x1100) / 16 = n := by omega
  rw [exec_registerWrite _ _ _ (by simp only [management, Bool.and_eq_true, decide_eq_true_eq]; omega) (by omega), State.writeReg, e]
  simp only [State.writeSystem, hi]
  rw [if_pos (by omega), if_neg (by omega), if_neg (by omega), if_pos (by omega), if_pos (by omega),
    modify_eq_set hc]

/-! ## The partition table -/

@[simp] theorem State.tallyWrite_sys (s : State) (ln : Nat) (c : Option Charge) : (s.tallyWrite ln c).sys = s.sys := by
  cases c with
  | none => rfl
  | some x =>
    unfold State.tallyWrite
    dsimp only
    exact iteInduction (motive := fun t : State => t.sys = s.sys) (fun _ => rfl) fun _ => rfl

/-- WAYS: the lines of the ways that the partition gives up go from the system cache (R393). -/
theorem State.writeWays_frame {s : State} {p : Nat} {x : Part} (hx : s.parts[p]? = some x) (ways : BitVec 24) :
    let t := s.writeWays p ways
    (t.mem = s.mem ∧ t.waves = s.waves ∧ t.qtab = s.qtab ∧ t.insts = s.insts) ∧
    t.parts[p]? = some { x with ways := ways } ∧
    t.sys = s.sys.filter (fun e => !(e.part == p && x.ways.getLsbD e.way && !ways.getLsbD e.way)) := by
  have tally : ∀ l : List SysLine, s.HomeStep (l.foldl (fun st e => st.tallyWrite e.line e.charge) s) ∧
      (l.foldl (fun st e => st.tallyWrite e.line e.charge) s).sys = s.sys := fun l =>
    foldl_keeps (fun t => s.HomeStep t ∧ t.sys = s.sys) _
      (fun t e ht => ⟨ht.1.trans (State.tallyWrite_home _ _ _), (State.tallyWrite_sys _ _ _).trans ht.2⟩) l ⟨rfl, rfl⟩
  simp only [State.writeWays, hx]
  generalize hg : List.foldl _ s _ = s1
  obtain ⟨home, sys⟩ : s.HomeStep s1 ∧ s1.sys = s.sys := hg ▸ tally _
  rw [State.HomeStep] at home
  refine ⟨?_, ?_, ?_⟩
  · rw [home]; exact ⟨rfl, rfl, rfl, rfl⟩
  · rw [home]; simp [hx]
  · rw [← sys]; rfl

/-- EN: cleared only while every queue of the partition is disabled (R389). -/
theorem State.writePartEn_spec {s : State} {p : Nat} {x : Part} (hx : s.parts[p]? = some x) (en : Bool) :
    let busy := ∃ q, q < 64 ∧ x.qmask.getLsbD q = true ∧ (s.qtab.getD q QEntry.reset).en = true
    (en = true ∨ ¬ busy → s.writePartEn p en = s.setPart p fun y => { y with en := en }) ∧
    (en = false → busy → s.writePartEn p en = s) := by
  have hb : ((List.range 64).any fun q => x.qmask.getLsbD q && (s.qtab.getD q QEntry.reset).en) = true ↔
      ∃ q, q < 64 ∧ x.qmask.getLsbD q = true ∧ (s.qtab.getD q QEntry.reset).en = true := by
    simp only [List.any_eq_true, List.mem_range, Bool.and_eq_true]
  simp only [State.writePartEn, hx, ← hb]
  refine ⟨fun h => if_neg ?_, fun he h => if_pos ?_⟩
  · rcases h with h | h
    · simp [h]
    · simp only [h, Bool.and_false, Bool.false_eq_true, not_false_eq_true]
  · rw [he, h]; rfl

/-- Replacing the entry of a partition by what it comes to for the one that stands there. -/
theorem State.setPart_congr {s : State} {p : Nat} {x : Part} (hx : s.parts[p]? = some x) {f g : Part → Part} (h : f x = g x) :
    s.setPart p f = s.setPart p g := by
  simp only [State.setPart, modify_eq_set hx, h]

/-- Another partition's entry has the bit of queue q. -/
def State.takenBeside (s : State) (p q : Nat) : Bool :=
  (List.range 64).any fun i => i != p && match s.parts[i]? with
    | some x => x.qmask.getLsbD q
    | none => false

theorem State.takenBeside_eq_false (s : State) (p q : Nat) :
    s.takenBeside p q = false ↔ ∀ n z, n < 64 → n ≠ p → s.parts[n]? = some z → z.qmask.getLsbD q = false := by
  rw [State.takenBeside, List.any_eq_false]
  refine ⟨fun h n z hn hne hz => ?_, fun h n hn => ?_⟩
  · have := h n (List.mem_range.2 hn)
    simpa [hne, hz] using this
  · cases hz : s.parts[n]? with
    | none => simp
    | some z =>
      by_cases hne : n = p
      · simp [hne]
      · simp [h n z (List.mem_range.1 hn) hne hz]

/-- The bit of queue q that a write of v leaves in QMASK of a partition that held x (R389). -/
def State.qmaskBit (s : State) (p : Nat) (v : Word64) (x : Part) (q : Nat) : Bool :=
  if (s.qtab.getD q QEntry.reset).en then x.qmask.getLsbD q else v.getLsbD q && !s.takenBeside p q

theorem State.writeQmask_eq {s : State} {p : Nat} {x : Part} (hx : s.parts[p]? = some x) (v : Word64) :
    s.writeQmask p v = s.setPart p fun y => { y with qmask := BitVec.ofNat 64 (bitSum (s.qmaskBit p v x) 64) } := by
  have e : s.writeQmask p v = s.setPart p fun y => { y with qmask := BitVec.ofNat 64 (bitSum (s.qmaskBit p v y) 64) } := rfl
  rw [e]
  exact State.setPart_congr hx rfl

/-- QMASK: the bits of enabled queues stay, and a queue of another partition is not taken (R389). -/
theorem State.qmaskBit_spec (s : State) (p : Nat) (v : Word64) (x : Part) (q : Nat) :
    ((s.qtab.getD q QEntry.reset).en = true → s.qmaskBit p v x q = x.qmask.getLsbD q) ∧
    (¬ (s.qtab.getD q QEntry.reset).en = true → (s.qmaskBit p v x q = true ↔ v.getLsbD q = true ∧
      ∀ n z, n < 64 → n ≠ p → s.parts[n]? = some z → z.qmask.getLsbD q = false)) := by
  refine ⟨fun he => if_pos he, fun he => ?_⟩
  rw [State.qmaskBit, if_neg he, Bool.and_eq_true, Bool.not_eq_true', State.takenBeside_eq_false]

/-! ## The pool map -/

/-- A pool-map entry that its cluster's kind allows: taken at once while the cluster is free, else when it next is
(R374, R390). -/
theorem State.writePool_allowed (s : State) {cl : Nat} {pool : BitVec 2} (h64 : cl < 64) (ha : poolAllowed cl pool = true) :
    let free := (∃ c, s.clusters[cl]? = some c ∧ c.job = none ∧ c.drain = none) ∧ s.clusterBusy cl = false
    (free → s.writePool cl pool = { s with pool := s.pool.set cl pool, poolNext := assocDel s.poolNext cl, undecided := true }) ∧
    (¬ free → s.writePool cl pool = { s with poolNext := assocSet s.poolNext cl pool }) := by
  have hf : ((match s.clusters[cl]? with | some c => c.job.isNone && c.drain.isNone | none => false) && !s.clusterBusy cl) = true ↔
      (∃ c, s.clusters[cl]? = some c ∧ c.job = none ∧ c.drain = none) ∧ s.clusterBusy cl = false := by
    cases s.clusters[cl]? with
    | none => simp
    | some c => simp
  rw [State.writePool, if_neg (by simp only [ha, Bool.not_true, Bool.or_false, decide_eq_true_eq]; omega)]
  dsimp only
  simp only [← hf]
  exact ⟨fun h => if_pos h, fun h => if_neg h⟩

/-- One that lies outside the map or that the kind does not allow changes nothing (R390). -/
theorem State.writePool_barred (s : State) {cl : Nat} {pool : BitVec 2} (h : 64 ≤ cl ∨ poolAllowed cl pool = false) :
    s.writePool cl pool = s := by
  rw [State.writePool, if_pos]
  rcases h with h | h <;> simp [h]

/-- What the kind of a cluster allows (R374). -/
theorem poolAllowed_iff (cl : Nat) (pool : BitVec 2) :
    poolAllowed cl pool = true ↔ ¬ (isG cl = true ∧ pool = 0) ∧ ¬ (isG cl = false ∧ pool = 1) := by
  unfold poolAllowed
  generalize isG cl = g
  cases g <;> simp

/-- PARTITION_TABLE_WRITE, word by word (R388, R389). -/
theorem exec_partitionTableWrite {s : State} {p : Nat} {x : Part} (hx : s.parts[p]? = some x) (v : Word64) :
    exec (.partitionTableWrite p 0 v) s = .next ((s.writeWays p (v.extractLsb' 8 24)).writePartEn p (v.getLsbD 0)) ∧
    exec (.partitionTableWrite p 1 v) s = .next (s.setPart p fun y => { y with ptroot := v }) ∧
    exec (.partitionTableWrite p 2 v) s = .next (s.writeQmask p v) ∧
    ∀ w, 3 ≤ w → exec (.partitionTableWrite p w v) s = .next s := by
  have e : ∀ w, exec (.partitionTableWrite p w v) s = .next (s.writePartition p w v (BitVec.allOnes 64)) := fun w => rfl
  simp only [e, State.writePartition, hx, putBits_allOnes, true_and]
  intro w hw
  match w, hw with
  | w + 3, _ => rfl

/-- Settles O49, register by register: the partition table, the pool map, and the words of the management range. -/
theorem managementRegisters : Obligations.ManagementRegisters := by
  refine ⟨fun p s x hx => ?_, fun cl pool s => ?_, fun p off v s x hp hx h8 ho => ?_, fun n v s c hn hc => ?_⟩
  · have word := exec_partitionTableWrite hx
    refine ⟨fun v => (word v).2.1, fun w v hw => (word v).2.2.2 w hw, fun v => ?_, fun v => ?_, fun ways => ?_⟩
    · refine ⟨_, { x with qmask := BitVec.ofNat 64 (bitSum (s.qmaskBit p v x) 64) }, (word v).2.2.1, ?_⟩
      rw [State.writeQmask_eq hx]
      refine ⟨rfl, fun n hn => by simp [Ne.symm hn], by simp [hx], rfl, fun q hq => ?_⟩
      rw [BitVec.getLsbD_ofNat, decide_eq_true hq, Bool.true_and, testBit_bitSum _ _ _ hq]
      exact s.qmaskBit_spec p v x q
    · obtain ⟨same, at_, -⟩ := State.writeWays_frame hx (v.extractLsb' 8 24)
      obtain ⟨mem, waves, qtab, insts⟩ := same
      obtain ⟨set, keep⟩ := State.writePartEn_spec at_ (v.getLsbD 0)
      rw [qtab] at set keep
      rw [(word v).1]
      by_cases hs : v.getLsbD 0 = true ∨ ¬ ∃ q, q < 64 ∧ x.qmask.getLsbD q = true ∧ (s.qtab.getD q QEntry.reset).en = true
      · rw [set hs]
        refine ⟨_, { x with ways := v.extractLsb' 8 24, en := v.getLsbD 0 }, rfl, ⟨mem, waves, qtab, insts⟩, by simp [at_], rfl,
          id, fun hv => iff_of_true hv (.inr ?_)⟩
        exact fun q hq hm he => hs.resolve_left (by simp only [hv]; exact Bool.false_ne_true) ⟨q, hq, hm, he⟩
      · obtain ⟨hv, busy⟩ := not_or.1 hs
        rw [keep (by simpa using hv) (Classical.not_not.1 busy)]
        refine ⟨_, { x with ways := v.extractLsb' 8 24 }, rfl, ⟨mem, waves, qtab, insts⟩, at_, rfl,
          fun h => absurd h hv, fun _ => ?_⟩
        obtain ⟨q, hq, hm, he⟩ := Classical.not_not.1 busy
        exact ⟨.inl, fun h => h.resolve_right fun h => h q hq hm he⟩
    · obtain ⟨same, at_, sys⟩ := State.writeWays_frame hx ways
      refine ⟨_, _, rfl, same, at_, rfl, rfl, rfl, fun e => ?_⟩
      rw [sys, List.mem_filter, Bool.not_eq_true', ← Bool.not_eq_true, Bool.and_eq_true, Bool.and_eq_true, beq_iff_eq,
        Bool.not_eq_true', and_assoc]
  · have e : exec (.poolMapWrite cl pool) s = .next (State.settle (s.writePool cl pool)) := rfl
    rw [e]
    refine ⟨fun h => ?_, fun h64 h0 h1 => ?_⟩
    · rw [State.writePool_barred]
      rcases h with h | h | h
      · exact .inl h
      · exact .inr (by simp [poolAllowed, h])
      · exact .inr (by simp [poolAllowed, h])
    · obtain ⟨now, later⟩ := s.writePool_allowed h64 ((poolAllowed_iff cl pool).2 ⟨h0, h1⟩)
      refine ⟨_, rfl, fun hf => ?_, fun hf => ?_, fun n hn => ?_⟩
      · rw [now hf]
        exact ⟨rfl, by simp [lookup_assocDel]⟩
      · rw [later hf]
        exact ⟨rfl, by simp [lookup_assocSet]⟩
      · by_cases hf : (∃ c, s.clusters[cl]? = some c ∧ c.job = none ∧ c.drain = none) ∧ s.clusterBusy cl = false
        · rw [now hf, lookup_assocDel, if_neg hn]
        · rw [later hf, lookup_assocSet, if_neg hn]
  · obtain ⟨rJt, rFq, rJh, rIa, rIl⟩ := s.writeWindow_registers p v hx
    obtain ⟨qDone, qOn, qOff⟩ := s.writeQueue_words (off / 32) v
    rw [exec_registerWrite_window s p off v hp h8 ho]
    refine ⟨?_, ?_, ?_, ?_, ?_, ?_, ?_, ?_, ?_, ?_, ?_⟩
    · rintro rfl; rw [rJt]; rfl
    · rintro rfl; rw [rFq]; rfl
    · rintro rfl; rw [rJh]; rfl
    · rintro rfl; rw [rIa]; rfl
    · rintro rfl; rw [rIl]; rfl
    · exact fun h => by rw [State.writeWindow_reserved s p v hx h]
    · exact fun h hq => by rw [State.writeWindow_queue s p v hx h, hq, if_neg Bool.false_ne_true]
    · intro h hw
      rw [State.writeWindow_queue s p v hx h, hw, qDone, ite_self]
    · intro h hw hq he
      obtain ⟨h0, h2⟩ := qOn he (BitVec.allOnes 64)
      rw [State.writeWindow_queue s p v hx h, if_pos hq]
      rcases (by omega : off % 32 = 0 ∨ off % 32 = 16) with e | e
      · rw [e, h0]
      · rw [e, h2]
    · intro h hq he
      obtain ⟨h0, h2⟩ := qOff he
      rw [State.writeWindow_queue s p v hx h, if_pos hq]
      exact ⟨fun e => by rw [e, h0]; rfl, fun e => by rw [e, h2]; rfl⟩
    · rintro j jb rfl hj hjb hjp
      rw [State.writeWindow_status s p v hx hj, State.clearStatus_own hjb hjp]
      refine ⟨_, rfl, rfl, ?_, fun n hn => ?_⟩
      · rw [State.regStat_setRegStat, if_pos (State.regStat_job s j).symm]
      · rw [State.regStat_setRegStat, if_neg (by simpa using hn)]
  · rw [exec_registerWrite_class hn hc, ClassBudget.write_allOnes]

end Sys2Proof.Machine
end

section
/-!
SUPPORT. A store to a memory whose cells are not in canonical form.  `Memory.set` takes the first cell above an address
to end the search, so that where cells do not rise (`Memory.wf` fails) a zero byte is not written: the statement on
stores, which does not ask for `Memory.wf`, fails there.
-/

namespace Sys2Proof.Machine

/-- Two cells in falling order: setting the byte at 0x10040 to 0 changes neither. -/
def fallingCells : List Host.Cell := [(0x10041, 1), (0x10040, 7)]

/-- A wave about to issue at PC 0x10000, on its readable and writable page, over these cells: S2 holds the address
0x10040, S3 holds 0. -/
def fallingBed : State :=
  ({ State.reset.placeWords [] with mem := fallingCells, agenda := [], cur := some (0, 0) } : State).setWave 0 fun v =>
    (v.sput 2 0x10040).sput 3 0

/-- `st.u.n8` of S3 at S2. -/
def zeroStore : MWord :=
  { dt := 0, u := true, lit := none, pk := 0, d := 0x83, a := 0x82, actl := 0, b := 0xFF, bctl := 0, off := 0, mod := 0 }

/-- The one access of the store: the byte at 0x10040. -/
def zeroStoreLane : LaneRes :=
  { lane := 0, addr := 0x10040, bad := none, spans := [{ place := .phys 0x10040 placedLeaf false, va := 0x10040, n := 1 }] }

/-- The byte at an address in the next state, if there is one. -/
def byteAfter (o : Host.Outcome State Fault Refusal) (a : Nat) : Option Byte :=
  match o with
  | .next t => some (Memory.get t.mem a)
  | _ => none

/-- The store leaves the byte 7 where it should be 0. -/
theorem zeroStore_leaves_byte : byteAfter (exec (.stU zeroStore) fallingBed) 0x10040 = some 7 := by decide +kernel

/-- The launch is neither checked nor deterministic, the lane passes its checks, nothing makes the access wait, and the
data is 0. -/
theorem zeroStore_begins : ∀ k ∈ fallingBed.ctx?,
    k.l.checked = false ∧ k.l.determ = false ∧ fallingBed.lanesFor k zeroStore .uniform .write false = [zeroStoreLane] ∧
    (fallingBed.memBegin k true true true [zeroStoreLane]).isOk = true ∧ k.storeData zeroStore .uniform 0 = 0 := by
  decide +kernel

/-- Its operands are ready. -/
theorem zeroStore_operands : ∀ k ∈ fallingBed.ctx?,
    let us := k.memUses zeroStore .uniform ++ k.dataUses zeroStore .uniform
    (∀ u ∈ us, k.wv.useEmpty u = false ∧ k.wv.usePending u = false) ∧ k.interlocked us [] = false ∧
    (let a := k.wv.freeUses us
     a.vregs.length + newNames (a.vregs.map (·.1)) [] true ≤ max k.l.vceil k.wv.vregs.length ∧
     a.sregs.length + newNames (a.sregs.map (·.1)) [] false ≤ max k.l.sceil k.wv.sregs.length) := by
  decide +kernel

theorem fallingBed_sound : fallingBed.Sound := ⟨rfl, by decide +kernel⟩

theorem zeroStoreLane_plain : fallingBed.PlainLanes [zeroStoreLane] := by
  intro r hr
  obtain rfl := List.mem_singleton.1 hr
  refine ⟨rfl, fun sp hsp => ?_⟩
  obtain rfl := List.mem_singleton.1 hsp
  exact ⟨0x10040, placedLeaf, false, rfl, by decide, by decide, fun d hd => nomatch hd⟩

/-- Refutes O30: memory is not assumed to be in canonical form.  Over cells in falling order a uniform store of the byte 0
leaves the 7 that stood at its address. -/
theorem not_storesAndScratch : ¬ Obligations.StoresAndScratch := by
  intro h
  obtain ⟨k, hk⟩ : ∃ k, fallingBed.ctx? = some k := Option.isSome_iff_exists.1 (by decide +kernel)
  obtain ⟨checked, determ, lanes, begins, data⟩ := zeroStore_begins k hk
  obtain ⟨sources, mate, fits⟩ := zeroStore_operands k hk
  obtain ⟨s0, hs0⟩ : ∃ s0, fallingBed.memBegin k true true true [zeroStoreLane] = .ok s0 := by
    cases e : fallingBed.memBegin k true true true [zeroStoreLane] with
    | ok s0 => exact ⟨s0, rfl⟩
    | error t => rw [e] at begins; cases begins
  have clear : k.Clear fallingBed (k.memUses zeroStore .uniform ++ k.dataUses zeroStore .uniform) [] :=
    ⟨sources, fun _ hd => (nomatch hd), mate, fits, fun hu => (nomatch hu)⟩
  have store := h.1 (.stU zeroStore) zeroStore .uniform false fallingBed s0 k rfl (by decide) (by decide +kernel) hk
    (fun hr => nomatch hr) (fun hr => nomatch hr)
  rw [lanes] at store
  obtain ⟨t, b, ht, -, -, -, -, plain, -⟩ := store (fun r hr => by rw [List.mem_singleton.1 hr]; rfl) hs0
    (fun hc => by rw [checked] at hc; cases hc) clear
  obtain ⟨-, -, bytes⟩ := (plain determ).2 (fun _ hr => nomatch hr) fallingBed_sound zeroStoreLane_plain
  have zero := bytes (List.pairwise_singleton _ _) zeroStoreLane (List.mem_singleton_self _) _ 0x10040 rfl rfl 0 Nat.one_pos
  have seven := zeroStore_leaves_byte
  rw [ht, byteAfter, Option.some.injEq, zero] at seven
  rw [show zeroStoreLane.lane = 0 from rfl, data] at seven
  exact absurd seven (by decide)

end Sys2Proof.Machine
end

section
/-!
SUPPORT. A step of `rsum` over a scratchpad whose cells are not in canonical form. `Memory.set` takes the first cell above
an address to end the search, so that where cells do not rise (`Memory.wf` fails) a zero byte is not written: the statement
on matrix steps, which does not ask the scratchpad for `Memory.wf`, fails there.
-/

namespace Sys2Proof.Machine

/-- The record of an `rsum` (R243, R246): one row of A, KSTEP 32, NSTEP 1, RING 1, a slot of 64 bytes at address 0 of the
scratchpad. -/
def sumRecord : Nat := 5 + putAt 32 80 + putAt 1 96 + putAt 1 112 + putAt 64 160

/-- Two cells in falling order: setting the byte at 36 to 0 changes neither. -/
def fallingScratch : List Host.Cell := [(37, 1), (36, 7)]

/-- A launch whose format slots are i8 in affine blocks of 32 at slot 0 and whose workgroups have 8,192 bytes of scratchpad, in
bank 0 of cluster 0 over these cells, and its `rsum` record, which has started. -/
def fallingTile : State :=
  let s := State.reset.placeWords []
  { s with
      agenda := []
      launches := s.launches.map fun l => { l with record := l.record + BitVec.ofNat 2048 (putAt 40 128 + putAt 0x2000 960) }
      clusters := s.clusters.modify 0 fun x =>
        { x with modes := x.modes.set 0 .scratch, scratch := fallingScratch
                 regions := [{ launch := 0, wg := 0, wsb := 0, size := 0x2000, area := 0 }] }
      cmds := (s.ctxOf 0 0).toList.map fun k =>
        { Cmd.fresh k (.mxPost ⟨0, true, none, 0, 0xFF, 0x84, 0, 0xFF, 0, 0xFF, 0, 0⟩) .tsq 1 0 1 sumRecord 0 0 0 with
            st := .started, begun := true } }

/-- A scratch byte in the next state, if there is one. -/
def scratchByteAfter (o : Host.Outcome State Fault Refusal) (cl a : Nat) : Option Byte :=
  match o with
  | .next t => some (t.scratchByte cl a)
  | _ => none

/-- The step leaves the byte 7 where the low byte of the row's sum should be. -/
theorem fallingTile_leaves_byte : scratchByteAfter (exec (.mmStep 0) fallingTile) 0 36 = some 7 := by decide +kernel

/-- The record is an `rsum` that has started and of whose step nothing has happened. -/
theorem fallingTile_started : ∀ c ∈ fallingTile.cmds[0]?,
    c.isRecord = true ∧ c.op = 5 ∧ c.st = .started ∧ c.begun = true ∧ c.ran = false ∧ c.todo = [] ∧ c.rows = [] ∧
    c.blocked = false := by
  decide +kernel

/-- The step waits for nothing, and its slot lies in the scratchpad. -/
theorem fallingTile_due : ∀ c ∈ fallingTile.cmds[0]?,
    fallingTile.engineStalled 0 = false ∧ fallingTile.granted = [] ∧ fallingTile.stepDue c = true ∧
    fallingTile.lockFree 0 (fallingTile.stepLocks c) = true ∧ fallingTile.slotLost c = false ∧
    slotSmode (fallingTile.recSlots c).1 = 2 ∧
    fallingTile.slotPlace c (bitOf c.desc.toNat 18) = some (some 0, 0) := by
  decide +kernel

/-- Its one row holds 32 zero bytes. -/
theorem fallingTile_gathers : ∀ c ∈ fallingTile.cmds[0]?, c.stepRows = [(false, 0)] ∧
    (fallingTile.gatherRow c (false, 0)).toOption = some (List.replicate 32 0) := by
  decide +kernel

/-- A result whose value is x. -/
theorem eq_ok_of_toOption {ε α : Type} {r : Except ε α} {x : α} (h : r.toOption = some x) : r = .ok x := by
  cases r with
  | ok y => exact congrArg Except.ok (Option.some.inj h)
  | error e => cases h

/-- The row has one block sum, which is 0 and stands at byte 36 of the slot (R244). -/
theorem fallingTile_sums : ∀ c ∈ fallingTile.cmds[0]?,
    let d := c.desc.toNat
    let fa := (fallingTile.recSlots c).1
    sumsAt fa (recKstep d) (if bitOf d 18 then recN d else recM d) = 36 ∧ recKstep d / blkLen (slotBlk fa) = 1 ∧
    (operandOf fa (recKstep d) true (List.replicate 32 0)).sums = [0] := by
  decide +kernel

theorem fallingTile_clusters : 0 < fallingTile.clusters.length ∧ ∀ x ∈ fallingTile.clusters[0]?, x.spoison = [] := by
  decide +kernel

/-- Refutes O43: the scratchpad is not assumed to be in canonical form. Over scratch cells in falling order a step of `rsum`
whose block sum is 0 leaves the 7 that stood at the sum's first byte. -/
theorem not_matrixAndElementwise : ¬ Obligations.MatrixAndElementwise := by
  intro h
  obtain ⟨c, hc⟩ : ∃ c, fallingTile.cmds[0]? = some c := Option.isSome_iff_exists.1 (by decide +kernel)
  obtain ⟨record, op, st, begun, ran, todo, rows, blocked⟩ := fallingTile_started c hc
  obtain ⟨stalled, granted, due, free, kept, affine, place⟩ := fallingTile_due c hc
  obtain ⟨stepRows, gathered⟩ := fallingTile_gathers c hc
  obtain ⟨start, blocks, sums⟩ := fallingTile_sums c hc
  obtain ⟨cluster, sound⟩ := fallingTile_clusters
  have reads : ∀ n r, c.stepRows[n]? = some r →
      fallingTile.gatherRow c r = .ok ([List.replicate 32 (0 : Byte)].getD n []) := by
    intro n r hr
    rw [stepRows] at hr
    cases n with
    | zero =>
      cases hr
      exact eq_ok_of_toOption gathered
    | succ n => cases hr
  obtain ⟨-, -, step⟩ := h.1 0 fallingTile c [List.replicate 32 0] hc record (.inr (.inr op)) st begun ran todo rows blocked
  obtain ⟨-, sum⟩ := step stalled (by rw [granted]; exact fun q hq => nomatch hq) due free kept (by rw [stepRows]; rfl) reads
  obtain ⟨t, e, ht, -, -, -, -, -, -, -, -, bytes, -⟩ := sum 0 0 op affine place sound cluster
  have zero := bytes 0 0 Nat.one_pos (by rw [blocks]; exact Nat.one_pos) 0 (by decide)
  rw [start, blocks, List.getD_cons_zero, sums] at zero
  have seven := fallingTile_leaves_byte
  rw [ht, scratchByteAfter, Option.some.injEq] at seven
  exact absurd (seven.symm.trans zero) (by decide)

end Sys2Proof.Machine
end
